-- ==== Sys2Proof/Word.lean ====
section
/-! DEFINITION. Machine words and the plain finite maps the state is made of. -/

namespace Sys2Proof

abbrev Byte := BitVec 8
abbrev W16 := BitVec 16
abbrev W32 := BitVec 32
abbrev W64 := BitVec 64
/-- A vector register: 256 bytes, byte B in bits 8B+7 to 8B (R126). -/
abbrev VReg := BitVec 2048
/-- A predicate: one bit per byte lane (R127). -/
abbrev PReg := BitVec 256
/-- A hypervector register (R157). -/
abbrev HReg := BitVec 8192
/-- A counter array: 8192 counters in 16-bit slots (R25, R157). -/
abbrev BArr := BitVec 131072
/-- A scalar or vector register number. -/
abbrev Reg := Fin 32
/-- A predicate number. -/
abbrev Pg := Fin 8
/-- A hypervector register or counter-array number as a word names it. -/
abbrev HIdx := Fin 8

/-- A finite map keyed by numbers, as plain data: pairs with rising keys. -/
abbrev NMap (α : Type) := List (Nat × α)

namespace NMap
variable {α : Type}

/-- The value at a key, if any. -/
def find (m : NMap α) (k : Nat) : Option α :=
  match m with
  | [] => none
  | (j, a) :: r => if j = k then some a else find r k

/-- The value at a key, or `d`. -/
def getD (m : NMap α) (k : Nat) (d : α) : α := (find m k).getD d

/-- The map with `a` at key `k`. -/
def put (m : NMap α) (k : Nat) (a : α) : NMap α :=
  match m with
  | [] => [(k, a)]
  | (j, b) :: r => if k < j then (k, a) :: (j, b) :: r else if j = k then (k, a) :: r else (j, b) :: put r k a

/-- The map without key `k`. -/
def del (m : NMap α) (k : Nat) : NMap α := m.filter fun p => p.1 != k

/-- The keys, rising. -/
def keys (m : NMap α) : List Nat := m.map (·.1)

/-- The values in order of key. -/
def vals (m : NMap α) : List α := m.map (·.2)

end NMap

end Sys2Proof
end

