-- ==== Sys2Proof/Config.lean ====
section
/-! DEFINITION. What the manual leaves to an implementation: free values, each an opaque constant that no proof
can evaluate. A statement that holds of the model holds whatever these are. -/

namespace Sys2Proof

/-- Free choice of a special function's result among those inside the bounds of R122 (EXACT = 0): by function,
format code, input encoding and APX. Log entry 10. -/
opaque Config.specPick : Nat → Nat → Nat → Bool → Nat

/-- Contents of memory that has been in OFF (R321), by loss and place. Log entry 2. -/
opaque Config.lostByte : Nat → Nat → Byte

/-- Bytes of the replay area of a Hatbox (R25), by task, moment of the save and offset. Log entry 51. -/
opaque Config.replayByte : Nat → Nat → Nat → Byte

/-- The layout of a Hatcheck's control block (R82), which the manual does not give: its bytes, by what it holds and offset; and each
of the five things it holds after a store to it, by their values before and the bytes stored. Log entry 39. -/
opaque Config.controlByte : List Nat → Nat → Byte
opaque Config.controlStored : List Nat → List (Nat × Byte) → Nat → Nat

/-- Full bits of a frame that never held FE side state (R285), by physical word address. Log entry 11. -/
opaque Config.freeFull : Nat → Bool

/-- MSEQ of a frame that never held MASTER side state (R285), by physical granule address. Log entry 11. -/
opaque Config.freeMseq : Nat → Nat

/-- Floor, number of versions less one (mod 4) and slot contents of a word that never held VERSIONED side state
(R285), by physical word address. Log entry 11. -/
opaque Config.freeFloor : Nat → W16
opaque Config.freeSpan : Nat → Nat
opaque Config.freeSlot : Nat → Nat → W64

/-- Which dead register the core discards first (R27), by counter of evictions. Log entry 12. -/
opaque Config.evictPick : Nat → Nat

/-- A byte whose value the manual leaves unspecified after an instruction, by counter of free values: overlapping
copies (R190), MXPOSE overlaps (R238), other chunks of a reduce-scatter (R373), new KV slots (R299). Log entry 4. -/
opaque Config.freeByte : Nat → Byte

/-- A word the outside supplies: attestation signatures and identity (R334, R335), by counter. Log entry 13. -/
opaque Config.freeWord : Nat → W64

/-- Whether a run of a unit's self-test passes (R328): the hardware's own condition, by counter. Log entry 19. -/
opaque Config.testPasses : Nat → Bool

/-- SHA-384 of the bytes of an image and of a public key, and whether a signature over an image's bytes verifies with a key: ECDSA on
P-384 (R333: key, bytes, signature) and HSS (key, bytes, signature). The manual names these algorithms and does not give them. Log
entry 46. -/
opaque Config.sha384 : List Byte → BitVec 384
opaque Config.ecdsaVerifies : BitVec 768 → List Byte → BitVec 768 → Bool
opaque Config.hssVerifies : BitVec 480 → List Byte → List Byte → Bool

/-- SHA-384 of the partition configuration, whose bytes the manual does not lay out (R335), by the words of the configuration.
Log entry 13. -/
opaque Config.configDigest : List Nat → BitVec 384

end Sys2Proof
end

