-- ==== Sys2Proof/Syntax.lean ====
section
/-! DEFINITION. The instructions of the Odlos ISA and the commands and events of the machine: one constructor
per row of spec/opcode_table.json, in the table's order. Rows with a word (R30 to R39) come first; the rows after
`hvmovSeed` have no word: they are commands and events that the machine or its outside performs. -/

namespace Sys2Proof

/-- Access size of format M (R35, sz). -/
inductive Sz | b | h | w | d
deriving DecidableEq, Repr

/-- Ordering code (R35, sc): plain, or a scope. Code 7 names nothing. -/
inductive Sc | plain | core | clus | die | dev | sys | row
deriving DecidableEq, Repr

/-- Element format (R35, ft). -/
inductive Ft | fp32 | bf16 | fp16 | e4m3 | e5m2 | int32 | int16 | int8
deriving DecidableEq, Repr

/-- Operation of SUSP (R85). -/
inductive SuspOp | add | sub | mul | mulz | max | mm | cvt | call
deriving DecidableEq, Repr

/-- Response mode of BUDGET (R97). -/
inductive BudgetMode | fault | eager | sparkold
deriving DecidableEq, Repr

/-- Operation of TREE (R357). -/
inductive TreeOp | sum | max | min | and | or | topk8
deriving DecidableEq, Repr

/-- Duplicate-index mode of SCATTER (R188). -/
inductive ScatMode | last | first | add | max
deriving DecidableEq, Repr

/-- Kind of PHASE (R178): normal, compute, exchange. -/
inductive PhaseKind | n | c | x
deriving DecidableEq, Repr

/-- Reading policy of VLDV (R281). -/
inductive ViewPol | wait | take | mst
deriving DecidableEq, Repr

/-- Direction of VNRD (R150). -/
inductive Dir | west | east | north | south
deriving DecidableEq, Repr

/-- System register named by MFSR and MTSR (R43). -/
inductive SReg
  | status | cause | epc | tval | btgt | iter | taskid | tilex | tiley | tilez | core | allotn | livem | ntmo
  | dtime | uivec | uiepc | hvtie | hvcw | supcore | seqaddr
deriving DecidableEq, Repr

/-- What the patrol scrub finds at a granule (R326). -/
inductive ScrubFound | clean | corrected | uncorrected
deriving DecidableEq, Repr

def Sz.code : Sz → Nat
  | .b => 0 | .h => 1 | .w => 2 | .d => 3
/-- Bytes of the access: 2^sz. -/
def Sz.bytes : Sz → Nat
  | .b => 1 | .h => 2 | .w => 4 | .d => 8
def Sz.ofCode : Nat → Sz
  | 0 => .b | 1 => .h | 2 => .w | _ => .d
def Sc.code : Sc → Nat
  | .plain => 0 | .core => 1 | .clus => 2 | .die => 3 | .dev => 4 | .sys => 5 | .row => 6
def Sc.ofCode? : Nat → Option Sc
  | 0 => some .plain | 1 => some .core | 2 => some .clus | 3 => some .die | 4 => some .dev | 5 => some .sys
  | 6 => some .row | _ => none
def Ft.code : Ft → Nat
  | .fp32 => 0 | .bf16 => 1 | .fp16 => 2 | .e4m3 => 3 | .e5m2 => 4 | .int32 => 5 | .int16 => 6 | .int8 => 7
def Ft.ofCode : Nat → Ft
  | 0 => .fp32 | 1 => .bf16 | 2 => .fp16 | 3 => .e4m3 | 4 => .e5m2 | 5 => .int32 | 6 => .int16 | _ => .int8
/-- Bytes of one element (R126). -/
def Ft.width : Ft → Nat
  | .fp32 => 4 | .int32 => 4 | .bf16 => 2 | .fp16 => 2 | .int16 => 2 | .e4m3 => 1 | .e5m2 => 1 | .int8 => 1
/-- The five floating-point formats (R103). -/
def Ft.isFloat : Ft → Bool
  | .int32 => false | .int16 => false | .int8 => false | _ => true
/-- ft codes 0 to 2, the formats of the special functions (R129). -/
def Ft.isWide : Ft → Bool
  | .fp32 => true | .bf16 => true | .fp16 => true | _ => false
def SuspOp.code : SuspOp → Nat
  | .add => 0 | .sub => 1 | .mul => 2 | .mulz => 3 | .max => 4 | .mm => 5 | .cvt => 6 | .call => 7
def SuspOp.ofCode : Nat → SuspOp
  | 0 => .add | 1 => .sub | 2 => .mul | 3 => .mulz | 4 => .max | 5 => .mm | 6 => .cvt | _ => .call
def BudgetMode.code : BudgetMode → Nat
  | .fault => 0 | .eager => 1 | .sparkold => 2
def BudgetMode.ofCode? : Nat → Option BudgetMode
  | 0 => some .fault | 1 => some .eager | 2 => some .sparkold | _ => none
def TreeOp.code : TreeOp → Nat
  | .sum => 0 | .max => 1 | .min => 2 | .and => 3 | .or => 4 | .topk8 => 5
def TreeOp.ofCode? : Nat → Option TreeOp
  | 0 => some .sum | 1 => some .max | 2 => some .min | 3 => some .and | 4 => some .or | 5 => some .topk8 | _ => none
def ScatMode.code : ScatMode → Nat
  | .last => 0 | .first => 1 | .add => 2 | .max => 3
def ScatMode.ofCode : Nat → ScatMode
  | 0 => .last | 1 => .first | 2 => .add | _ => .max
def PhaseKind.code : PhaseKind → Nat
  | .n => 0 | .c => 1 | .x => 2
def PhaseKind.ofCode? : Nat → Option PhaseKind
  | 0 => some .n | 1 => some .c | 2 => some .x | _ => none
def ViewPol.code : ViewPol → Nat
  | .wait => 0 | .take => 1 | .mst => 2
def ViewPol.ofCode? : Nat → Option ViewPol
  | 0 => some .wait | 1 => some .take | 2 => some .mst | _ => none
def Dir.code : Dir → Nat
  | .west => 0 | .east => 1 | .north => 2 | .south => 3
def Dir.ofCode : Nat → Dir
  | 0 => .west | 1 => .east | 2 => .north | _ => .south
/-- The opposite direction (R150). -/
def Dir.opp : Dir → Dir
  | .west => .east | .east => .west | .north => .south | .south => .north
def SReg.code : SReg → Nat
  | .status => 0 | .cause => 1 | .epc => 2 | .tval => 3 | .btgt => 4 | .iter => 5 | .taskid => 6 | .tilex => 7
  | .tiley => 8 | .tilez => 9 | .core => 10 | .allotn => 11 | .livem => 12 | .ntmo => 13 | .dtime => 14
  | .uivec => 15 | .uiepc => 16 | .hvtie => 17 | .hvcw => 18 | .supcore => 19 | .seqaddr => 20
def SReg.ofCode? : Nat → Option SReg
  | 0 => some .status | 1 => some .cause | 2 => some .epc | 3 => some .tval | 4 => some .btgt | 5 => some .iter
  | 6 => some .taskid | 7 => some .tilex | 8 => some .tiley | 9 => some .tilez | 10 => some .core
  | 11 => some .allotn | 12 => some .livem | 13 => some .ntmo | 14 => some .dtime | 15 => some .uivec
  | 16 => some .uiepc | 17 => some .hvtie | 18 => some .hvcw | 19 => some .supcore | 20 => some .seqaddr
  | _ => none

/-- One row of the opcode table each. -/
inductive Instr where
  /-- NOP (R64): Does nothing. -/
  | nop
  /-- TRAP (R64): Raises TRAPI with TVAL = xa, with EPC at the following unit. -/
  | trap (ra : Reg)
  /-- ERET (R75): Returns from a trap: restores x24 to x31 and the level, reloads the sequencer if the trap was vector-precise, and resumes at EPC or the delay slot. -/
  | eret
  /-- HALT (R64): Parks the task until a RESUME message names its TASKID. -/
  | halt
  /-- URET (R79): Returns from a user-level interrupt handler: restores x24 to x31 and clears UIA. -/
  | uret
  /-- SELFTEST (R65): Starts the targeted self-test of a named unit and writes 0, 1 or 2 to xd. -/
  | selftest (rd : Reg) (ra : Reg)
  /-- RESUME (R66): Sends a RESUME message with a TASKID and an engine tag to a core. -/
  | resume (ra : Reg) (rb : Reg)
  /-- MFSR (R67): Reads a system register into xd. -/
  | mfsr (rd : Reg) (sr : SReg)
  /-- MTSR (R67): Writes xa to a system register, subject to access checks; takes effect for the next unit. -/
  | mtsr (ra : Reg) (sr : SReg)
  /-- J (R54): Jumps PC-relative, with one delay slot. -/
  | j (off : BitVec 24)
  /-- JL (R54): Jumps PC-relative and writes the return address to lk. -/
  | jl (off : BitVec 24)
  /-- JR (R54): Jumps to the address in xa. -/
  | jr (ra : Reg)
  /-- JLR (R54): Jumps to the address in xa and writes the return address to xd. -/
  | jlr (rd : Reg) (ra : Reg)
  /-- BEQ (R54): Branches when xa equals xb. -/
  | beq (ra : Reg) (rb : Reg) (off : BitVec 14)
  /-- BNE (R54): Branches when xa differs from xb. -/
  | bne (ra : Reg) (rb : Reg) (off : BitVec 14)
  /-- BLT (R54): Branches when xa is less than xb, signed. -/
  | blt (ra : Reg) (rb : Reg) (off : BitVec 14)
  /-- BGE (R54): Branches when xa is at least xb, signed. -/
  | bge (ra : Reg) (rb : Reg) (off : BitVec 14)
  /-- BLTU (R54): Branches when xa is less than xb, unsigned. -/
  | bltu (ra : Reg) (rb : Reg) (off : BitVec 14)
  /-- BGEU (R54): Branches when xa is at least xb, unsigned. -/
  | bgeu (ra : Reg) (rb : Reg) (off : BitVec 14)
  /-- LI (R53): Loads a sign-extended 14-bit immediate. -/
  | li (rd : Reg) (imm : BitVec 14)
  /-- LIS (R53): Shifts xa left by 14 and ORs in an unsigned immediate. -/
  | lis (rd : Reg) (ra : Reg) (imm : BitVec 14)
  /-- LEA (R53): Writes a PC-relative address to xd. -/
  | lea (rd : Reg) (imm : BitVec 14)
  /-- LD (R175): Loads a zero-extended scalar value, optionally with acquire at a scope. -/
  | ld (rd : Reg) (ra : Reg) (sz : Sz) (sc : Sc) (imm : BitVec 9)
  /-- LDS (R175): Loads a sign-extended scalar value. -/
  | lds (rd : Reg) (ra : Reg) (sz : Sz) (sc : Sc) (imm : BitVec 9)
  /-- ST (R175): Stores a scalar value, optionally with release at a scope. -/
  | st (rd : Reg) (ra : Reg) (sz : Sz) (sc : Sc) (imm : BitVec 9)
  /-- LDV (R265): Loads a named version of a versioned word, parking until that version is created. -/
  | ldv (rd : Reg) (ra : Reg) (rb : Reg) (sc : Sc)
  /-- LDVL (R265): Loads the latest version of a versioned word. -/
  | ldvl (rd : Reg) (ra : Reg) (sc : Sc)
  /-- STV (R265): Stores a new version of a versioned word, parking while four versions are held. -/
  | stv (rd : Reg) (ra : Reg) (rb : Reg) (sc : Sc)
  /-- RECLAIM (R265): Raises the floor of a versioned word, retiring older versions. -/
  | reclaim (rd : Reg) (ra : Reg) (rb : Reg) (sc : Sc)
  /-- LDF (R259): Waits until a full-empty word is full, then reads it and leaves it full. -/
  | ldf (rd : Reg) (ra : Reg) (sc : Sc)
  /-- LDFE (R259): Waits until a full-empty word is full, then reads it and empties it. -/
  | ldfe (rd : Reg) (ra : Reg) (sc : Sc)
  /-- STF (R259): Stores a full-empty word and sets it full. -/
  | stf (ra : Reg) (rb : Reg) (sc : Sc)
  /-- STE (R259): Clears the full bit of a full-empty word. -/
  | ste (ra : Reg) (sc : Sc)
  /-- AADD (R215): Atomically adds xb at the address and returns the old value. -/
  | aadd (rd : Reg) (ra : Reg) (rb : Reg) (dbl : Bool) (sc : Sc)
  /-- AAND (R215): Atomic AND, returning the old value. -/
  | aand (rd : Reg) (ra : Reg) (rb : Reg) (dbl : Bool) (sc : Sc)
  /-- AOR (R215): Atomic OR, returning the old value. -/
  | aor (rd : Reg) (ra : Reg) (rb : Reg) (dbl : Bool) (sc : Sc)
  /-- AXOR (R215): Atomic XOR, returning the old value. -/
  | axor (rd : Reg) (ra : Reg) (rb : Reg) (dbl : Bool) (sc : Sc)
  /-- AMIN (R215): Atomic signed minimum, returning the old value. -/
  | amin (rd : Reg) (ra : Reg) (rb : Reg) (dbl : Bool) (sc : Sc)
  /-- AMAX (R215): Atomic signed maximum, returning the old value. -/
  | amax (rd : Reg) (ra : Reg) (rb : Reg) (dbl : Bool) (sc : Sc)
  /-- ASWAP (R215): Atomic swap, returning the old value. -/
  | aswap (rd : Reg) (ra : Reg) (rb : Reg) (dbl : Bool) (sc : Sc)
  /-- ACAS (R215): Atomic compare-and-swap against xd, returning the old value. -/
  | acas (rd : Reg) (ra : Reg) (rb : Reg) (dbl : Bool) (sc : Sc)
  /-- LDLK (R215): Reads a word and sets its lock bit, retrying while the bit is held. -/
  | ldlk (rd : Reg) (ra : Reg) (dbl : Bool) (sc : Sc)
  /-- STUL (R215): Stores a word and clears the held lock bit. -/
  | stul (rd : Reg) (ra : Reg) (dbl : Bool) (sc : Sc)
  /-- ROWADD (R219): Adds vector registers into up to four segments of a row as one step under the row lock. -/
  | rowadd (rd : Reg) (ra : Reg) (rb : Reg) (sc : Sc)
  /-- ROWMAX (R219): Takes the element-wise maximum into row segments as one step. -/
  | rowmax (rd : Reg) (ra : Reg) (rb : Reg) (sc : Sc)
  /-- ROWLD (R219): Loads row segments into vector registers as one step. -/
  | rowld (rd : Reg) (ra : Reg) (rb : Reg) (sc : Sc)
  /-- ROWST (R219): Stores vector registers into row segments as one step. -/
  | rowst (rd : Reg) (ra : Reg) (rb : Reg) (sc : Sc)
  /-- FENCE (R254): Waits until earlier accesses are performed at a scope, then returns and clears the failure record. -/
  | fence (rd : Reg) (sc : Sc)
  /-- VLD (R182): Loads four 64-byte granules into a vector register. -/
  | vld (vr : Reg) (ra : Reg) (rb : Reg) (pg : Pg) (sc : Sc)
  /-- VST (R182): Stores the active bytes of a vector register as four granules. -/
  | vst (vr : Reg) (ra : Reg) (rb : Reg) (pg : Pg) (sc : Sc)
  /-- VLDS (R182): Loads eight 32-byte pieces at a signed stride. -/
  | vlds (vr : Reg) (ra : Reg) (rb : Reg) (pg : Pg) (sc : Sc)
  /-- VSTS (R182): Stores eight 32-byte pieces at a signed stride. -/
  | vsts (vr : Reg) (ra : Reg) (rb : Reg) (pg : Pg) (sc : Sc)
  /-- VLDX (R182): Loads eight 32-byte pieces at byte indices taken from xb. -/
  | vldx (vr : Reg) (ra : Reg) (rb : Reg) (pg : Pg) (sc : Sc)
  /-- VSTX (R182): Stores eight 32-byte pieces at byte indices taken from xb. -/
  | vstx (vr : Reg) (ra : Reg) (rb : Reg) (pg : Pg) (sc : Sc)
  /-- VSTQ (R183): Hands one 64-byte matrix command to the core's matrix queue. -/
  | vstq (vr : Reg) (ra : Reg) (rb : Reg)
  /-- VLDV (R281): Reads view blocks and their scales under the wait, take or mst policy. -/
  | vldv (vr : Reg) (ra : Reg) (rb : Reg) (pg : Pg) (sc : Sc) (pol : ViewPol)
  /-- HVLD (R167): Loads 1 KiB into a hypervector register. -/
  | hvld (rd : HIdx) (xs : Reg) (sc : Sc)
  /-- HVLD_B (R167): Loads 16 KiB into a counter array, clamping each counter. -/
  | hvldB (rd : HIdx) (xs : Reg) (sc : Sc)
  /-- HVST (R167): Stores a hypervector register as 1 KiB. -/
  | hvst (ra : HIdx) (xs : Reg) (sc : Sc)
  /-- HVST_B (R167): Stores a counter array as 16 KiB of 16-bit slots. -/
  | hvstB (ra : HIdx) (xs : Reg) (sc : Sc)
  /-- HVMEMST (R169): Writes a hypervector into an item memory entry. -/
  | hvmemst (ra : HIdx) (xs : Reg)
  /-- STRM (R185): Binds a stream register to the affine walk of a descriptor. -/
  | strm (ra : Reg) (rb : Reg)
  /-- STRMOFF (R185): Ends a stream binding. -/
  | strmoff (rb : Reg)
  /-- STRMQ (R185): Returns the state of a stream register. -/
  | strmq (rd : Reg) (rb : Reg)
  /-- COPY (R189): Checks a copy descriptor and issues a COPY command to the copy engine, returning a tag. -/
  | copy (rd : Reg) (ra : Reg)
  /-- GATHER (R189): Issues an indexed-source copy command, returning a tag. -/
  | gather (rd : Reg) (ra : Reg)
  /-- SCATTER (R189): Issues an indexed-destination copy command in one of four duplicate modes. -/
  | scatter (rd : Reg) (ra : Reg) (mode : ScatMode)
  /-- CSTAT (R192): Reports the state and rows done of an engine command tag. -/
  | cstat (rd : Reg) (ra : Reg)
  /-- SENDMSG (R196): Sends a USER message to a core, stalling while its mailbox is full. -/
  | sendmsg (ra : Reg) (rb : Reg)
  /-- WAITMSG (R196): Removes the oldest selected message into xd, parking while none is present. -/
  | waitmsg (rd : Reg) (ra : Reg)
  /-- POLLMSG (R196): Removes the oldest selected message, or writes 0 at once. -/
  | pollmsg (rd : Reg) (ra : Reg)
  /-- UIEN (R196): Sets the task's user-interrupt mask and UIE. -/
  | uien (ra : Reg)
  /-- TASKW (R17): Inserts a waiting-task entry into the target core's table. -/
  | taskw (rd : Reg) (ra : Reg) (rb : Reg)
  /-- DONE (R20): Drains the task, takes pending reports, and retires the task. -/
  | done
  /-- WRC (R18): Stores a doubleword and adds 1 to a message counter on a target core. -/
  | wrc (rd : Reg) (ra : Reg) (rb : Reg) (n : Fin 16)
  /-- WRC_C (R18): Stores a count and adds 1 minus the count to a target core's counter. -/
  | wrcC (rd : Reg) (ra : Reg) (rb : Reg) (n : Fin 16)
  /-- CTRRD (R19): Reads a message counter of the issuing core. -/
  | ctrrd (rd : Reg) (n : Fin 16)
  /-- CTRSET (R19): Sets a message counter and evaluates the launch conditions on it. -/
  | ctrset (ra : Reg) (n : Fin 16)
  /-- SUSP (R88): Creates a suspended handle entry for an operation on argument handles. -/
  | susp (rd : Reg) (ra : Reg) (rb : Reg) (op : SuspOp)
  /-- FORCE (R93): Returns a handle's value address, evaluating or waiting as the entry's state requires. -/
  | force (rd : Reg) (ra : Reg)
  /-- SPARK (R96): Offers a suspended handle to the cluster's spark pool. -/
  | spark (rd : Reg) (ra : Reg)
  /-- MKVAL (R87): Makes a value handle for a tile in memory. -/
  | mkval (rd : Reg) (ra : Reg) (rb : Reg)
  /-- PEEK (R89): Returns a handle entry's state and reference count. -/
  | peek (rd : Reg) (ra : Reg)
  /-- KEEP (R90): Adds a reference to a handle without waiting for its home. -/
  | keep (ra : Reg)
  /-- DROP (R91): Removes a reference from a handle, freeing the entry at zero. -/
  | drop (ra : Reg)
  /-- BUDGET (R97): Sets the partition's space bound and response mode, returning the total. -/
  | budget (rd : Reg) (ra : Reg) (mode : BudgetMode)
  /-- GJOIN (R206): Adds the task to a cluster group. -/
  | gjoin (rd : Reg) (ra : Reg)
  /-- GLEAVE (R206): Removes the task from a cluster group. -/
  | gleave (rd : Reg) (ra : Reg)
  /-- GBAR (R207): Parks the task at its group's barrier. -/
  | gbar (rd : Reg) (ra : Reg)
  /-- FOLLOW (R208): Makes the task execute its group leader's units from a label. -/
  | follow (ra : Reg) (rb : Reg)
  /-- SYNCALL (R358): Arrives at the launch-wide superstep barrier and parks. -/
  | syncall (rd : Reg)
  /-- TREE (R359): Contributes a 64-byte record to the launch's next reduction round and parks. -/
  | tree (rd : Reg) (ra : Reg) (rb : Reg) (op : TreeOp)
  /-- PHASE (R178): Drains and sets STATUS.PH to normal, compute or exchange phase. -/
  | phase (kind : PhaseKind)
  /-- SENDAT (R212): Schedules a vector to cross to a peer core at a fixed exchange cycle. -/
  | sendat (vr : Reg) (peer : Fin 8) (cyc : BitVec 14)
  /-- RECVAT (R212): Takes the vector that a peer sent for a fixed cycle, or raises PHASE. -/
  | recvat (vr : Reg) (peer : Fin 8) (cyc : BitVec 14)
  /-- VIEWREG (R276): Registers a view of a master and starts its initial derivations. -/
  | viewreg (rd : Reg) (ra : Reg)
  /-- VIEWDROP (R277): Closes a view, waits for its readers and derivations, and frees its id. -/
  | viewdrop (rd : Reg) (ra : Reg)
  /-- VIEWST (R278): Reads, and optionally clears, a view or partition counter. -/
  | viewst (rd : Reg) (ra : Reg) (rb : Reg)
  /-- KVSLOT (R298): Resolves a sequence position to its slot without accessing data. -/
  | kvslot (rd : Reg) (ra : Reg) (rb : Reg)
  /-- KVAPP (R299): Appends positions to a KV sequence, copying a shared tail block. -/
  | kvapp (rd : Reg) (ra : Reg) (rb : Reg)
  /-- KVTRUNC (R300): Truncates a KV sequence, or makes it a fork of another. -/
  | kvtrunc (rd : Reg) (ra : Reg) (rb : Reg)
  /-- KVEVICT (R301): Evicts, demotes, promotes or drops a KV block. -/
  | kvevict (rd : Reg) (ra : Reg) (rb : Reg)
  /-- RMAPSET (R292): Sets a remap window row to a target or to ABSENT. -/
  | rmapset (ra : Reg) (rb : Reg)
  /-- TLBINV (R288): Invalidates the cached translations and walks of a virtual range. -/
  | tlbinv (ra : Reg) (rb : Reg)
  /-- GQPUSH (R308): Pushes a typed gradient record into a queue, parking at a zero window. -/
  | gqpush (vr : Reg) (ra : Reg) (rb : Reg)
  /-- GQPOP (R309): Pops the oldest record of a gradient queue, parking while it is empty. -/
  | gqpop (rd : Reg) (ra : Reg) (vr : Reg)
  /-- GQWIN (R310): Reads the occupancy and window of a gradient queue. -/
  | gqwin (rd : Reg) (ra : Reg)
  /-- CEPOST (R371): Checks a collective descriptor and hands it to the ring's collective engine, returning a tag. -/
  | cepost (rd : Reg) (ra : Reg)
  /-- CEARB (R378): Sets the partition's arbitration weights and returns the previous ones. -/
  | cearb (rd : Reg) (ra : Reg)
  /-- REGION (R100): Opens a new counting region, closing any open one. -/
  | region (rd : Reg) (ra : Reg)
  /-- QUIET (R100): Parks the task until the counting region is quiescent. -/
  | quiet (rd : Reg)
  /-- ALLOT (R60): Sets the vector allotment and declares or drops hypervector state. -/
  | allot (ra : Reg) (hv : Bool)
  /-- LIVE (R62): Writes the liveness mask LIVEM. -/
  | live (ra : Reg)
  /-- ANOP (R38): Arithmetic no-operation. -/
  | anop
  /-- ADD (R50): Adds two registers modulo 2^64. -/
  | add (rd : Reg) (ra : Reg) (rb : Reg)
  /-- SUB (R50): Subtracts two registers. -/
  | sub (rd : Reg) (ra : Reg) (rb : Reg)
  /-- AND (R50): Bitwise AND. -/
  | and (rd : Reg) (ra : Reg) (rb : Reg)
  /-- OR (R50): Bitwise OR. -/
  | or (rd : Reg) (ra : Reg) (rb : Reg)
  /-- XOR (R50): Bitwise XOR. -/
  | xor (rd : Reg) (ra : Reg) (rb : Reg)
  /-- SLL (R50): Shifts left by b[5:0]. -/
  | sll (rd : Reg) (ra : Reg) (rb : Reg)
  /-- SRL (R50): Shifts right with zero fill. -/
  | srl (rd : Reg) (ra : Reg) (rb : Reg)
  /-- SRA (R50): Shifts right with sign fill. -/
  | sra (rd : Reg) (ra : Reg) (rb : Reg)
  /-- MUL (R50): Low 64 bits of the product. -/
  | mul (rd : Reg) (ra : Reg) (rb : Reg)
  /-- MULH (R50): High 64 bits of the signed product. -/
  | mulh (rd : Reg) (ra : Reg) (rb : Reg)
  /-- MULHU (R50): High 64 bits of the unsigned product. -/
  | mulhu (rd : Reg) (ra : Reg) (rb : Reg)
  /-- DIV (R51): Signed division that never traps. -/
  | div (rd : Reg) (ra : Reg) (rb : Reg)
  /-- DIVU (R51): Unsigned division that never traps. -/
  | divu (rd : Reg) (ra : Reg) (rb : Reg)
  /-- REM (R51): Signed remainder. -/
  | rem (rd : Reg) (ra : Reg) (rb : Reg)
  /-- REMU (R51): Unsigned remainder. -/
  | remu (rd : Reg) (ra : Reg) (rb : Reg)
  /-- MIN (R50): Signed minimum. -/
  | min (rd : Reg) (ra : Reg) (rb : Reg)
  /-- MAX (R50): Signed maximum. -/
  | max (rd : Reg) (ra : Reg) (rb : Reg)
  /-- MINU (R50): Unsigned minimum. -/
  | minu (rd : Reg) (ra : Reg) (rb : Reg)
  /-- MAXU (R50): Unsigned maximum. -/
  | maxu (rd : Reg) (ra : Reg) (rb : Reg)
  /-- SLT (R50): Sets 1 if signed less than. -/
  | slt (rd : Reg) (ra : Reg) (rb : Reg)
  /-- SLTU (R50): Sets 1 if unsigned less than. -/
  | sltu (rd : Reg) (ra : Reg) (rb : Reg)
  /-- CLZ (R50): Counts leading zero bits. -/
  | clz (rd : Reg) (ra : Reg)
  /-- CTZ (R50): Counts trailing zero bits. -/
  | ctz (rd : Reg) (ra : Reg)
  /-- POPC (R50): Counts one bits. -/
  | popc (rd : Reg) (ra : Reg)
  /-- ADDI (R52): Adds a signed immediate. -/
  | addi (rd : Reg) (ra : Reg) (imm : BitVec 14)
  /-- ANDI (R52): ANDs a signed immediate. -/
  | andi (rd : Reg) (ra : Reg) (imm : BitVec 14)
  /-- ORI (R52): ORs a signed immediate. -/
  | ori (rd : Reg) (ra : Reg) (imm : BitVec 14)
  /-- XORI (R52): XORs a signed immediate. -/
  | xori (rd : Reg) (ra : Reg) (imm : BitVec 14)
  /-- SLLI (R52): Shifts left by an immediate. -/
  | slli (rd : Reg) (ra : Reg) (imm : BitVec 6)
  /-- SRLI (R52): Shifts right by an immediate with zero fill. -/
  | srli (rd : Reg) (ra : Reg) (imm : BitVec 6)
  /-- SRAI (R52): Shifts right by an immediate with sign fill. -/
  | srai (rd : Reg) (ra : Reg) (imm : BitVec 6)
  /-- SLTI (R52): Sets 1 if less than a signed immediate. -/
  | slti (rd : Reg) (ra : Reg) (imm : BitVec 14)
  /-- VADD (R139): Element-wise addition. -/
  | vadd (rd : Reg) (ra : Reg) (rb : Reg) (pg : Pg) (ft : Ft)
  /-- VSUB (R139): Element-wise subtraction. -/
  | vsub (rd : Reg) (ra : Reg) (rb : Reg) (pg : Pg) (ft : Ft)
  /-- VMUL (R139): Element-wise multiplication. -/
  | vmul (rd : Reg) (ra : Reg) (rb : Reg) (pg : Pg) (ft : Ft)
  /-- VMULZ (R139): Element-wise multiplication in which zero times anything is +0. -/
  | vmulz (rd : Reg) (ra : Reg) (rb : Reg) (pg : Pg) (ft : Ft)
  /-- VMIN (R139): Element-wise minimum. -/
  | vmin (rd : Reg) (ra : Reg) (rb : Reg) (pg : Pg) (ft : Ft)
  /-- VMAX (R139): Element-wise maximum. -/
  | vmax (rd : Reg) (ra : Reg) (rb : Reg) (pg : Pg) (ft : Ft)
  /-- VFMA (R139): Fused multiply-add into vd. -/
  | vfma (rd : Reg) (ra : Reg) (rb : Reg) (pg : Pg) (ft : Ft)
  /-- VFMAZ (R139): Fused multiply-add with the zero-product rule. -/
  | vfmaz (rd : Reg) (ra : Reg) (rb : Reg) (pg : Pg) (ft : Ft)
  /-- VADD_X (R139): Adds a broadcast scalar. -/
  | vaddX (rd : Reg) (ra : Reg) (rb : Reg) (pg : Pg) (ft : Ft)
  /-- VSUB_X (R139): Subtracts a broadcast scalar. -/
  | vsubX (rd : Reg) (ra : Reg) (rb : Reg) (pg : Pg) (ft : Ft)
  /-- VMUL_X (R139): Multiplies by a broadcast scalar. -/
  | vmulX (rd : Reg) (ra : Reg) (rb : Reg) (pg : Pg) (ft : Ft)
  /-- VMULZ_X (R139): Zero-product multiplication by a broadcast scalar. -/
  | vmulzX (rd : Reg) (ra : Reg) (rb : Reg) (pg : Pg) (ft : Ft)
  /-- VMIN_X (R139): Minimum against a broadcast scalar. -/
  | vminX (rd : Reg) (ra : Reg) (rb : Reg) (pg : Pg) (ft : Ft)
  /-- VMAX_X (R139): Maximum against a broadcast scalar. -/
  | vmaxX (rd : Reg) (ra : Reg) (rb : Reg) (pg : Pg) (ft : Ft)
  /-- VFMA_X (R139): Fused multiply-add with a broadcast scalar. -/
  | vfmaX (rd : Reg) (ra : Reg) (rb : Reg) (pg : Pg) (ft : Ft)
  /-- VFMAZ_X (R139): Zero-product fused multiply-add with a broadcast scalar. -/
  | vfmazX (rd : Reg) (ra : Reg) (rb : Reg) (pg : Pg) (ft : Ft)
  /-- VAND (R141): Element-wise AND. -/
  | vand (rd : Reg) (ra : Reg) (rb : Reg) (pg : Pg) (ft : Ft)
  /-- VOR (R141): Element-wise OR. -/
  | vor (rd : Reg) (ra : Reg) (rb : Reg) (pg : Pg) (ft : Ft)
  /-- VXOR (R141): Element-wise XOR. -/
  | vxor (rd : Reg) (ra : Reg) (rb : Reg) (pg : Pg) (ft : Ft)
  /-- VANDN (R141): Element-wise AND with the complement of b. -/
  | vandn (rd : Reg) (ra : Reg) (rb : Reg) (pg : Pg) (ft : Ft)
  /-- VSHL (R141): Element-wise left shift. -/
  | vshl (rd : Reg) (ra : Reg) (rb : Reg) (pg : Pg) (ft : Ft)
  /-- VSHR (R141): Element-wise logical right shift. -/
  | vshr (rd : Reg) (ra : Reg) (rb : Reg) (pg : Pg) (ft : Ft)
  /-- VSAR (R141): Element-wise arithmetic right shift. -/
  | vsar (rd : Reg) (ra : Reg) (rb : Reg) (pg : Pg) (ft : Ft)
  /-- VROTL (R141): Element-wise left rotation. -/
  | vrotl (rd : Reg) (ra : Reg) (rb : Reg) (pg : Pg) (ft : Ft)
  /-- VCEQ (R142): Compares for equality into a predicate. -/
  | vceq (rd : Pg) (ra : Reg) (rb : Reg) (pg : Pg) (ft : Ft)
  /-- VCNE (R142): Compares for inequality into a predicate. -/
  | vcne (rd : Pg) (ra : Reg) (rb : Reg) (pg : Pg) (ft : Ft)
  /-- VCLT (R142): Compares less than into a predicate. -/
  | vclt (rd : Pg) (ra : Reg) (rb : Reg) (pg : Pg) (ft : Ft)
  /-- VCLE (R142): Compares less or equal into a predicate. -/
  | vcle (rd : Pg) (ra : Reg) (rb : Reg) (pg : Pg) (ft : Ft)
  /-- VCGT (R142): Compares greater than into a predicate. -/
  | vcgt (rd : Pg) (ra : Reg) (rb : Reg) (pg : Pg) (ft : Ft)
  /-- VCGE (R142): Compares greater or equal into a predicate. -/
  | vcge (rd : Pg) (ra : Reg) (rb : Reg) (pg : Pg) (ft : Ft)
  /-- VCNAN (R142): Marks NaN elements in a predicate. -/
  | vcnan (rd : Pg) (ra : Reg) (pg : Pg) (ft : Ft)
  /-- VCINF (R142): Marks infinite elements in a predicate. -/
  | vcinf (rd : Pg) (ra : Reg) (pg : Pg) (ft : Ft)
  /-- VMOV (R143): Copies the active bytes of a register. -/
  | vmov (rd : Reg) (ra : Reg) (pg : Pg)
  /-- VSEL (R143): Selects bytes from va or vb by a predicate. -/
  | vsel (rd : Reg) (ra : Reg) (rb : Reg) (pg : Pg)
  /-- VBCAST (R143): Broadcasts a scalar encoding into active elements. -/
  | vbcast (rd : Reg) (rb : Reg) (pg : Pg) (ft : Ft)
  /-- PAND (R143): ANDs two predicates. -/
  | pand (rd : Pg) (ra : Pg) (rb : Pg)
  /-- POR (R143): ORs two predicates. -/
  | por (rd : Pg) (ra : Pg) (rb : Pg)
  /-- PXOR (R143): XORs two predicates. -/
  | pxor (rd : Pg) (ra : Pg) (rb : Pg)
  /-- PNOT (R143): Complements a predicate. -/
  | pnot (rd : Pg) (ra : Pg)
  /-- VCVT (R144): Converts elements between formats, with optional RTZ. -/
  | vcvt (rd : Reg) (ra : Reg) (rtz : Bool) (fd : Ft) (pg : Pg) (ft : Ft)
  /-- VRSUM (R145): Sums active elements into a scalar register. -/
  | vrsum (rd : Reg) (ra : Reg) (pg : Pg) (ft : Ft)
  /-- VRMAX (R145): Reduces active elements to their maximum. -/
  | vrmax (rd : Reg) (ra : Reg) (pg : Pg) (ft : Ft)
  /-- VRMIN (R145): Reduces active elements to their minimum. -/
  | vrmin (rd : Reg) (ra : Reg) (pg : Pg) (ft : Ft)
  /-- VRAMAX (R145): Reduces active elements to their largest magnitude. -/
  | vramax (rd : Reg) (ra : Reg) (pg : Pg) (ft : Ft)
  /-- VRSSQ (R145): Reduces active elements to their sum of squares. -/
  | vrssq (rd : Reg) (ra : Reg) (pg : Pg) (ft : Ft)
  /-- VSHUF (R146): Permutes elements by indices in vb. -/
  | vshuf (rd : Reg) (ra : Reg) (rb : Reg) (pg : Pg) (ft : Ft)
  /-- VROTR (R146): Rotates elements by a scalar count. -/
  | vrotr (rd : Reg) (ra : Reg) (rb : Reg) (pg : Pg) (ft : Ft)
  /-- VSLUP (R146): Slides elements up by a scalar count. -/
  | vslup (rd : Reg) (ra : Reg) (rb : Reg) (pg : Pg) (ft : Ft)
  /-- VSLDN (R146): Slides elements down by a scalar count. -/
  | vsldn (rd : Reg) (ra : Reg) (rb : Reg) (pg : Pg) (ft : Ft)
  /-- VZIP (R146): Interleaves the lower halves of two registers. -/
  | vzip (rd : Reg) (ra : Reg) (rb : Reg) (pg : Pg) (ft : Ft)
  /-- VUNZIP (R146): De-interleaves the even elements of two registers. -/
  | vunzip (rd : Reg) (ra : Reg) (rb : Reg) (pg : Pg) (ft : Ft)
  /-- VEXP2 (R147): Computes 2^x per element. -/
  | vexp2 (rd : Reg) (ra : Reg) (pg : Pg) (ft : Ft)
  /-- VLOG2 (R147): Computes log2 x per element. -/
  | vlog2 (rd : Reg) (ra : Reg) (pg : Pg) (ft : Ft)
  /-- VRCP (R147): Computes 1/x per element. -/
  | vrcp (rd : Reg) (ra : Reg) (pg : Pg) (ft : Ft)
  /-- VRSQ (R147): Computes 1/sqrt(x) per element. -/
  | vrsq (rd : Reg) (ra : Reg) (pg : Pg) (ft : Ft)
  /-- VEXP (R147): Computes e^x per element. -/
  | vexp (rd : Reg) (ra : Reg) (pg : Pg) (ft : Ft)
  /-- VTANH (R147): Computes tanh x per element. -/
  | vtanh (rd : Reg) (ra : Reg) (pg : Pg) (ft : Ft)
  /-- VSILU (R147): Computes x/(1+e^-x) per element. -/
  | vsilu (rd : Reg) (ra : Reg) (pg : Pg) (ft : Ft)
  /-- VSTATS (R152): Gathers, and optionally finishes, row statistics in a statistics buffer slot. -/
  | vstats (fin : Bool) (ra : Reg) (rb : Reg) (pg : Pg) (ft : Ft)
  /-- VSMX (R153): Turns a block of scores into probabilities, keeping EREF and RSUM. -/
  | vsmx (rd : Reg) (ra : Reg) (rb : Reg) (pg : Pg) (ft : Ft)
  /-- VLSE (R154): Finishes a row's log-sum-exponent into LSE and xd. -/
  | vlse (rd : Reg) (rb : Reg)
  /-- SBGET (R155): Copies eight statistics records into a vector register. -/
  | sbget (rd : Reg) (rb : Reg) (pg : Pg)
  /-- SBSET (R155): Writes eight statistics records from a vector register. -/
  | sbset (ra : Reg) (rb : Reg) (pg : Pg)
  /-- VNRD (R150): Begins waiting to exchange a register with a neighbouring core. -/
  | vnrd (rd : Reg) (ra : Reg) (pd : Pg) (pg : Pg) (k : Dir)
  /-- VLOOP (R133): Captures the next len vector words and runs them as a loop. -/
  | vloop (ra : Reg) (len : Reg)
  /-- VSYNC (R135): Stalls until the sequencer is empty and every vector word has completed. -/
  | vsync
  /-- VSEQST (R135): Writes a snapshot of the sequencer state. -/
  | vseqst (rd : Reg)
  /-- VEXT (R148): Extracts one element into a scalar register. -/
  | vext (rd : Reg) (ra : Reg) (rb : Reg) (ft : Ft)
  /-- VINS (R148): Inserts a scalar into one element. -/
  | vins (rd : Reg) (ra : Reg) (rb : Reg) (ft : Ft)
  /-- VIOTA (R148): Writes the count of lower active elements into each active element. -/
  | viota (rd : Reg) (pg : Pg) (ft : Ft)
  /-- VRRD (R149): Reads a window register selected by a scalar index. -/
  | vrrd (rd : Reg) (ra : Reg) (rb : Reg) (pg : Pg) (len : Fin 8)
  /-- VRWR (R149): Writes a window register selected by a scalar index. -/
  | vrwr (rd : Reg) (ra : Reg) (rb : Reg) (pg : Pg) (len : Fin 8)
  /-- HVBIND (R163): XORs two hypervectors. -/
  | hvbind (rd : HIdx) (ra : HIdx) (rb : HIdx)
  /-- HVPERM (R163): Rotates a hypervector by an immediate. -/
  | hvperm (rd : HIdx) (ra : HIdx) (k2 : Pg) (xs : Reg) (k0 : Pg)
  /-- HVPERM_X (R163): Rotates a hypervector by a scalar register. -/
  | hvpermX (rd : HIdx) (ra : HIdx) (xs : Reg)
  /-- HVBUND (R164): Adds or subtracts a weighted hypervector into a counter array, saturating. -/
  | hvbund (rd : HIdx) (ra : HIdx) (xs : Reg) (neg : Bool)
  /-- HVTHR (R165): Thresholds a counter array into a hypervector and steps L. -/
  | hvthr (rd : HIdx) (ra : HIdx)
  /-- HVCLR (R163): Clears a counter array. -/
  | hvclr (rd : HIdx)
  /-- HVCLR_H (R163): Clears a hypervector register. -/
  | hvclrH (rd : HIdx)
  /-- HVDIST (R166): Writes the Hamming distance of two hypervectors. -/
  | hvdist (ra : HIdx) (rb : HIdx) (xs : Reg)
  /-- HVNEAR (R170): Searches the item memory for the nearest entry. -/
  | hvnear (ra : HIdx) (xs : Reg)
  /-- HVNEAR2 (R170): Searches the item memory for the two nearest entries. -/
  | hvnear2 (ra : HIdx) (xs : Reg)
  /-- HVMOV (R163): Copies a hypervector register. -/
  | hvmov (rd : HIdx) (ra : HIdx)
  /-- HVMOV_LFSR (R163): Copies the tie register L into a hypervector. -/
  | hvmovLfsr (rd : HIdx)
  /-- HVMOV_SEED (R163): Seeds the tie register L from a hypervector. -/
  | hvmovSeed (ra : HIdx)
  /-- USER_INTERRUPT (R79): A qualifying mailbox message diverts the task to UIVEC at a unit boundary. -/
  | userInterrupt
  /-- REGISTER_FILL (R26): A missing vector register is filled from the Hatbox after a 20-cycle stall. -/
  | registerFill (n : Reg)
  /-- LOAD_DELIVERY (R180): A local load in a compute phase delivers before the 14th issue cycle after it. -/
  | loadDelivery
  /-- STREAM_BLOCK_READ (R186): A stream register's next block is read from memory ahead of its consumption. -/
  | streamBlockRead (n : Reg)
  /-- ENTRY_LAUNCH (R11): A waiting-task entry whose condition holds, once the core holds fewer than 16 tasks, becomes a ready task. -/
  | entryLaunch (core : Nat) (slot : Fin 16)
  /-- WRC_ARRIVAL (R18): A WRC's write and counter change take effect at the target core, evaluating its waiting-task entries. -/
  | wrcArrival (core : Nat) (ctr : Fin 16) (delta : W32) (src : Nat)
  /-- USER (R196): A SENDMSG message arrives at the target mailbox or wakes a WAITMSG. -/
  | user (core : Nat) (msg : W64)
  /-- RESUME_MESSAGE (R66): A RESUME message makes a halted task ready or resumes a faulted engine command. -/
  | resumeMessage (core : Nat) (payload : BitVec 48)
  /-- LOCK_RETRY (R214): A refused lock request is retried after 8 cycles. -/
  | lockRetry (tid : Nat)
  /-- HANDLE_HOME_CHECK (R90): A KEEP or DROP reaches its entry's home, changes the count, or leaves a deferred HANDLE report. -/
  | handleHomeCheck (tid : Nat) (h : W64) (keep : Bool)
  /-- EVALUATION_COMPLETION (R94): An evaluation writes its tile, sets VALUE or FAULT, drops its arguments, removes its charge and wakes its waiters. -/
  | evaluationCompletion (part idx : Nat)
  /-- HREADY (R94): A waiter's core receives the wake that completes its FORCE with the address or cause. -/
  | hready (tid : Nat) (payload : BitVec 48) (cause : BitVec 8) (addr : W64)
  /-- SPARK_CONVERSION (R96): The lowest idle core takes the oldest pool handle and starts its evaluation or lets it fizzle. -/
  | sparkConversion (cluster : Nat)
  /-- WAVE_BOUNDARY (R99): Every 256 reference cycles the trees sum the counting totals and the dispatcher reads every TAIL. -/
  | waveBoundary
  /-- DEADLOCK (R101): After the parked-task records are written, a DEADLOCK message goes to SUPCORE. -/
  | deadlock (part : Nat) (payload : BitVec 48)
  /-- GBAR_RELEASE (R207): A group barrier releases all members at the first epoch boundary at least 8 cycles after the last arrival. -/
  | gbarRelease (cluster : Nat) (g : Fin 16)
  /-- EPOCH_BOUNDARY (R211): At an exchange-clock multiple of 64, a held PHASE.x starts cycle 0 of the exchange phase. -/
  | epochBoundary (cluster : Nat)
  /-- EXCHANGE_TRANSFER (R212): At cycle c a scheduled vector crosses the exchange network and lands at c+2 in the peer's receive slot. -/
  | exchangeTransfer (tid : Nat) (peer : Fin 8)
  /-- VNRD_MATCH (R150): Two waiting neighbour reads match, exchanging registers and setting their predicates. -/
  | vnrdMatch (a b : Nat)
  /-- VNRD_TIMEOUT (R150): A neighbour read's wait ends with no match and clears its predicate. -/
  | vnrdTimeout (tid : Nat)
  /-- ITEM_MEMORY_SEARCH (R171): The item memory serves a queued HVNEAR or HVNEAR2 search in arrival order. -/
  | itemMemorySearch (cluster : Nat)
  /-- IMCTL_WRITE (R168): An S-level store to IMCTL sets the item memory's capacity and base, or is refused. -/
  | imctlWrite (v : W64)
  /-- SYNCALL_RELEASE (R358): When every participant has arrived, the superstep advances and all complete. -/
  | syncallRelease (launch : Nat)
  /-- TREE_ROUND_COMPLETION (R359): When every participant has arrived in a round, the combined record is stored at each. -/
  | treeRoundCompletion (launch round : Nat)
  /-- COPY_COMPLETION (R191): An engine command's writes become visible, its signal is written and its slot is freed. -/
  | copyCompletion (core tag : Nat)
  /-- ENGINE_FAULT (R193): An engine access fails translation, takes a fault ring slot, writes a record and stops its command. -/
  | engineFault (core tag : Nat) (write : Bool) (va : W64) (cause : BitVec 8)
  /-- MMA (R233): Matrix command that accumulates A times B into an accumulator region. -/
  | mma (core : Nat)
  /-- MMAG (R234): Matrix command that accumulates with rows of A gathered by an index vector. -/
  | mmag (core : Nat)
  /-- MZERO (R235): Matrix command that zeroes an accumulator region and its status. -/
  | mzero (core : Nat)
  /-- MLDACC (R235): Matrix command that loads raw accumulator words from memory. -/
  | mldacc (core : Nat)
  /-- MSTACC (R236): Matrix command that stores an accumulator region, optionally applying statistics. -/
  | mstacc (core : Nat)
  /-- MFMT (R229): Matrix command that sets the core's format context and codebooks. -/
  | mfmt (core : Nat)
  /-- MSWAP (R237): Matrix command that exchanges the active bank and the Mitten. -/
  | mswap (core : Nat)
  /-- MTABLE (R238): Matrix command that loads the cluster permutation table. -/
  | mtable (core : Nat)
  /-- MXPOSE (R238): Matrix command that moves row fragments among all eight cores once all have one at their heads. -/
  | mxpose (core : Nat)
  /-- MSIG (R239): Matrix command that only reports, marking earlier commands complete. -/
  | msig (core : Nat)
  /-- MOPS (R240): When an MMA's operands are consumed, its signal is written or MOPS is sent. -/
  | mops (core : Nat)
  /-- MATRIX_COMPLETION (R240): A matrix command's writes become visible, statistics are written and its queue entry is freed. -/
  | matrixCompletion (core : Nat)
  /-- DERIVE (R279): The Ferry starts deriving a pending view block from its master within 16 cycles. -/
  | derive (part id row blk : Nat)
  /-- PUBLICATION (R279): A finished derivation writes the inactive slot and scale and publishes VTAG and SLOT in one step. -/
  | publication (part id row blk : Nat)
  /-- TRANSLATION_WALK (R286): The die walker resolves a translation cache miss and fills the cache. -/
  | translationWalk (core part : Nat) (va : W64)
  /-- COLLECTIVE_START (R372): A descriptor at the head of its stream waits for its threshold and then reads the bucket. -/
  | collectiveStart (die ring : Nat) (p2p : Bool)
  /-- RING_STEP (R377): A ring step moves one chunk between positions. -/
  | ringStep (die ring : Nat) (p2p : Bool) (arrived : List W32)
  /-- COLLECTIVE_COMPLETION (R375): A collective's bucket writes become visible, its signal is written and its entry is freed. -/
  | collectiveCompletion (die ring : Nat) (p2p : Bool)
  /-- PORT_ERROR (R367): A fabric lane loses lock or a flit fails after its replays, starting a link self-test. -/
  | portError (port : Nat)
  /-- LINK_DEATH (R379): A port dies, its rings are marked DEAD and their descriptors complete with status 1. -/
  | linkDeath (port : Nat)
  /-- CORRECTED_ERROR (R328): A corrected memory error starts the unit's targeted self-test. -/
  | correctedError (cls idx : Nat)
  /-- UNCORRECTED_ERROR (R326): An uncorrectable error is reported by the reading agent and starts the unit's test. -/
  | uncorrectedError (pa : Nat)
  /-- PATROL_SCRUB (R326): The patrol scrub reads every bank and pseudo-channel once in 12 hours and writes back corrections. -/
  | patrolScrub (pa : Nat) (found : ScrubFound)
  /-- TESTDONE (R328): A self-test ends, classifies the unit, substitutes a spare or retires it, and reports. -/
  | testdone (cls idx : Nat) (run1 run2 : Bool)
  /-- CLAMP_SAMPLE (R324): Every 10 ns the core rail is sampled and a sample above the limit halves the issue rate. -/
  | clampSample (die amps : Nat)
  /-- CLAMP_RECOVERY (R324): After 1 µs of samples below 90 % of the limit, the issue rate doubles. -/
  | clampRecovery (die : Nat)
  /-- THERMAL_ALERT (R325): The junction sensor reads above the alert threshold and an alert event is written. -/
  | thermalAlert (die temp : Nat)
  /-- THERMAL_HOLD (R325): 2 ms after an alert with no power command, the die is held at 1 issue cycle in 4. -/
  | thermalHold (die : Nat)
  /-- THERMAL_HOLD_END (R325): The hold ends when the sensor reads 5 °C below the threshold after a power command. -/
  | thermalHoldEnd (die temp : Nat)
  /-- CRITICAL_TEMPERATURE (R325): Above 125 °C the die is held at 1 cycle in 64 and a kind-4 event is written. -/
  | criticalTemperature (die temp : Nat)
  /-- CLOCK_HOLD_END (R323): After a 10 µs hold, the die's cores and matrix units resume at the new clock point. -/
  | clockHoldEnd (die : Nat)
  /-- POWER_STATE_EXIT (R321): A unit leaving IDLE, RETAIN or OFF returns to RUN after the state's exit time. -/
  | powerStateExit (cls idx : Nat)
  /-- DIE (R321): Management command that sets a die's power state and clock point. -/
  | die
  /-- CLUSTERS (R321): Management command that sets the power state of a range of clusters. -/
  | clusters
  /-- OPTCORES (R321): Management command that sets the power state of a range of optimiser cores. -/
  | optcores
  /-- LIMITS (R324): Management command that sets the current clamp limit and the thermal alert threshold. -/
  | limits
  /-- ATTEST (R335): Management command that writes a doubly signed attestation report for a nonce. -/
  | attest
  /-- EVENTRING (R331): Management command that sets the base and size of the event ring. -/
  | eventring
  /-- PCREATE (R337): Partition command that creates a partition from clusters, optimiser cores and a configuration block. -/
  | pcreate
  /-- PRESIZE (R350): Partition command that replaces a partition's clusters, moving tasks and vaults. -/
  | presize
  /-- PRETIRE (R350): Partition command that retires one core and moves its tasks. -/
  | pretire
  /-- PRESET (R355): Partition command that resets a partition. -/
  | preset
  /-- PDESTROY (R337): Partition command that frees a partition's clusters and optimiser cores. -/
  | pdestroy
  /-- PTUNE (R337): Partition command that replaces the ageing step and the watchdog time. -/
  | ptune
  /-- HOST_WRITE (R319): A host write through an endpoint's aperture takes effect at its home in endpoint order. -/
  | hostWrite (ep : Fin 2) (off : Nat) (data : List Byte)
  /-- HOST_READ (R319): A host read of an aligned word through the aperture returns it single-copy atomically. -/
  | hostRead (off : Nat)
  /-- APERTURE_BASE_WRITE (R318): A write of the aperture base in BAR0 moves the BAR2 window onto device physical memory. -/
  | apertureBaseWrite (v : W64)
  /-- REGISTER_WRITE (R331): A host write to a BAR register without behaviour of its own, such as the event consumer index. -/
  | registerWrite (off : Nat) (v : W64)
  /-- LAUNCH_DOORBELL (R340): A doorbell write stores a queue's TAIL as a release and makes the dispatcher read it. -/
  | launchDoorbell (part : Nat) (q : Fin 16) (tail : W64)
  /-- PLACE_TASK (R345): The dispatcher chooses a candidate launch and places one of its tasks on a core. -/
  | placeTask (part : Nat)
  /-- PACKET_REJECT (R342): A packet that breaks the launch packet rules is rejected at the head of its queue. -/
  | packetReject (part : Nat) (q : Fin 16)
  /-- PREEMPT_HALT (R349): The running task halts at a boundary within 380 cycles of a request and is saved to its Hatbox. -/
  | preemptHalt (core : Nat)
  /-- LAUNCH_COMPLETION (R348): Once all of a launch's tasks and commands are done and fenced, its completion record is written. -/
  | launchCompletion (launch : Nat)
  /-- WATCHDOG_EXPIRY (R354): No task of the partition retires for WDOG µs while work remains. -/
  | watchdogExpiry (part : Nat)
  /-- PARTITION_RESET (R355): Discards the partition's running state, rewinds queues to DONE and writes the reset record. -/
  | partitionReset (part cause : Nat)
  /-- BOOT (R333): After package reset, each image is verified with both signatures before it runs. -/
  | boot
  /-- ACCESS_PERFORMED (R384): A store, atomic write or remote write issued earlier is performed at its home at some later moment, in finite time. -/
  | accessPerformed
  /-- HOME_ANSWER (R265): The answer of a home (a load value, an atomic or row result, a versioned step's value) arrives and writes the interlocked destination. -/
  | homeAnswer (tid : Nat)
  /-- ENGINE_ROW_MOVE (R190): A copy engine takes a queued command into running and moves one of its rows, advancing the rows-done count that CSTAT reports. -/
  | engineRowMove (core tag : Nat)
  /-- ENDPOINT_LINK_TRAINING (R318): A Landing endpoint's PCI Express link trains at x16 or falls back to x8, at 128 GT/s or a lower rate. -/
  | endpointLinkTraining (ep : Fin 2) (x16 : Bool) (rate : Nat)
deriving DecidableEq, Repr

end Sys2Proof
end

