-- ==== Sys2Proof/WellFormed.lean ====
section
/-! DEFINITION. Which instructions have a legal word: the limits that R129, R133, R149, R161, R175, R185, R254 and R281 put
on fields beyond what their types say. A row that has no word is not well-formed as an instruction word. -/

namespace Sys2Proof

/-- The row has a word of R30 (it is fetched and decoded), not a command or an event. -/
def Instr.isWord : Instr → Bool
  | .nop => true
  | .trap _ => true
  | .eret => true
  | .halt => true
  | .uret => true
  | .selftest _ _ => true
  | .resume _ _ => true
  | .mfsr _ _ => true
  | .mtsr _ _ => true
  | .j _ => true
  | .jl _ => true
  | .jr _ => true
  | .jlr _ _ => true
  | .beq _ _ _ => true
  | .bne _ _ _ => true
  | .blt _ _ _ => true
  | .bge _ _ _ => true
  | .bltu _ _ _ => true
  | .bgeu _ _ _ => true
  | .li _ _ => true
  | .lis _ _ _ => true
  | .lea _ _ => true
  | .ld _ _ _ _ _ => true
  | .lds _ _ _ _ _ => true
  | .st _ _ _ _ _ => true
  | .ldv _ _ _ _ => true
  | .ldvl _ _ _ => true
  | .stv _ _ _ _ => true
  | .reclaim _ _ _ _ => true
  | .ldf _ _ _ => true
  | .ldfe _ _ _ => true
  | .stf _ _ _ => true
  | .ste _ _ => true
  | .aadd _ _ _ _ _ => true
  | .aand _ _ _ _ _ => true
  | .aor _ _ _ _ _ => true
  | .axor _ _ _ _ _ => true
  | .amin _ _ _ _ _ => true
  | .amax _ _ _ _ _ => true
  | .aswap _ _ _ _ _ => true
  | .acas _ _ _ _ _ => true
  | .ldlk _ _ _ _ => true
  | .stul _ _ _ _ => true
  | .rowadd _ _ _ _ => true
  | .rowmax _ _ _ _ => true
  | .rowld _ _ _ _ => true
  | .rowst _ _ _ _ => true
  | .fence _ _ => true
  | .vld _ _ _ _ _ => true
  | .vst _ _ _ _ _ => true
  | .vlds _ _ _ _ _ => true
  | .vsts _ _ _ _ _ => true
  | .vldx _ _ _ _ _ => true
  | .vstx _ _ _ _ _ => true
  | .vstq _ _ _ => true
  | .vldv _ _ _ _ _ _ => true
  | .hvld _ _ _ => true
  | .hvldB _ _ _ => true
  | .hvst _ _ _ => true
  | .hvstB _ _ _ => true
  | .hvmemst _ _ => true
  | .strm _ _ => true
  | .strmoff _ => true
  | .strmq _ _ => true
  | .copy _ _ => true
  | .gather _ _ => true
  | .scatter _ _ _ => true
  | .cstat _ _ => true
  | .sendmsg _ _ => true
  | .waitmsg _ _ => true
  | .pollmsg _ _ => true
  | .uien _ => true
  | .taskw _ _ _ => true
  | .done => true
  | .wrc _ _ _ _ => true
  | .wrcC _ _ _ _ => true
  | .ctrrd _ _ => true
  | .ctrset _ _ => true
  | .susp _ _ _ _ => true
  | .force _ _ => true
  | .spark _ _ => true
  | .mkval _ _ _ => true
  | .peek _ _ => true
  | .keep _ => true
  | .drop _ => true
  | .budget _ _ _ => true
  | .gjoin _ _ => true
  | .gleave _ _ => true
  | .gbar _ _ => true
  | .follow _ _ => true
  | .syncall _ => true
  | .tree _ _ _ _ => true
  | .phase _ => true
  | .sendat _ _ _ => true
  | .recvat _ _ _ => true
  | .viewreg _ _ => true
  | .viewdrop _ _ => true
  | .viewst _ _ _ => true
  | .kvslot _ _ _ => true
  | .kvapp _ _ _ => true
  | .kvtrunc _ _ _ => true
  | .kvevict _ _ _ => true
  | .rmapset _ _ => true
  | .tlbinv _ _ => true
  | .gqpush _ _ _ => true
  | .gqpop _ _ _ => true
  | .gqwin _ _ => true
  | .cepost _ _ => true
  | .cearb _ _ => true
  | .region _ _ => true
  | .quiet _ => true
  | .allot _ _ => true
  | .live _ => true
  | .anop => true
  | .add _ _ _ => true
  | .sub _ _ _ => true
  | .and _ _ _ => true
  | .or _ _ _ => true
  | .xor _ _ _ => true
  | .sll _ _ _ => true
  | .srl _ _ _ => true
  | .sra _ _ _ => true
  | .mul _ _ _ => true
  | .mulh _ _ _ => true
  | .mulhu _ _ _ => true
  | .div _ _ _ => true
  | .divu _ _ _ => true
  | .rem _ _ _ => true
  | .remu _ _ _ => true
  | .min _ _ _ => true
  | .max _ _ _ => true
  | .minu _ _ _ => true
  | .maxu _ _ _ => true
  | .slt _ _ _ => true
  | .sltu _ _ _ => true
  | .clz _ _ => true
  | .ctz _ _ => true
  | .popc _ _ => true
  | .addi _ _ _ => true
  | .andi _ _ _ => true
  | .ori _ _ _ => true
  | .xori _ _ _ => true
  | .slli _ _ _ => true
  | .srli _ _ _ => true
  | .srai _ _ _ => true
  | .slti _ _ _ => true
  | .vadd _ _ _ _ _ => true
  | .vsub _ _ _ _ _ => true
  | .vmul _ _ _ _ _ => true
  | .vmulz _ _ _ _ _ => true
  | .vmin _ _ _ _ _ => true
  | .vmax _ _ _ _ _ => true
  | .vfma _ _ _ _ _ => true
  | .vfmaz _ _ _ _ _ => true
  | .vaddX _ _ _ _ _ => true
  | .vsubX _ _ _ _ _ => true
  | .vmulX _ _ _ _ _ => true
  | .vmulzX _ _ _ _ _ => true
  | .vminX _ _ _ _ _ => true
  | .vmaxX _ _ _ _ _ => true
  | .vfmaX _ _ _ _ _ => true
  | .vfmazX _ _ _ _ _ => true
  | .vand _ _ _ _ _ => true
  | .vor _ _ _ _ _ => true
  | .vxor _ _ _ _ _ => true
  | .vandn _ _ _ _ _ => true
  | .vshl _ _ _ _ _ => true
  | .vshr _ _ _ _ _ => true
  | .vsar _ _ _ _ _ => true
  | .vrotl _ _ _ _ _ => true
  | .vceq _ _ _ _ _ => true
  | .vcne _ _ _ _ _ => true
  | .vclt _ _ _ _ _ => true
  | .vcle _ _ _ _ _ => true
  | .vcgt _ _ _ _ _ => true
  | .vcge _ _ _ _ _ => true
  | .vcnan _ _ _ _ => true
  | .vcinf _ _ _ _ => true
  | .vmov _ _ _ => true
  | .vsel _ _ _ _ => true
  | .vbcast _ _ _ _ => true
  | .pand _ _ _ => true
  | .por _ _ _ => true
  | .pxor _ _ _ => true
  | .pnot _ _ => true
  | .vcvt _ _ _ _ _ _ => true
  | .vrsum _ _ _ _ => true
  | .vrmax _ _ _ _ => true
  | .vrmin _ _ _ _ => true
  | .vramax _ _ _ _ => true
  | .vrssq _ _ _ _ => true
  | .vshuf _ _ _ _ _ => true
  | .vrotr _ _ _ _ _ => true
  | .vslup _ _ _ _ _ => true
  | .vsldn _ _ _ _ _ => true
  | .vzip _ _ _ _ _ => true
  | .vunzip _ _ _ _ _ => true
  | .vexp2 _ _ _ _ => true
  | .vlog2 _ _ _ _ => true
  | .vrcp _ _ _ _ => true
  | .vrsq _ _ _ _ => true
  | .vexp _ _ _ _ => true
  | .vtanh _ _ _ _ => true
  | .vsilu _ _ _ _ => true
  | .vstats _ _ _ _ _ => true
  | .vsmx _ _ _ _ _ => true
  | .vlse _ _ => true
  | .sbget _ _ _ => true
  | .sbset _ _ _ => true
  | .vnrd _ _ _ _ _ => true
  | .vloop _ _ => true
  | .vsync => true
  | .vseqst _ => true
  | .vext _ _ _ _ => true
  | .vins _ _ _ _ => true
  | .viota _ _ _ => true
  | .vrrd _ _ _ _ _ => true
  | .vrwr _ _ _ _ _ => true
  | .hvbind _ _ _ => true
  | .hvperm _ _ _ _ _ => true
  | .hvpermX _ _ _ => true
  | .hvbund _ _ _ _ => true
  | .hvthr _ _ => true
  | .hvclr _ => true
  | .hvclrH _ => true
  | .hvdist _ _ _ => true
  | .hvnear _ _ => true
  | .hvnear2 _ _ => true
  | .hvmov _ _ => true
  | .hvmovLfsr _ => true
  | .hvmovSeed _ => true
  | .userInterrupt => false
  | .registerFill _ => false
  | .loadDelivery => false
  | .streamBlockRead _ => false
  | .entryLaunch _ _ => false
  | .wrcArrival _ _ _ _ => false
  | .user _ _ => false
  | .resumeMessage _ _ => false
  | .lockRetry _ => false
  | .handleHomeCheck _ _ _ => false
  | .evaluationCompletion _ _ => false
  | .hready _ _ _ _ => false
  | .sparkConversion _ => false
  | .waveBoundary => false
  | .deadlock _ _ => false
  | .gbarRelease _ _ => false
  | .epochBoundary _ => false
  | .exchangeTransfer _ _ => false
  | .vnrdMatch _ _ => false
  | .vnrdTimeout _ => false
  | .itemMemorySearch _ => false
  | .imctlWrite _ => false
  | .syncallRelease _ => false
  | .treeRoundCompletion _ _ => false
  | .copyCompletion _ _ => false
  | .engineFault _ _ _ _ _ => false
  | .mma _ => false
  | .mmag _ => false
  | .mzero _ => false
  | .mldacc _ => false
  | .mstacc _ => false
  | .mfmt _ => false
  | .mswap _ => false
  | .mtable _ => false
  | .mxpose _ => false
  | .msig _ => false
  | .mops _ => false
  | .matrixCompletion _ => false
  | .derive _ _ _ _ => false
  | .publication _ _ _ _ => false
  | .translationWalk _ _ _ => false
  | .collectiveStart _ _ _ => false
  | .ringStep _ _ _ _ => false
  | .collectiveCompletion _ _ _ => false
  | .portError _ => false
  | .linkDeath _ => false
  | .correctedError _ _ => false
  | .uncorrectedError _ => false
  | .patrolScrub _ _ => false
  | .testdone _ _ _ _ => false
  | .clampSample _ _ => false
  | .clampRecovery _ => false
  | .thermalAlert _ _ => false
  | .thermalHold _ => false
  | .thermalHoldEnd _ _ => false
  | .criticalTemperature _ _ => false
  | .clockHoldEnd _ => false
  | .powerStateExit _ _ => false
  | .die => false
  | .clusters => false
  | .optcores => false
  | .limits => false
  | .attest => false
  | .eventring => false
  | .pcreate => false
  | .presize => false
  | .pretire => false
  | .preset => false
  | .pdestroy => false
  | .ptune => false
  | .hostWrite _ _ _ => false
  | .hostRead _ => false
  | .apertureBaseWrite _ => false
  | .registerWrite _ _ => false
  | .launchDoorbell _ _ _ => false
  | .placeTask _ => false
  | .packetReject _ _ => false
  | .preemptHalt _ => false
  | .launchCompletion _ => false
  | .watchdogExpiry _ => false
  | .partitionReset _ _ => false
  | .boot => false
  | .accessPerformed => false
  | .homeAnswer _ => false
  | .engineRowMove _ _ => false
  | .endpointLinkTraining _ _ _ => false

/-- The field limits of a word, and false for a row with no word. -/
def Instr.wf : Instr → Bool
  | .nop => true
  | .trap _ => true
  | .eret => true
  | .halt => true
  | .uret => true
  | .selftest _ _ => true
  | .resume _ _ => true
  | .mfsr _ _ => true
  | .mtsr _ _ => true
  | .j _ => true
  | .jl _ => true
  | .jr _ => true
  | .jlr _ _ => true
  | .beq _ _ _ => true
  | .bne _ _ _ => true
  | .blt _ _ _ => true
  | .bge _ _ _ => true
  | .bltu _ _ _ => true
  | .bgeu _ _ _ => true
  | .li _ _ => true
  | .lis _ _ _ => true
  | .lea _ _ => true
  | .ld _ _ _ _ _ => true
  | .lds _ _ sz _ _ => sz != .d
  | .st _ _ _ _ _ => true
  | .ldv _ _ _ _ => true
  | .ldvl _ _ _ => true
  | .stv _ _ _ _ => true
  | .reclaim _ _ _ _ => true
  | .ldf _ _ _ => true
  | .ldfe _ _ _ => true
  | .stf _ _ _ => true
  | .ste _ _ => true
  | .aadd _ _ _ _ _ => true
  | .aand _ _ _ _ _ => true
  | .aor _ _ _ _ _ => true
  | .axor _ _ _ _ _ => true
  | .amin _ _ _ _ _ => true
  | .amax _ _ _ _ _ => true
  | .aswap _ _ _ _ _ => true
  | .acas _ _ _ _ _ => true
  | .ldlk _ _ _ _ => true
  | .stul _ _ _ _ => true
  | .rowadd _ _ _ _ => true
  | .rowmax _ _ _ _ => true
  | .rowld _ _ _ _ => true
  | .rowst _ _ _ _ => true
  | .fence _ sc => sc != .plain
  | .vld _ _ _ _ _ => true
  | .vst _ _ _ _ _ => true
  | .vlds _ _ _ _ _ => true
  | .vsts _ _ _ _ _ => true
  | .vldx _ _ _ _ _ => true
  | .vstx _ _ _ _ _ => true
  | .vstq _ _ _ => true
  | .vldv vr _ _ _ _ _ => vr != 31
  | .hvld _ _ _ => true
  | .hvldB _ _ _ => true
  | .hvst _ _ _ => true
  | .hvstB _ _ _ => true
  | .hvmemst _ _ => true
  | .strm _ rb => decide (24 ≤ rb.val)
  | .strmoff rb => decide (24 ≤ rb.val)
  | .strmq _ rb => decide (24 ≤ rb.val)
  | .copy _ _ => true
  | .gather _ _ => true
  | .scatter _ _ _ => true
  | .cstat _ _ => true
  | .sendmsg _ _ => true
  | .waitmsg _ _ => true
  | .pollmsg _ _ => true
  | .uien _ => true
  | .taskw _ _ _ => true
  | .done => true
  | .wrc _ _ _ _ => true
  | .wrcC _ _ _ _ => true
  | .ctrrd _ _ => true
  | .ctrset _ _ => true
  | .susp _ _ _ _ => true
  | .force _ _ => true
  | .spark _ _ => true
  | .mkval _ _ _ => true
  | .peek _ _ => true
  | .keep _ => true
  | .drop _ => true
  | .budget _ _ _ => true
  | .gjoin _ _ => true
  | .gleave _ _ => true
  | .gbar _ _ => true
  | .follow _ _ => true
  | .syncall _ => true
  | .tree _ _ _ _ => true
  | .phase _ => true
  | .sendat _ _ _ => true
  | .recvat _ _ _ => true
  | .viewreg _ _ => true
  | .viewdrop _ _ => true
  | .viewst _ _ _ => true
  | .kvslot _ _ _ => true
  | .kvapp _ _ _ => true
  | .kvtrunc _ _ _ => true
  | .kvevict _ _ _ => true
  | .rmapset _ _ => true
  | .tlbinv _ _ => true
  | .gqpush _ _ _ => true
  | .gqpop _ _ _ => true
  | .gqwin _ _ => true
  | .cepost _ _ => true
  | .cearb _ _ => true
  | .region _ _ => true
  | .quiet _ => true
  | .allot _ _ => true
  | .live _ => true
  | .anop => true
  | .add _ _ _ => true
  | .sub _ _ _ => true
  | .and _ _ _ => true
  | .or _ _ _ => true
  | .xor _ _ _ => true
  | .sll _ _ _ => true
  | .srl _ _ _ => true
  | .sra _ _ _ => true
  | .mul _ _ _ => true
  | .mulh _ _ _ => true
  | .mulhu _ _ _ => true
  | .div _ _ _ => true
  | .divu _ _ _ => true
  | .rem _ _ _ => true
  | .remu _ _ _ => true
  | .min _ _ _ => true
  | .max _ _ _ => true
  | .minu _ _ _ => true
  | .maxu _ _ _ => true
  | .slt _ _ _ => true
  | .sltu _ _ _ => true
  | .clz _ _ => true
  | .ctz _ _ => true
  | .popc _ _ => true
  | .addi _ _ _ => true
  | .andi _ _ _ => true
  | .ori _ _ _ => true
  | .xori _ _ _ => true
  | .slli _ _ _ => true
  | .srli _ _ _ => true
  | .srai _ _ _ => true
  | .slti _ _ _ => true
  | .vadd _ _ _ _ _ => true
  | .vsub _ _ _ _ _ => true
  | .vmul _ _ _ _ _ => true
  | .vmulz _ _ _ _ ft => ft.isFloat
  | .vmin _ _ _ _ _ => true
  | .vmax _ _ _ _ _ => true
  | .vfma _ _ _ _ _ => true
  | .vfmaz _ _ _ _ ft => ft.isFloat
  | .vaddX _ _ _ _ _ => true
  | .vsubX _ _ _ _ _ => true
  | .vmulX _ _ _ _ _ => true
  | .vmulzX _ _ _ _ ft => ft.isFloat
  | .vminX _ _ _ _ _ => true
  | .vmaxX _ _ _ _ _ => true
  | .vfmaX _ _ _ _ _ => true
  | .vfmazX _ _ _ _ ft => ft.isFloat
  | .vand _ _ _ _ ft => !ft.isFloat
  | .vor _ _ _ _ ft => !ft.isFloat
  | .vxor _ _ _ _ ft => !ft.isFloat
  | .vandn _ _ _ _ ft => !ft.isFloat
  | .vshl _ _ _ _ ft => !ft.isFloat
  | .vshr _ _ _ _ ft => !ft.isFloat
  | .vsar _ _ _ _ ft => !ft.isFloat
  | .vrotl _ _ _ _ ft => !ft.isFloat
  | .vceq _ _ _ _ _ => true
  | .vcne _ _ _ _ _ => true
  | .vclt _ _ _ _ _ => true
  | .vcle _ _ _ _ _ => true
  | .vcgt _ _ _ _ _ => true
  | .vcge _ _ _ _ _ => true
  | .vcnan _ _ _ ft => ft.isFloat
  | .vcinf _ _ _ ft => ft.isFloat
  | .vmov _ _ _ => true
  | .vsel _ _ _ _ => true
  | .vbcast _ _ _ _ => true
  | .pand _ _ _ => true
  | .por _ _ _ => true
  | .pxor _ _ _ => true
  | .pnot _ _ => true
  | .vcvt _ _ _ _ _ _ => true
  | .vrsum _ _ _ _ => true
  | .vrmax _ _ _ _ => true
  | .vrmin _ _ _ _ => true
  | .vramax _ _ _ _ => true
  | .vrssq _ _ _ _ => true
  | .vshuf _ _ _ _ _ => true
  | .vrotr _ _ _ _ _ => true
  | .vslup _ _ _ _ _ => true
  | .vsldn _ _ _ _ _ => true
  | .vzip _ _ _ _ _ => true
  | .vunzip _ _ _ _ _ => true
  | .vexp2 _ _ _ ft => ft.isWide
  | .vlog2 _ _ _ ft => ft.isWide
  | .vrcp _ _ _ ft => ft.isWide
  | .vrsq _ _ _ ft => ft.isWide
  | .vexp _ _ _ ft => ft.isWide
  | .vtanh _ _ _ ft => ft.isWide
  | .vsilu _ _ _ ft => ft.isWide
  | .vstats _ _ _ _ ft => ft.isWide
  | .vsmx _ _ _ _ ft => ft.isWide
  | .vlse _ _ => true
  | .sbget _ _ _ => true
  | .sbset _ _ _ => true
  | .vnrd _ _ _ _ _ => true
  | .vloop _ len => decide (1 ≤ len.val) && decide (len.val ≤ 16)
  | .vsync => true
  | .vseqst _ => true
  | .vext _ _ _ _ => true
  | .vins _ _ _ _ => true
  | .viota _ _ ft => !ft.isFloat
  | .vrrd _ ra _ _ len => decide (ra.val + len.val + 1 ≤ 32)
  | .vrwr rd _ _ _ len => decide (rd.val + len.val + 1 ≤ 32)
  | .hvbind _ _ _ => true
  | .hvperm _ _ _ _ _ => true
  | .hvpermX _ _ _ => true
  | .hvbund _ _ _ _ => true
  | .hvthr _ _ => true
  | .hvclr _ => true
  | .hvclrH _ => true
  | .hvdist _ _ _ => true
  | .hvnear _ _ => true
  | .hvnear2 _ xs => xs != 0 && xs != 31
  | .hvmov _ _ => true
  | .hvmovLfsr _ => true
  | .hvmovSeed _ => true
  | .userInterrupt => false
  | .registerFill _ => false
  | .loadDelivery => false
  | .streamBlockRead _ => false
  | .entryLaunch _ _ => false
  | .wrcArrival _ _ _ _ => false
  | .user _ _ => false
  | .resumeMessage _ _ => false
  | .lockRetry _ => false
  | .handleHomeCheck _ _ _ => false
  | .evaluationCompletion _ _ => false
  | .hready _ _ _ _ => false
  | .sparkConversion _ => false
  | .waveBoundary => false
  | .deadlock _ _ => false
  | .gbarRelease _ _ => false
  | .epochBoundary _ => false
  | .exchangeTransfer _ _ => false
  | .vnrdMatch _ _ => false
  | .vnrdTimeout _ => false
  | .itemMemorySearch _ => false
  | .imctlWrite _ => false
  | .syncallRelease _ => false
  | .treeRoundCompletion _ _ => false
  | .copyCompletion _ _ => false
  | .engineFault _ _ _ _ _ => false
  | .mma _ => false
  | .mmag _ => false
  | .mzero _ => false
  | .mldacc _ => false
  | .mstacc _ => false
  | .mfmt _ => false
  | .mswap _ => false
  | .mtable _ => false
  | .mxpose _ => false
  | .msig _ => false
  | .mops _ => false
  | .matrixCompletion _ => false
  | .derive _ _ _ _ => false
  | .publication _ _ _ _ => false
  | .translationWalk _ _ _ => false
  | .collectiveStart _ _ _ => false
  | .ringStep _ _ _ _ => false
  | .collectiveCompletion _ _ _ => false
  | .portError _ => false
  | .linkDeath _ => false
  | .correctedError _ _ => false
  | .uncorrectedError _ => false
  | .patrolScrub _ _ => false
  | .testdone _ _ _ _ => false
  | .clampSample _ _ => false
  | .clampRecovery _ => false
  | .thermalAlert _ _ => false
  | .thermalHold _ => false
  | .thermalHoldEnd _ _ => false
  | .criticalTemperature _ _ => false
  | .clockHoldEnd _ => false
  | .powerStateExit _ _ => false
  | .die => false
  | .clusters => false
  | .optcores => false
  | .limits => false
  | .attest => false
  | .eventring => false
  | .pcreate => false
  | .presize => false
  | .pretire => false
  | .preset => false
  | .pdestroy => false
  | .ptune => false
  | .hostWrite _ _ _ => false
  | .hostRead _ => false
  | .apertureBaseWrite _ => false
  | .registerWrite _ _ => false
  | .launchDoorbell _ _ _ => false
  | .placeTask _ => false
  | .packetReject _ _ => false
  | .preemptHalt _ => false
  | .launchCompletion _ => false
  | .watchdogExpiry _ => false
  | .partitionReset _ _ => false
  | .boot => false
  | .accessPerformed => false
  | .homeAnswer _ => false
  | .engineRowMove _ _ => false
  | .endpointLinkTraining _ _ _ => false

end Sys2Proof
end

