-- ==== Sys2Proof/Decode.lean ====
section
/-! DEFINITION. Decoding an instruction word (R30 to R40), total on every word, and the encoder written from the same
tables (R37, R38). The decoder looks at the word's bits alone (R40); bit 31, the pairing bit P, is the issue unit's
(R31) and is not looked at here. -/

namespace Sys2Proof

/-- Why a word names no instruction (R39). -/
inductive DecFault
  | noMajor | noMinor | reserved | scope7 | noRegister | operand
deriving DecidableEq, Repr

abbrev DecRes := Except DecFault Instr

/-- The `n`-bit field of `w` whose low bit is `lo`. -/
def fld (w lo n : Nat) : Nat := w / 2 ^ lo % 2 ^ n
/-- A 5-bit register field. -/
def fReg (w lo : Nat) : Reg := ⟨fld w lo 5, Nat.mod_lt _ (by decide)⟩
/-- A 3-bit register, predicate or index field. -/
def fOct (w lo : Nat) : Fin 8 := ⟨fld w lo 3, Nat.mod_lt _ (by decide)⟩
/-- A 4-bit index field. -/
def fNib (w lo : Nat) : Fin 16 := ⟨fld w lo 4, Nat.mod_lt _ (by decide)⟩
/-- A 1-bit flag field. -/
def fBit (w lo : Nat) : Bool := fld w lo 1 == 1
/-- Continue with a named code, or refuse by name. -/
def optOr {α : Type} (o : Option α) (e : DecFault) (k : α → DecRes) : DecRes :=
  match o with
  | some a => k a
  | none => .error e

/-- Major 0x01 of class C: NOP, TRAP, ERET, HALT, URET, SELFTEST, RESUME. -/
def dec01 (w : Nat) : DecRes :=
  match fld w 4 5 with
  | 0 => if fld w 0 4 != 0 || fld w 9 15 != 0 then .error .reserved else .ok (.nop)
  | 1 => if fld w 0 4 != 0 || fld w 9 5 != 0 || fld w 19 5 != 0 then .error .reserved else .ok (.trap (fReg w 14))
  | 2 => if fld w 0 4 != 0 || fld w 9 15 != 0 then .error .reserved else .ok (.eret)
  | 3 => if fld w 0 4 != 0 || fld w 9 15 != 0 then .error .reserved else .ok (.halt)
  | 4 => if fld w 0 4 != 0 || fld w 9 15 != 0 then .error .reserved else .ok (.uret)
  | 5 => if fld w 0 4 != 0 || fld w 9 5 != 0 then .error .reserved else .ok (.selftest (fReg w 19) (fReg w 14))
  | 6 => if fld w 0 4 != 0 || fld w 19 5 != 0 then .error .reserved else .ok (.resume (fReg w 14) (fReg w 9))
  | _ => .error .noMinor

/-- Major 0x02 of class C: MFSR. -/
def dec02 (w : Nat) : DecRes :=
  if fld w 14 5 != 0 then .error .reserved else optOr (SReg.ofCode? (fld w 0 14)) .noRegister fun fi => .ok (.mfsr (fReg w 19) fi)

/-- Major 0x03 of class C: MTSR. -/
def dec03 (w : Nat) : DecRes :=
  if fld w 19 5 != 0 then .error .reserved else optOr (SReg.ofCode? (fld w 0 14)) .noRegister fun fi => .ok (.mtsr (fReg w 14) fi)

/-- Major 0x04 of class C: J. -/
def dec04 (w : Nat) : DecRes :=
  .ok (.j (BitVec.ofNat 24 (fld w 0 24)))

/-- Major 0x05 of class C: JL. -/
def dec05 (w : Nat) : DecRes :=
  .ok (.jl (BitVec.ofNat 24 (fld w 0 24)))

/-- Major 0x06 of class C: JR, JLR. -/
def dec06 (w : Nat) : DecRes :=
  match fld w 4 5 with
  | 0 => if fld w 0 4 != 0 || fld w 9 5 != 0 || fld w 19 5 != 0 then .error .reserved else .ok (.jr (fReg w 14))
  | 1 => if fld w 0 4 != 0 || fld w 9 5 != 0 then .error .reserved else .ok (.jlr (fReg w 19) (fReg w 14))
  | _ => .error .noMinor

/-- Major 0x07 of class C: BEQ. -/
def dec07 (w : Nat) : DecRes :=
  .ok (.beq (fReg w 19) (fReg w 14) (BitVec.ofNat 14 (fld w 0 14)))

/-- Major 0x08 of class C: BNE. -/
def dec08 (w : Nat) : DecRes :=
  .ok (.bne (fReg w 19) (fReg w 14) (BitVec.ofNat 14 (fld w 0 14)))

/-- Major 0x09 of class C: BLT. -/
def dec09 (w : Nat) : DecRes :=
  .ok (.blt (fReg w 19) (fReg w 14) (BitVec.ofNat 14 (fld w 0 14)))

/-- Major 0x0A of class C: BGE. -/
def dec0A (w : Nat) : DecRes :=
  .ok (.bge (fReg w 19) (fReg w 14) (BitVec.ofNat 14 (fld w 0 14)))

/-- Major 0x0B of class C: BLTU. -/
def dec0B (w : Nat) : DecRes :=
  .ok (.bltu (fReg w 19) (fReg w 14) (BitVec.ofNat 14 (fld w 0 14)))

/-- Major 0x0C of class C: BGEU. -/
def dec0C (w : Nat) : DecRes :=
  .ok (.bgeu (fReg w 19) (fReg w 14) (BitVec.ofNat 14 (fld w 0 14)))

/-- Major 0x0D of class C: LI. -/
def dec0D (w : Nat) : DecRes :=
  if fld w 14 5 != 0 then .error .reserved else .ok (.li (fReg w 19) (BitVec.ofNat 14 (fld w 0 14)))

/-- Major 0x0E of class C: LIS. -/
def dec0E (w : Nat) : DecRes :=
  .ok (.lis (fReg w 19) (fReg w 14) (BitVec.ofNat 14 (fld w 0 14)))

/-- Major 0x0F of class C: LEA. -/
def dec0F (w : Nat) : DecRes :=
  if fld w 14 5 != 0 then .error .reserved else .ok (.lea (fReg w 19) (BitVec.ofNat 14 (fld w 0 14)))

/-- Major 0x10 of class C: LD. -/
def dec10 (w : Nat) : DecRes :=
  optOr (Sc.ofCode? (fld w 9 3)) .scope7 fun fs => .ok (.ld (fReg w 19) (fReg w 14) (Sz.ofCode (fld w 12 2)) fs (BitVec.ofNat 9 (fld w 0 9)))

/-- Major 0x11 of class C: LDS. -/
def dec11 (w : Nat) : DecRes :=
  optOr (Sc.ofCode? (fld w 9 3)) .scope7 fun fs => .ok (.lds (fReg w 19) (fReg w 14) (Sz.ofCode (fld w 12 2)) fs (BitVec.ofNat 9 (fld w 0 9)))

/-- Major 0x12 of class C: ST. -/
def dec12 (w : Nat) : DecRes :=
  optOr (Sc.ofCode? (fld w 9 3)) .scope7 fun fs => .ok (.st (fReg w 19) (fReg w 14) (Sz.ofCode (fld w 12 2)) fs (BitVec.ofNat 9 (fld w 0 9)))

/-- Major 0x13 of class C: LDV, LDVL, STV, RECLAIM. -/
def dec13 (w : Nat) : DecRes :=
  match fld w 4 5 with
  | 0 => if fld w 3 1 != 0 then .error .reserved else optOr (Sc.ofCode? (fld w 0 3)) .scope7 fun fs => .ok (.ldv (fReg w 19) (fReg w 14) (fReg w 9) fs)
  | 1 => if fld w 3 1 != 0 || fld w 9 5 != 0 then .error .reserved else optOr (Sc.ofCode? (fld w 0 3)) .scope7 fun fs => .ok (.ldvl (fReg w 19) (fReg w 14) fs)
  | 2 => if fld w 3 1 != 0 then .error .reserved else optOr (Sc.ofCode? (fld w 0 3)) .scope7 fun fs => .ok (.stv (fReg w 19) (fReg w 14) (fReg w 9) fs)
  | 3 => if fld w 3 1 != 0 then .error .reserved else optOr (Sc.ofCode? (fld w 0 3)) .scope7 fun fs => .ok (.reclaim (fReg w 19) (fReg w 14) (fReg w 9) fs)
  | _ => .error .noMinor

/-- Major 0x14 of class C: LDF, LDFE, STF, STE. -/
def dec14 (w : Nat) : DecRes :=
  match fld w 4 5 with
  | 0 => if fld w 3 1 != 0 || fld w 9 5 != 0 then .error .reserved else optOr (Sc.ofCode? (fld w 0 3)) .scope7 fun fs => .ok (.ldf (fReg w 19) (fReg w 14) fs)
  | 1 => if fld w 3 1 != 0 || fld w 9 5 != 0 then .error .reserved else optOr (Sc.ofCode? (fld w 0 3)) .scope7 fun fs => .ok (.ldfe (fReg w 19) (fReg w 14) fs)
  | 2 => if fld w 3 1 != 0 || fld w 19 5 != 0 then .error .reserved else optOr (Sc.ofCode? (fld w 0 3)) .scope7 fun fs => .ok (.stf (fReg w 14) (fReg w 9) fs)
  | 3 => if fld w 3 1 != 0 || fld w 9 5 != 0 || fld w 19 5 != 0 then .error .reserved else optOr (Sc.ofCode? (fld w 0 3)) .scope7 fun fs => .ok (.ste (fReg w 14) fs)
  | _ => .error .noMinor

/-- Major 0x15 of class C: AADD, AAND, AOR, AXOR, AMIN, AMAX, ASWAP, ACAS, LDLK, STUL. -/
def dec15 (w : Nat) : DecRes :=
  match fld w 4 5 with
  | 0 => optOr (Sc.ofCode? (fld w 0 3)) .scope7 fun fs => .ok (.aadd (fReg w 19) (fReg w 14) (fReg w 9) (fBit w 3) fs)
  | 1 => optOr (Sc.ofCode? (fld w 0 3)) .scope7 fun fs => .ok (.aand (fReg w 19) (fReg w 14) (fReg w 9) (fBit w 3) fs)
  | 2 => optOr (Sc.ofCode? (fld w 0 3)) .scope7 fun fs => .ok (.aor (fReg w 19) (fReg w 14) (fReg w 9) (fBit w 3) fs)
  | 3 => optOr (Sc.ofCode? (fld w 0 3)) .scope7 fun fs => .ok (.axor (fReg w 19) (fReg w 14) (fReg w 9) (fBit w 3) fs)
  | 4 => optOr (Sc.ofCode? (fld w 0 3)) .scope7 fun fs => .ok (.amin (fReg w 19) (fReg w 14) (fReg w 9) (fBit w 3) fs)
  | 5 => optOr (Sc.ofCode? (fld w 0 3)) .scope7 fun fs => .ok (.amax (fReg w 19) (fReg w 14) (fReg w 9) (fBit w 3) fs)
  | 6 => optOr (Sc.ofCode? (fld w 0 3)) .scope7 fun fs => .ok (.aswap (fReg w 19) (fReg w 14) (fReg w 9) (fBit w 3) fs)
  | 7 => optOr (Sc.ofCode? (fld w 0 3)) .scope7 fun fs => .ok (.acas (fReg w 19) (fReg w 14) (fReg w 9) (fBit w 3) fs)
  | 8 => if fld w 9 5 != 0 then .error .reserved else optOr (Sc.ofCode? (fld w 0 3)) .scope7 fun fs => .ok (.ldlk (fReg w 19) (fReg w 14) (fBit w 3) fs)
  | 9 => if fld w 9 5 != 0 then .error .reserved else optOr (Sc.ofCode? (fld w 0 3)) .scope7 fun fs => .ok (.stul (fReg w 19) (fReg w 14) (fBit w 3) fs)
  | _ => .error .noMinor

/-- Major 0x16 of class C: ROWADD, ROWMAX, ROWLD, ROWST. -/
def dec16 (w : Nat) : DecRes :=
  match fld w 4 5 with
  | 0 => if fld w 3 1 != 0 then .error .reserved else optOr (Sc.ofCode? (fld w 0 3)) .scope7 fun fs => .ok (.rowadd (fReg w 19) (fReg w 14) (fReg w 9) fs)
  | 1 => if fld w 3 1 != 0 then .error .reserved else optOr (Sc.ofCode? (fld w 0 3)) .scope7 fun fs => .ok (.rowmax (fReg w 19) (fReg w 14) (fReg w 9) fs)
  | 2 => if fld w 3 1 != 0 then .error .reserved else optOr (Sc.ofCode? (fld w 0 3)) .scope7 fun fs => .ok (.rowld (fReg w 19) (fReg w 14) (fReg w 9) fs)
  | 3 => if fld w 3 1 != 0 then .error .reserved else optOr (Sc.ofCode? (fld w 0 3)) .scope7 fun fs => .ok (.rowst (fReg w 19) (fReg w 14) (fReg w 9) fs)
  | _ => .error .noMinor

/-- Major 0x17 of class C: FENCE. -/
def dec17 (w : Nat) : DecRes :=
  if fld w 3 16 != 0 then .error .reserved else optOr (Sc.ofCode? (fld w 0 3)) .scope7 fun fs => .ok (.fence (fReg w 19) fs)

/-- Major 0x18 of class C: VLD. -/
def dec18 (w : Nat) : DecRes :=
  if fld w 0 3 != 0 then .error .reserved else optOr (Sc.ofCode? (fld w 3 3)) .scope7 fun fs => .ok (.vld (fReg w 19) (fReg w 14) (fReg w 9) (fOct w 6) fs)

/-- Major 0x19 of class C: VST. -/
def dec19 (w : Nat) : DecRes :=
  if fld w 0 3 != 0 then .error .reserved else optOr (Sc.ofCode? (fld w 3 3)) .scope7 fun fs => .ok (.vst (fReg w 19) (fReg w 14) (fReg w 9) (fOct w 6) fs)

/-- Major 0x1A of class C: VLDS, VSTS, VLDX, VSTX. -/
def dec1A (w : Nat) : DecRes :=
  match fld w 0 3 with
  | 0 => optOr (Sc.ofCode? (fld w 3 3)) .scope7 fun fs => .ok (.vlds (fReg w 19) (fReg w 14) (fReg w 9) (fOct w 6) fs)
  | 1 => optOr (Sc.ofCode? (fld w 3 3)) .scope7 fun fs => .ok (.vsts (fReg w 19) (fReg w 14) (fReg w 9) (fOct w 6) fs)
  | 2 => optOr (Sc.ofCode? (fld w 3 3)) .scope7 fun fs => .ok (.vldx (fReg w 19) (fReg w 14) (fReg w 9) (fOct w 6) fs)
  | 3 => optOr (Sc.ofCode? (fld w 3 3)) .scope7 fun fs => .ok (.vstx (fReg w 19) (fReg w 14) (fReg w 9) (fOct w 6) fs)
  | _ => .error .noMinor

/-- Major 0x1B of class C: VSTQ. -/
def dec1B (w : Nat) : DecRes :=
  if fld w 0 9 != 0 then .error .reserved else .ok (.vstq (fReg w 19) (fReg w 14) (fReg w 9))

/-- Major 0x1C of class C: VLDV. -/
def dec1C (w : Nat) : DecRes :=
  optOr (ViewPol.ofCode? (fld w 0 3)) .noMinor fun ff => optOr (Sc.ofCode? (fld w 3 3)) .scope7 fun fs => .ok (.vldv (fReg w 19) (fReg w 14) (fReg w 9) (fOct w 6) fs ff)

/-- Major 0x1D of class C: HVLD, HVLD_B, HVST, HVST_B, HVMEMST. -/
def dec1D (w : Nat) : DecRes :=
  match fld w 4 6 with
  | 0 => if fBit w 3 then if fld w 15 6 != 0 then .error .reserved else optOr (Sc.ofCode? (fld w 0 3)) .scope7 fun fs => .ok (.hvldB (fOct w 21) (fReg w 10) fs)
      else if fld w 15 6 != 0 then .error .reserved else optOr (Sc.ofCode? (fld w 0 3)) .scope7 fun fs => .ok (.hvld (fOct w 21) (fReg w 10) fs)
  | 1 => if fBit w 3 then if fld w 15 3 != 0 || fld w 21 3 != 0 then .error .reserved else optOr (Sc.ofCode? (fld w 0 3)) .scope7 fun fs => .ok (.hvstB (fOct w 18) (fReg w 10) fs)
      else if fld w 15 3 != 0 || fld w 21 3 != 0 then .error .reserved else optOr (Sc.ofCode? (fld w 0 3)) .scope7 fun fs => .ok (.hvst (fOct w 18) (fReg w 10) fs)
  | 2 => if fld w 0 4 != 0 || fld w 15 3 != 0 || fld w 21 3 != 0 then .error .reserved else .ok (.hvmemst (fOct w 18) (fReg w 10))
  | _ => .error .noMinor

/-- Major 0x1E of class C: STRM, STRMOFF, STRMQ. -/
def dec1E (w : Nat) : DecRes :=
  match fld w 4 5 with
  | 0 => if fld w 0 4 != 0 || fld w 19 5 != 0 then .error .reserved else .ok (.strm (fReg w 14) (fReg w 9))
  | 1 => if fld w 0 4 != 0 || fld w 14 10 != 0 then .error .reserved else .ok (.strmoff (fReg w 9))
  | 2 => if fld w 0 4 != 0 || fld w 14 5 != 0 then .error .reserved else .ok (.strmq (fReg w 19) (fReg w 9))
  | _ => .error .noMinor

/-- Major 0x1F of class C: COPY, GATHER, SCATTER, CSTAT. -/
def dec1F (w : Nat) : DecRes :=
  match fld w 4 5 with
  | 0 => if fld w 0 4 != 0 || fld w 9 5 != 0 then .error .reserved else .ok (.copy (fReg w 19) (fReg w 14))
  | 1 => if fld w 0 4 != 0 || fld w 9 5 != 0 then .error .reserved else .ok (.gather (fReg w 19) (fReg w 14))
  | 2 => if fld w 2 2 != 0 || fld w 9 5 != 0 then .error .reserved else .ok (.scatter (fReg w 19) (fReg w 14) (ScatMode.ofCode (fld w 0 2)))
  | 3 => if fld w 0 4 != 0 || fld w 9 5 != 0 then .error .reserved else .ok (.cstat (fReg w 19) (fReg w 14))
  | _ => .error .noMinor

/-- Major 0x20 of class C: SENDMSG, WAITMSG, POLLMSG, UIEN. -/
def dec20 (w : Nat) : DecRes :=
  match fld w 4 5 with
  | 0 => if fld w 0 4 != 0 || fld w 19 5 != 0 then .error .reserved else .ok (.sendmsg (fReg w 14) (fReg w 9))
  | 1 => if fld w 0 4 != 0 || fld w 9 5 != 0 then .error .reserved else .ok (.waitmsg (fReg w 19) (fReg w 14))
  | 2 => if fld w 0 4 != 0 || fld w 9 5 != 0 then .error .reserved else .ok (.pollmsg (fReg w 19) (fReg w 14))
  | 3 => if fld w 0 4 != 0 || fld w 9 5 != 0 || fld w 19 5 != 0 then .error .reserved else .ok (.uien (fReg w 14))
  | _ => .error .noMinor

/-- Major 0x21 of class C: TASKW, DONE, WRC, WRC_C, CTRRD, CTRSET. -/
def dec21 (w : Nat) : DecRes :=
  match fld w 4 5 with
  | 0 => if fld w 0 4 != 0 then .error .reserved else .ok (.taskw (fReg w 19) (fReg w 14) (fReg w 9))
  | 1 => if fld w 0 4 != 0 || fld w 9 15 != 0 then .error .reserved else .ok (.done)
  | 2 => .ok (.wrc (fReg w 19) (fReg w 14) (fReg w 9) (fNib w 0))
  | 3 => .ok (.wrcC (fReg w 19) (fReg w 14) (fReg w 9) (fNib w 0))
  | 4 => if fld w 9 10 != 0 then .error .reserved else .ok (.ctrrd (fReg w 19) (fNib w 0))
  | 5 => if fld w 9 5 != 0 || fld w 19 5 != 0 then .error .reserved else .ok (.ctrset (fReg w 14) (fNib w 0))
  | _ => .error .noMinor

/-- Major 0x22 of class C: SUSP, FORCE, SPARK, MKVAL, PEEK, KEEP, DROP, BUDGET. -/
def dec22 (w : Nat) : DecRes :=
  match fld w 4 5 with
  | 0 => if fld w 3 1 != 0 then .error .reserved else .ok (.susp (fReg w 19) (fReg w 14) (fReg w 9) (SuspOp.ofCode (fld w 0 3)))
  | 1 => if fld w 0 4 != 0 || fld w 9 5 != 0 then .error .reserved else .ok (.force (fReg w 19) (fReg w 14))
  | 2 => if fld w 0 4 != 0 || fld w 9 5 != 0 then .error .reserved else .ok (.spark (fReg w 19) (fReg w 14))
  | 3 => if fld w 0 4 != 0 then .error .reserved else .ok (.mkval (fReg w 19) (fReg w 14) (fReg w 9))
  | 4 => if fld w 0 4 != 0 || fld w 9 5 != 0 then .error .reserved else .ok (.peek (fReg w 19) (fReg w 14))
  | 5 => if fld w 0 4 != 0 || fld w 9 5 != 0 || fld w 19 5 != 0 then .error .reserved else .ok (.keep (fReg w 14))
  | 6 => if fld w 0 4 != 0 || fld w 9 5 != 0 || fld w 19 5 != 0 then .error .reserved else .ok (.drop (fReg w 14))
  | 7 => if fld w 2 2 != 0 || fld w 9 5 != 0 then .error .reserved else optOr (BudgetMode.ofCode? (fld w 0 2)) .noMinor fun fo => .ok (.budget (fReg w 19) (fReg w 14) fo)
  | _ => .error .noMinor

/-- Major 0x23 of class C: GJOIN, GLEAVE, GBAR, FOLLOW, SYNCALL, TREE. -/
def dec23 (w : Nat) : DecRes :=
  match fld w 4 5 with
  | 0 => if fld w 0 4 != 0 || fld w 9 5 != 0 then .error .reserved else .ok (.gjoin (fReg w 19) (fReg w 14))
  | 1 => if fld w 0 4 != 0 || fld w 9 5 != 0 then .error .reserved else .ok (.gleave (fReg w 19) (fReg w 14))
  | 2 => if fld w 0 4 != 0 || fld w 9 5 != 0 then .error .reserved else .ok (.gbar (fReg w 19) (fReg w 14))
  | 3 => if fld w 0 4 != 0 || fld w 19 5 != 0 then .error .reserved else .ok (.follow (fReg w 14) (fReg w 9))
  | 4 => if fld w 0 4 != 0 || fld w 9 10 != 0 then .error .reserved else .ok (.syncall (fReg w 19))
  | 5 => optOr (TreeOp.ofCode? (fld w 0 4)) .noMinor fun fo => .ok (.tree (fReg w 19) (fReg w 14) (fReg w 9) fo)
  | _ => .error .noMinor

/-- Major 0x24 of class C: PHASE, SENDAT, RECVAT. -/
def dec24 (w : Nat) : DecRes :=
  match fld w 22 2 with
  | 0 => if fld w 2 20 != 0 then .error .reserved else optOr (PhaseKind.ofCode? (fld w 0 2)) .noMinor fun fk => .ok (.phase fk)
  | 1 => .ok (.sendat (fReg w 17) (fOct w 14) (BitVec.ofNat 14 (fld w 0 14)))
  | 2 => .ok (.recvat (fReg w 17) (fOct w 14) (BitVec.ofNat 14 (fld w 0 14)))
  | _ => .error .noMinor

/-- Major 0x25 of class C: VIEWREG, VIEWDROP, VIEWST. -/
def dec25 (w : Nat) : DecRes :=
  match fld w 4 5 with
  | 0 => if fld w 0 4 != 0 || fld w 9 5 != 0 then .error .reserved else .ok (.viewreg (fReg w 19) (fReg w 14))
  | 1 => if fld w 0 4 != 0 || fld w 9 5 != 0 then .error .reserved else .ok (.viewdrop (fReg w 19) (fReg w 14))
  | 2 => if fld w 0 4 != 0 then .error .reserved else .ok (.viewst (fReg w 19) (fReg w 14) (fReg w 9))
  | _ => .error .noMinor

/-- Major 0x26 of class C: KVSLOT, KVAPP, KVTRUNC, KVEVICT, RMAPSET, TLBINV. -/
def dec26 (w : Nat) : DecRes :=
  match fld w 4 5 with
  | 0 => if fld w 0 4 != 0 then .error .reserved else .ok (.kvslot (fReg w 19) (fReg w 14) (fReg w 9))
  | 1 => if fld w 0 4 != 0 then .error .reserved else .ok (.kvapp (fReg w 19) (fReg w 14) (fReg w 9))
  | 2 => if fld w 0 4 != 0 then .error .reserved else .ok (.kvtrunc (fReg w 19) (fReg w 14) (fReg w 9))
  | 3 => if fld w 0 4 != 0 then .error .reserved else .ok (.kvevict (fReg w 19) (fReg w 14) (fReg w 9))
  | 4 => if fld w 0 4 != 0 || fld w 19 5 != 0 then .error .reserved else .ok (.rmapset (fReg w 14) (fReg w 9))
  | 5 => if fld w 0 4 != 0 || fld w 19 5 != 0 then .error .reserved else .ok (.tlbinv (fReg w 14) (fReg w 9))
  | _ => .error .noMinor

/-- Major 0x27 of class C: GQPUSH, GQPOP, GQWIN. -/
def dec27 (w : Nat) : DecRes :=
  match fld w 4 5 with
  | 0 => if fld w 0 4 != 0 then .error .reserved else .ok (.gqpush (fReg w 19) (fReg w 14) (fReg w 9))
  | 1 => if fld w 0 4 != 0 then .error .reserved else .ok (.gqpop (fReg w 19) (fReg w 14) (fReg w 9))
  | 2 => if fld w 0 4 != 0 || fld w 9 5 != 0 then .error .reserved else .ok (.gqwin (fReg w 19) (fReg w 14))
  | _ => .error .noMinor

/-- Major 0x28 of class C: CEPOST, CEARB. -/
def dec28 (w : Nat) : DecRes :=
  match fld w 4 5 with
  | 0 => if fld w 0 4 != 0 || fld w 9 5 != 0 then .error .reserved else .ok (.cepost (fReg w 19) (fReg w 14))
  | 1 => if fld w 0 4 != 0 || fld w 9 5 != 0 then .error .reserved else .ok (.cearb (fReg w 19) (fReg w 14))
  | _ => .error .noMinor

/-- Major 0x29 of class C: REGION, QUIET. -/
def dec29 (w : Nat) : DecRes :=
  match fld w 4 5 with
  | 0 => if fld w 0 4 != 0 || fld w 9 5 != 0 then .error .reserved else .ok (.region (fReg w 19) (fReg w 14))
  | 1 => if fld w 0 4 != 0 || fld w 9 10 != 0 then .error .reserved else .ok (.quiet (fReg w 19))
  | _ => .error .noMinor

/-- Major 0x2A of class C: ALLOT, LIVE. -/
def dec2A (w : Nat) : DecRes :=
  match fld w 4 5 with
  | 0 => if fld w 1 3 != 0 || fld w 9 5 != 0 || fld w 19 5 != 0 then .error .reserved else .ok (.allot (fReg w 14) (fBit w 0))
  | 1 => if fld w 0 4 != 0 || fld w 9 5 != 0 || fld w 19 5 != 0 then .error .reserved else .ok (.live (fReg w 14))
  | _ => .error .noMinor

/-- Major 0x00 of class A: ANOP. -/
def dec40 (w : Nat) : DecRes :=
  if fld w 0 24 != 0 then .error .reserved else .ok (.anop)

/-- Major 0x01 of class A: ADD, SUB, AND, OR, XOR, SLL, SRL, SRA, MUL, MULH, MULHU, DIV, DIVU, REM, REMU, MIN, MAX, MINU, MAXU, SLT, SLTU, CLZ, CTZ, POPC. -/
def dec41 (w : Nat) : DecRes :=
  match fld w 0 9 with
  | 0 => .ok (.add (fReg w 19) (fReg w 14) (fReg w 9))
  | 1 => .ok (.sub (fReg w 19) (fReg w 14) (fReg w 9))
  | 2 => .ok (.and (fReg w 19) (fReg w 14) (fReg w 9))
  | 3 => .ok (.or (fReg w 19) (fReg w 14) (fReg w 9))
  | 4 => .ok (.xor (fReg w 19) (fReg w 14) (fReg w 9))
  | 5 => .ok (.sll (fReg w 19) (fReg w 14) (fReg w 9))
  | 6 => .ok (.srl (fReg w 19) (fReg w 14) (fReg w 9))
  | 7 => .ok (.sra (fReg w 19) (fReg w 14) (fReg w 9))
  | 8 => .ok (.mul (fReg w 19) (fReg w 14) (fReg w 9))
  | 9 => .ok (.mulh (fReg w 19) (fReg w 14) (fReg w 9))
  | 10 => .ok (.mulhu (fReg w 19) (fReg w 14) (fReg w 9))
  | 11 => .ok (.div (fReg w 19) (fReg w 14) (fReg w 9))
  | 12 => .ok (.divu (fReg w 19) (fReg w 14) (fReg w 9))
  | 13 => .ok (.rem (fReg w 19) (fReg w 14) (fReg w 9))
  | 14 => .ok (.remu (fReg w 19) (fReg w 14) (fReg w 9))
  | 15 => .ok (.min (fReg w 19) (fReg w 14) (fReg w 9))
  | 16 => .ok (.max (fReg w 19) (fReg w 14) (fReg w 9))
  | 17 => .ok (.minu (fReg w 19) (fReg w 14) (fReg w 9))
  | 18 => .ok (.maxu (fReg w 19) (fReg w 14) (fReg w 9))
  | 19 => .ok (.slt (fReg w 19) (fReg w 14) (fReg w 9))
  | 20 => .ok (.sltu (fReg w 19) (fReg w 14) (fReg w 9))
  | 21 => if fld w 9 5 != 0 then .error .reserved else .ok (.clz (fReg w 19) (fReg w 14))
  | 22 => if fld w 9 5 != 0 then .error .reserved else .ok (.ctz (fReg w 19) (fReg w 14))
  | 23 => if fld w 9 5 != 0 then .error .reserved else .ok (.popc (fReg w 19) (fReg w 14))
  | _ => .error .noMinor

/-- Major 0x02 of class A: ADDI. -/
def dec42 (w : Nat) : DecRes :=
  .ok (.addi (fReg w 19) (fReg w 14) (BitVec.ofNat 14 (fld w 0 14)))

/-- Major 0x03 of class A: ANDI. -/
def dec43 (w : Nat) : DecRes :=
  .ok (.andi (fReg w 19) (fReg w 14) (BitVec.ofNat 14 (fld w 0 14)))

/-- Major 0x04 of class A: ORI. -/
def dec44 (w : Nat) : DecRes :=
  .ok (.ori (fReg w 19) (fReg w 14) (BitVec.ofNat 14 (fld w 0 14)))

/-- Major 0x05 of class A: XORI. -/
def dec45 (w : Nat) : DecRes :=
  .ok (.xori (fReg w 19) (fReg w 14) (BitVec.ofNat 14 (fld w 0 14)))

/-- Major 0x06 of class A: SLLI. -/
def dec46 (w : Nat) : DecRes :=
  if fld w 6 8 != 0 then .error .reserved else .ok (.slli (fReg w 19) (fReg w 14) (BitVec.ofNat 6 (fld w 0 6)))

/-- Major 0x07 of class A: SRLI. -/
def dec47 (w : Nat) : DecRes :=
  if fld w 6 8 != 0 then .error .reserved else .ok (.srli (fReg w 19) (fReg w 14) (BitVec.ofNat 6 (fld w 0 6)))

/-- Major 0x08 of class A: SRAI. -/
def dec48 (w : Nat) : DecRes :=
  if fld w 6 8 != 0 then .error .reserved else .ok (.srai (fReg w 19) (fReg w 14) (BitVec.ofNat 6 (fld w 0 6)))

/-- Major 0x09 of class A: SLTI. -/
def dec49 (w : Nat) : DecRes :=
  .ok (.slti (fReg w 19) (fReg w 14) (BitVec.ofNat 14 (fld w 0 14)))

/-- Major 0x10 of class A: VADD, VSUB, VMUL, VMULZ, VMIN, VMAX, VFMA, VFMAZ. -/
def dec50 (w : Nat) : DecRes :=
  match fld w 0 3 with
  | 0 => .ok (.vadd (fReg w 19) (fReg w 14) (fReg w 9) (fOct w 6) (Ft.ofCode (fld w 3 3)))
  | 1 => .ok (.vsub (fReg w 19) (fReg w 14) (fReg w 9) (fOct w 6) (Ft.ofCode (fld w 3 3)))
  | 2 => .ok (.vmul (fReg w 19) (fReg w 14) (fReg w 9) (fOct w 6) (Ft.ofCode (fld w 3 3)))
  | 3 => .ok (.vmulz (fReg w 19) (fReg w 14) (fReg w 9) (fOct w 6) (Ft.ofCode (fld w 3 3)))
  | 4 => .ok (.vmin (fReg w 19) (fReg w 14) (fReg w 9) (fOct w 6) (Ft.ofCode (fld w 3 3)))
  | 5 => .ok (.vmax (fReg w 19) (fReg w 14) (fReg w 9) (fOct w 6) (Ft.ofCode (fld w 3 3)))
  | 6 => .ok (.vfma (fReg w 19) (fReg w 14) (fReg w 9) (fOct w 6) (Ft.ofCode (fld w 3 3)))
  | 7 => .ok (.vfmaz (fReg w 19) (fReg w 14) (fReg w 9) (fOct w 6) (Ft.ofCode (fld w 3 3)))
  | _ => .error .noMinor

/-- Major 0x11 of class A: VADD_X, VSUB_X, VMUL_X, VMULZ_X, VMIN_X, VMAX_X, VFMA_X, VFMAZ_X. -/
def dec51 (w : Nat) : DecRes :=
  match fld w 0 3 with
  | 0 => .ok (.vaddX (fReg w 19) (fReg w 14) (fReg w 9) (fOct w 6) (Ft.ofCode (fld w 3 3)))
  | 1 => .ok (.vsubX (fReg w 19) (fReg w 14) (fReg w 9) (fOct w 6) (Ft.ofCode (fld w 3 3)))
  | 2 => .ok (.vmulX (fReg w 19) (fReg w 14) (fReg w 9) (fOct w 6) (Ft.ofCode (fld w 3 3)))
  | 3 => .ok (.vmulzX (fReg w 19) (fReg w 14) (fReg w 9) (fOct w 6) (Ft.ofCode (fld w 3 3)))
  | 4 => .ok (.vminX (fReg w 19) (fReg w 14) (fReg w 9) (fOct w 6) (Ft.ofCode (fld w 3 3)))
  | 5 => .ok (.vmaxX (fReg w 19) (fReg w 14) (fReg w 9) (fOct w 6) (Ft.ofCode (fld w 3 3)))
  | 6 => .ok (.vfmaX (fReg w 19) (fReg w 14) (fReg w 9) (fOct w 6) (Ft.ofCode (fld w 3 3)))
  | 7 => .ok (.vfmazX (fReg w 19) (fReg w 14) (fReg w 9) (fOct w 6) (Ft.ofCode (fld w 3 3)))
  | _ => .error .noMinor

/-- Major 0x12 of class A: VAND, VOR, VXOR, VANDN, VSHL, VSHR, VSAR, VROTL. -/
def dec52 (w : Nat) : DecRes :=
  match fld w 0 3 with
  | 0 => .ok (.vand (fReg w 19) (fReg w 14) (fReg w 9) (fOct w 6) (Ft.ofCode (fld w 3 3)))
  | 1 => .ok (.vor (fReg w 19) (fReg w 14) (fReg w 9) (fOct w 6) (Ft.ofCode (fld w 3 3)))
  | 2 => .ok (.vxor (fReg w 19) (fReg w 14) (fReg w 9) (fOct w 6) (Ft.ofCode (fld w 3 3)))
  | 3 => .ok (.vandn (fReg w 19) (fReg w 14) (fReg w 9) (fOct w 6) (Ft.ofCode (fld w 3 3)))
  | 4 => .ok (.vshl (fReg w 19) (fReg w 14) (fReg w 9) (fOct w 6) (Ft.ofCode (fld w 3 3)))
  | 5 => .ok (.vshr (fReg w 19) (fReg w 14) (fReg w 9) (fOct w 6) (Ft.ofCode (fld w 3 3)))
  | 6 => .ok (.vsar (fReg w 19) (fReg w 14) (fReg w 9) (fOct w 6) (Ft.ofCode (fld w 3 3)))
  | 7 => .ok (.vrotl (fReg w 19) (fReg w 14) (fReg w 9) (fOct w 6) (Ft.ofCode (fld w 3 3)))
  | _ => .error .noMinor

/-- Major 0x13 of class A: VCEQ, VCNE, VCLT, VCLE, VCGT, VCGE, VCNAN, VCINF. -/
def dec53 (w : Nat) : DecRes :=
  match fld w 0 3 with
  | 0 => if fld w 22 2 != 0 then .error .reserved else .ok (.vceq (fOct w 19) (fReg w 14) (fReg w 9) (fOct w 6) (Ft.ofCode (fld w 3 3)))
  | 1 => if fld w 22 2 != 0 then .error .reserved else .ok (.vcne (fOct w 19) (fReg w 14) (fReg w 9) (fOct w 6) (Ft.ofCode (fld w 3 3)))
  | 2 => if fld w 22 2 != 0 then .error .reserved else .ok (.vclt (fOct w 19) (fReg w 14) (fReg w 9) (fOct w 6) (Ft.ofCode (fld w 3 3)))
  | 3 => if fld w 22 2 != 0 then .error .reserved else .ok (.vcle (fOct w 19) (fReg w 14) (fReg w 9) (fOct w 6) (Ft.ofCode (fld w 3 3)))
  | 4 => if fld w 22 2 != 0 then .error .reserved else .ok (.vcgt (fOct w 19) (fReg w 14) (fReg w 9) (fOct w 6) (Ft.ofCode (fld w 3 3)))
  | 5 => if fld w 22 2 != 0 then .error .reserved else .ok (.vcge (fOct w 19) (fReg w 14) (fReg w 9) (fOct w 6) (Ft.ofCode (fld w 3 3)))
  | 6 => if fld w 9 5 != 0 || fld w 22 2 != 0 then .error .reserved else .ok (.vcnan (fOct w 19) (fReg w 14) (fOct w 6) (Ft.ofCode (fld w 3 3)))
  | 7 => if fld w 9 5 != 0 || fld w 22 2 != 0 then .error .reserved else .ok (.vcinf (fOct w 19) (fReg w 14) (fOct w 6) (Ft.ofCode (fld w 3 3)))
  | _ => .error .noMinor

/-- Major 0x14 of class A: VMOV, VSEL, VBCAST, PAND, POR, PXOR, PNOT. -/
def dec54 (w : Nat) : DecRes :=
  match fld w 0 3 with
  | 0 => if fld w 3 3 != 0 || fld w 9 5 != 0 then .error .reserved else .ok (.vmov (fReg w 19) (fReg w 14) (fOct w 6))
  | 1 => if fld w 3 3 != 0 then .error .reserved else .ok (.vsel (fReg w 19) (fReg w 14) (fReg w 9) (fOct w 6))
  | 2 => if fld w 14 5 != 0 then .error .reserved else .ok (.vbcast (fReg w 19) (fReg w 9) (fOct w 6) (Ft.ofCode (fld w 3 3)))
  | 3 => if fld w 3 6 != 0 || fld w 12 2 != 0 || fld w 17 2 != 0 || fld w 22 2 != 0 then .error .reserved else .ok (.pand (fOct w 19) (fOct w 14) (fOct w 9))
  | 4 => if fld w 3 6 != 0 || fld w 12 2 != 0 || fld w 17 2 != 0 || fld w 22 2 != 0 then .error .reserved else .ok (.por (fOct w 19) (fOct w 14) (fOct w 9))
  | 5 => if fld w 3 6 != 0 || fld w 12 2 != 0 || fld w 17 2 != 0 || fld w 22 2 != 0 then .error .reserved else .ok (.pxor (fOct w 19) (fOct w 14) (fOct w 9))
  | 6 => if fld w 3 11 != 0 || fld w 17 2 != 0 || fld w 22 2 != 0 then .error .reserved else .ok (.pnot (fOct w 19) (fOct w 14))
  | _ => .error .noMinor

/-- Major 0x15 of class A: VCVT. -/
def dec55 (w : Nat) : DecRes :=
  if fld w 0 3 != 0 || fld w 13 1 != 0 then .error .reserved else .ok (.vcvt (fReg w 19) (fReg w 14) (fBit w 12) (Ft.ofCode (fld w 9 3)) (fOct w 6) (Ft.ofCode (fld w 3 3)))

/-- Major 0x16 of class A: VRSUM, VRMAX, VRMIN, VRAMAX, VRSSQ. -/
def dec56 (w : Nat) : DecRes :=
  match fld w 0 3 with
  | 0 => if fld w 9 5 != 0 then .error .reserved else .ok (.vrsum (fReg w 19) (fReg w 14) (fOct w 6) (Ft.ofCode (fld w 3 3)))
  | 1 => if fld w 9 5 != 0 then .error .reserved else .ok (.vrmax (fReg w 19) (fReg w 14) (fOct w 6) (Ft.ofCode (fld w 3 3)))
  | 2 => if fld w 9 5 != 0 then .error .reserved else .ok (.vrmin (fReg w 19) (fReg w 14) (fOct w 6) (Ft.ofCode (fld w 3 3)))
  | 3 => if fld w 9 5 != 0 then .error .reserved else .ok (.vramax (fReg w 19) (fReg w 14) (fOct w 6) (Ft.ofCode (fld w 3 3)))
  | 4 => if fld w 9 5 != 0 then .error .reserved else .ok (.vrssq (fReg w 19) (fReg w 14) (fOct w 6) (Ft.ofCode (fld w 3 3)))
  | _ => .error .noMinor

/-- Major 0x17 of class A: VSHUF, VROTR, VSLUP, VSLDN, VZIP, VUNZIP. -/
def dec57 (w : Nat) : DecRes :=
  match fld w 0 3 with
  | 0 => .ok (.vshuf (fReg w 19) (fReg w 14) (fReg w 9) (fOct w 6) (Ft.ofCode (fld w 3 3)))
  | 1 => .ok (.vrotr (fReg w 19) (fReg w 14) (fReg w 9) (fOct w 6) (Ft.ofCode (fld w 3 3)))
  | 2 => .ok (.vslup (fReg w 19) (fReg w 14) (fReg w 9) (fOct w 6) (Ft.ofCode (fld w 3 3)))
  | 3 => .ok (.vsldn (fReg w 19) (fReg w 14) (fReg w 9) (fOct w 6) (Ft.ofCode (fld w 3 3)))
  | 4 => .ok (.vzip (fReg w 19) (fReg w 14) (fReg w 9) (fOct w 6) (Ft.ofCode (fld w 3 3)))
  | 5 => .ok (.vunzip (fReg w 19) (fReg w 14) (fReg w 9) (fOct w 6) (Ft.ofCode (fld w 3 3)))
  | _ => .error .noMinor

/-- Major 0x18 of class A: VEXP2, VLOG2, VRCP, VRSQ, VEXP, VTANH, VSILU. -/
def dec58 (w : Nat) : DecRes :=
  match fld w 0 3 with
  | 0 => if fld w 9 5 != 0 then .error .reserved else .ok (.vexp2 (fReg w 19) (fReg w 14) (fOct w 6) (Ft.ofCode (fld w 3 3)))
  | 1 => if fld w 9 5 != 0 then .error .reserved else .ok (.vlog2 (fReg w 19) (fReg w 14) (fOct w 6) (Ft.ofCode (fld w 3 3)))
  | 2 => if fld w 9 5 != 0 then .error .reserved else .ok (.vrcp (fReg w 19) (fReg w 14) (fOct w 6) (Ft.ofCode (fld w 3 3)))
  | 3 => if fld w 9 5 != 0 then .error .reserved else .ok (.vrsq (fReg w 19) (fReg w 14) (fOct w 6) (Ft.ofCode (fld w 3 3)))
  | 4 => if fld w 9 5 != 0 then .error .reserved else .ok (.vexp (fReg w 19) (fReg w 14) (fOct w 6) (Ft.ofCode (fld w 3 3)))
  | 5 => if fld w 9 5 != 0 then .error .reserved else .ok (.vtanh (fReg w 19) (fReg w 14) (fOct w 6) (Ft.ofCode (fld w 3 3)))
  | 6 => if fld w 9 5 != 0 then .error .reserved else .ok (.vsilu (fReg w 19) (fReg w 14) (fOct w 6) (Ft.ofCode (fld w 3 3)))
  | _ => .error .noMinor

/-- Major 0x19 of class A: VSTATS, VSMX, VLSE, SBGET, SBSET. -/
def dec59 (w : Nat) : DecRes :=
  match fld w 0 3 with
  | 0 => if fld w 20 4 != 0 then .error .reserved else .ok (.vstats (fBit w 19) (fReg w 14) (fReg w 9) (fOct w 6) (Ft.ofCode (fld w 3 3)))
  | 1 => .ok (.vsmx (fReg w 19) (fReg w 14) (fReg w 9) (fOct w 6) (Ft.ofCode (fld w 3 3)))
  | 2 => if fld w 3 6 != 0 || fld w 14 5 != 0 then .error .reserved else .ok (.vlse (fReg w 19) (fReg w 9))
  | 3 => if fld w 3 3 != 0 || fld w 14 5 != 0 then .error .reserved else .ok (.sbget (fReg w 19) (fReg w 9) (fOct w 6))
  | 4 => if fld w 3 3 != 0 || fld w 19 5 != 0 then .error .reserved else .ok (.sbset (fReg w 14) (fReg w 9) (fOct w 6))
  | _ => .error .noMinor

/-- Major 0x1A of class A: VNRD. -/
def dec5A (w : Nat) : DecRes :=
  if fld w 0 3 != 0 || fld w 5 1 != 0 || fld w 12 2 != 0 then .error .reserved else .ok (.vnrd (fReg w 19) (fReg w 14) (fOct w 9) (fOct w 6) (Dir.ofCode (fld w 3 2)))

/-- Major 0x1B of class A: VLOOP, VSYNC, VSEQST. -/
def dec5B (w : Nat) : DecRes :=
  match fld w 0 3 with
  | 0 => if fld w 3 6 != 0 || fld w 19 5 != 0 then .error .reserved else .ok (.vloop (fReg w 14) (fReg w 9))
  | 1 => if fld w 3 21 != 0 then .error .reserved else .ok (.vsync)
  | 2 => if fld w 3 16 != 0 then .error .reserved else .ok (.vseqst (fReg w 19))
  | _ => .error .noMinor

/-- Major 0x1C of class A: VEXT, VINS, VIOTA. -/
def dec5C (w : Nat) : DecRes :=
  match fld w 0 3 with
  | 0 => if fld w 6 3 != 0 then .error .reserved else .ok (.vext (fReg w 19) (fReg w 14) (fReg w 9) (Ft.ofCode (fld w 3 3)))
  | 1 => if fld w 6 3 != 0 then .error .reserved else .ok (.vins (fReg w 19) (fReg w 14) (fReg w 9) (Ft.ofCode (fld w 3 3)))
  | 2 => if fld w 9 10 != 0 then .error .reserved else .ok (.viota (fReg w 19) (fOct w 6) (Ft.ofCode (fld w 3 3)))
  | _ => .error .noMinor

/-- Major 0x1D of class A: VRRD, VRWR. -/
def dec5D (w : Nat) : DecRes :=
  match fld w 0 3 with
  | 0 => .ok (.vrrd (fReg w 19) (fReg w 14) (fReg w 9) (fOct w 6) (fOct w 3))
  | 1 => .ok (.vrwr (fReg w 19) (fReg w 14) (fReg w 9) (fOct w 6) (fOct w 3))
  | _ => .error .noMinor

/-- Major 0x20 of class A: HVBIND, HVPERM, HVPERM_X, HVBUND, HVTHR, HVCLR, HVCLR_H, HVDIST, HVNEAR, HVNEAR2, HVMOV, HVMOV_LFSR, HVMOV_SEED. -/
def dec60 (w : Nat) : DecRes :=
  match fld w 4 6 with
  | 0 => if fld w 0 4 != 0 || fld w 10 5 != 0 then .error .reserved else .ok (.hvbind (fOct w 21) (fOct w 18) (fOct w 15))
  | 1 => if fBit w 3 then if fld w 0 3 != 0 || fld w 15 3 != 0 then .error .reserved else .ok (.hvpermX (fOct w 21) (fOct w 18) (fReg w 10))
      else .ok (.hvperm (fOct w 21) (fOct w 18) (fOct w 15) (fReg w 10) (fOct w 0))
  | 2 => if fld w 1 3 != 0 || fld w 15 3 != 0 then .error .reserved else .ok (.hvbund (fOct w 21) (fOct w 18) (fReg w 10) (fBit w 0))
  | 3 => if fld w 0 4 != 0 || fld w 10 8 != 0 then .error .reserved else .ok (.hvthr (fOct w 21) (fOct w 18))
  | 4 => match fld w 0 4 with
    | 0 => if fld w 10 11 != 0 then .error .reserved else .ok (.hvclr (fOct w 21))
    | 1 => if fld w 10 11 != 0 then .error .reserved else .ok (.hvclrH (fOct w 21))
    | _ => .error .noMinor
  | 5 => if fld w 0 4 != 0 || fld w 21 3 != 0 then .error .reserved else .ok (.hvdist (fOct w 18) (fOct w 15) (fReg w 10))
  | 6 => if fld w 0 4 != 0 || fld w 15 3 != 0 || fld w 21 3 != 0 then .error .reserved else .ok (.hvnear (fOct w 18) (fReg w 10))
  | 7 => if fld w 0 4 != 0 || fld w 15 3 != 0 || fld w 21 3 != 0 then .error .reserved else .ok (.hvnear2 (fOct w 18) (fReg w 10))
  | 8 => match fld w 0 4 with
    | 0 => if fld w 10 8 != 0 then .error .reserved else .ok (.hvmov (fOct w 21) (fOct w 18))
    | 1 => if fld w 10 11 != 0 then .error .reserved else .ok (.hvmovLfsr (fOct w 21))
    | 2 => if fld w 10 8 != 0 || fld w 21 3 != 0 then .error .reserved else .ok (.hvmovSeed (fOct w 18))
    | _ => .error .noMinor
  | _ => .error .noMinor

/-- Every word: the class and major select the family (R37, R38); any other major names no instruction (R39). -/
def decodeFields (w : Nat) : DecRes :=
  match fld w 24 7 with
  | 0x01 => dec01 w
  | 0x02 => dec02 w
  | 0x03 => dec03 w
  | 0x04 => dec04 w
  | 0x05 => dec05 w
  | 0x06 => dec06 w
  | 0x07 => dec07 w
  | 0x08 => dec08 w
  | 0x09 => dec09 w
  | 0x0A => dec0A w
  | 0x0B => dec0B w
  | 0x0C => dec0C w
  | 0x0D => dec0D w
  | 0x0E => dec0E w
  | 0x0F => dec0F w
  | 0x10 => dec10 w
  | 0x11 => dec11 w
  | 0x12 => dec12 w
  | 0x13 => dec13 w
  | 0x14 => dec14 w
  | 0x15 => dec15 w
  | 0x16 => dec16 w
  | 0x17 => dec17 w
  | 0x18 => dec18 w
  | 0x19 => dec19 w
  | 0x1A => dec1A w
  | 0x1B => dec1B w
  | 0x1C => dec1C w
  | 0x1D => dec1D w
  | 0x1E => dec1E w
  | 0x1F => dec1F w
  | 0x20 => dec20 w
  | 0x21 => dec21 w
  | 0x22 => dec22 w
  | 0x23 => dec23 w
  | 0x24 => dec24 w
  | 0x25 => dec25 w
  | 0x26 => dec26 w
  | 0x27 => dec27 w
  | 0x28 => dec28 w
  | 0x29 => dec29 w
  | 0x2A => dec2A w
  | 0x40 => dec40 w
  | 0x41 => dec41 w
  | 0x42 => dec42 w
  | 0x43 => dec43 w
  | 0x44 => dec44 w
  | 0x45 => dec45 w
  | 0x46 => dec46 w
  | 0x47 => dec47 w
  | 0x48 => dec48 w
  | 0x49 => dec49 w
  | 0x50 => dec50 w
  | 0x51 => dec51 w
  | 0x52 => dec52 w
  | 0x53 => dec53 w
  | 0x54 => dec54 w
  | 0x55 => dec55 w
  | 0x56 => dec56 w
  | 0x57 => dec57 w
  | 0x58 => dec58 w
  | 0x59 => dec59 w
  | 0x5A => dec5A w
  | 0x5B => dec5B w
  | 0x5C => dec5C w
  | 0x5D => dec5D w
  | 0x60 => dec60 w
  | _ => .error .noMajor

/-- A word: its fields, then the limits of `Instr.wf` (R39). -/
def decodeNat (w : Nat) : DecRes :=
  match decodeFields w with
  | .ok i => if i.wf then .ok i else .error .operand
  | .error e => .error e

/-- Decode a 32-bit word. -/
def decode (w : W32) : DecRes := decodeNat w.toNat

/-- The word of an instruction with its pairing bit P clear (R30 to R38), and 0 for a row that has no word. -/
def encodeNat : Instr → Nat
  | .nop => 0x01000000
  | .trap ra => 0x01000010 + ra.val * 16384
  | .eret => 0x01000020
  | .halt => 0x01000030
  | .uret => 0x01000040
  | .selftest rd ra => 0x01000050 + rd.val * 524288 + ra.val * 16384
  | .resume ra rb => 0x01000060 + ra.val * 16384 + rb.val * 512
  | .mfsr rd sr => 0x02000000 + rd.val * 524288 + sr.code
  | .mtsr ra sr => 0x03000000 + ra.val * 16384 + sr.code
  | .j off => 0x04000000 + off.toNat
  | .jl off => 0x05000000 + off.toNat
  | .jr ra => 0x06000000 + ra.val * 16384
  | .jlr rd ra => 0x06000010 + rd.val * 524288 + ra.val * 16384
  | .beq ra rb off => 0x07000000 + ra.val * 524288 + rb.val * 16384 + off.toNat
  | .bne ra rb off => 0x08000000 + ra.val * 524288 + rb.val * 16384 + off.toNat
  | .blt ra rb off => 0x09000000 + ra.val * 524288 + rb.val * 16384 + off.toNat
  | .bge ra rb off => 0x0A000000 + ra.val * 524288 + rb.val * 16384 + off.toNat
  | .bltu ra rb off => 0x0B000000 + ra.val * 524288 + rb.val * 16384 + off.toNat
  | .bgeu ra rb off => 0x0C000000 + ra.val * 524288 + rb.val * 16384 + off.toNat
  | .li rd imm => 0x0D000000 + rd.val * 524288 + imm.toNat
  | .lis rd ra imm => 0x0E000000 + rd.val * 524288 + ra.val * 16384 + imm.toNat
  | .lea rd imm => 0x0F000000 + rd.val * 524288 + imm.toNat
  | .ld rd ra sz sc imm => 0x10000000 + rd.val * 524288 + ra.val * 16384 + sz.code * 4096 + sc.code * 512 + imm.toNat
  | .lds rd ra sz sc imm => 0x11000000 + rd.val * 524288 + ra.val * 16384 + sz.code * 4096 + sc.code * 512 + imm.toNat
  | .st rd ra sz sc imm => 0x12000000 + rd.val * 524288 + ra.val * 16384 + sz.code * 4096 + sc.code * 512 + imm.toNat
  | .ldv rd ra rb sc => 0x13000000 + rd.val * 524288 + ra.val * 16384 + rb.val * 512 + sc.code
  | .ldvl rd ra sc => 0x13000010 + rd.val * 524288 + ra.val * 16384 + sc.code
  | .stv rd ra rb sc => 0x13000020 + rd.val * 524288 + ra.val * 16384 + rb.val * 512 + sc.code
  | .reclaim rd ra rb sc => 0x13000030 + rd.val * 524288 + ra.val * 16384 + rb.val * 512 + sc.code
  | .ldf rd ra sc => 0x14000000 + rd.val * 524288 + ra.val * 16384 + sc.code
  | .ldfe rd ra sc => 0x14000010 + rd.val * 524288 + ra.val * 16384 + sc.code
  | .stf ra rb sc => 0x14000020 + ra.val * 16384 + rb.val * 512 + sc.code
  | .ste ra sc => 0x14000030 + ra.val * 16384 + sc.code
  | .aadd rd ra rb dbl sc => 0x15000000 + rd.val * 524288 + ra.val * 16384 + rb.val * 512 + dbl.toNat * 8 + sc.code
  | .aand rd ra rb dbl sc => 0x15000010 + rd.val * 524288 + ra.val * 16384 + rb.val * 512 + dbl.toNat * 8 + sc.code
  | .aor rd ra rb dbl sc => 0x15000020 + rd.val * 524288 + ra.val * 16384 + rb.val * 512 + dbl.toNat * 8 + sc.code
  | .axor rd ra rb dbl sc => 0x15000030 + rd.val * 524288 + ra.val * 16384 + rb.val * 512 + dbl.toNat * 8 + sc.code
  | .amin rd ra rb dbl sc => 0x15000040 + rd.val * 524288 + ra.val * 16384 + rb.val * 512 + dbl.toNat * 8 + sc.code
  | .amax rd ra rb dbl sc => 0x15000050 + rd.val * 524288 + ra.val * 16384 + rb.val * 512 + dbl.toNat * 8 + sc.code
  | .aswap rd ra rb dbl sc => 0x15000060 + rd.val * 524288 + ra.val * 16384 + rb.val * 512 + dbl.toNat * 8 + sc.code
  | .acas rd ra rb dbl sc => 0x15000070 + rd.val * 524288 + ra.val * 16384 + rb.val * 512 + dbl.toNat * 8 + sc.code
  | .ldlk rd ra dbl sc => 0x15000080 + rd.val * 524288 + ra.val * 16384 + dbl.toNat * 8 + sc.code
  | .stul rd ra dbl sc => 0x15000090 + rd.val * 524288 + ra.val * 16384 + dbl.toNat * 8 + sc.code
  | .rowadd rd ra rb sc => 0x16000000 + rd.val * 524288 + ra.val * 16384 + rb.val * 512 + sc.code
  | .rowmax rd ra rb sc => 0x16000010 + rd.val * 524288 + ra.val * 16384 + rb.val * 512 + sc.code
  | .rowld rd ra rb sc => 0x16000020 + rd.val * 524288 + ra.val * 16384 + rb.val * 512 + sc.code
  | .rowst rd ra rb sc => 0x16000030 + rd.val * 524288 + ra.val * 16384 + rb.val * 512 + sc.code
  | .fence rd sc => 0x17000000 + rd.val * 524288 + sc.code
  | .vld vr ra rb pg sc => 0x18000000 + vr.val * 524288 + ra.val * 16384 + rb.val * 512 + pg.val * 64 + sc.code * 8
  | .vst vr ra rb pg sc => 0x19000000 + vr.val * 524288 + ra.val * 16384 + rb.val * 512 + pg.val * 64 + sc.code * 8
  | .vlds vr ra rb pg sc => 0x1A000000 + vr.val * 524288 + ra.val * 16384 + rb.val * 512 + pg.val * 64 + sc.code * 8
  | .vsts vr ra rb pg sc => 0x1A000001 + vr.val * 524288 + ra.val * 16384 + rb.val * 512 + pg.val * 64 + sc.code * 8
  | .vldx vr ra rb pg sc => 0x1A000002 + vr.val * 524288 + ra.val * 16384 + rb.val * 512 + pg.val * 64 + sc.code * 8
  | .vstx vr ra rb pg sc => 0x1A000003 + vr.val * 524288 + ra.val * 16384 + rb.val * 512 + pg.val * 64 + sc.code * 8
  | .vstq vr ra rb => 0x1B000000 + vr.val * 524288 + ra.val * 16384 + rb.val * 512
  | .vldv vr ra rb pg sc pol => 0x1C000000 + vr.val * 524288 + ra.val * 16384 + rb.val * 512 + pg.val * 64 + sc.code * 8 + pol.code
  | .hvld rd xs sc => 0x1D000000 + rd.val * 2097152 + xs.val * 1024 + sc.code
  | .hvldB rd xs sc => 0x1D000008 + rd.val * 2097152 + xs.val * 1024 + sc.code
  | .hvst ra xs sc => 0x1D000010 + ra.val * 262144 + xs.val * 1024 + sc.code
  | .hvstB ra xs sc => 0x1D000018 + ra.val * 262144 + xs.val * 1024 + sc.code
  | .hvmemst ra xs => 0x1D000020 + ra.val * 262144 + xs.val * 1024
  | .strm ra rb => 0x1E000000 + ra.val * 16384 + rb.val * 512
  | .strmoff rb => 0x1E000010 + rb.val * 512
  | .strmq rd rb => 0x1E000020 + rd.val * 524288 + rb.val * 512
  | .copy rd ra => 0x1F000000 + rd.val * 524288 + ra.val * 16384
  | .gather rd ra => 0x1F000010 + rd.val * 524288 + ra.val * 16384
  | .scatter rd ra mode => 0x1F000020 + rd.val * 524288 + ra.val * 16384 + mode.code
  | .cstat rd ra => 0x1F000030 + rd.val * 524288 + ra.val * 16384
  | .sendmsg ra rb => 0x20000000 + ra.val * 16384 + rb.val * 512
  | .waitmsg rd ra => 0x20000010 + rd.val * 524288 + ra.val * 16384
  | .pollmsg rd ra => 0x20000020 + rd.val * 524288 + ra.val * 16384
  | .uien ra => 0x20000030 + ra.val * 16384
  | .taskw rd ra rb => 0x21000000 + rd.val * 524288 + ra.val * 16384 + rb.val * 512
  | .done => 0x21000010
  | .wrc rd ra rb n => 0x21000020 + rd.val * 524288 + ra.val * 16384 + rb.val * 512 + n.val
  | .wrcC rd ra rb n => 0x21000030 + rd.val * 524288 + ra.val * 16384 + rb.val * 512 + n.val
  | .ctrrd rd n => 0x21000040 + rd.val * 524288 + n.val
  | .ctrset ra n => 0x21000050 + ra.val * 16384 + n.val
  | .susp rd ra rb op => 0x22000000 + rd.val * 524288 + ra.val * 16384 + rb.val * 512 + op.code
  | .force rd ra => 0x22000010 + rd.val * 524288 + ra.val * 16384
  | .spark rd ra => 0x22000020 + rd.val * 524288 + ra.val * 16384
  | .mkval rd ra rb => 0x22000030 + rd.val * 524288 + ra.val * 16384 + rb.val * 512
  | .peek rd ra => 0x22000040 + rd.val * 524288 + ra.val * 16384
  | .keep ra => 0x22000050 + ra.val * 16384
  | .drop ra => 0x22000060 + ra.val * 16384
  | .budget rd ra mode => 0x22000070 + rd.val * 524288 + ra.val * 16384 + mode.code
  | .gjoin rd ra => 0x23000000 + rd.val * 524288 + ra.val * 16384
  | .gleave rd ra => 0x23000010 + rd.val * 524288 + ra.val * 16384
  | .gbar rd ra => 0x23000020 + rd.val * 524288 + ra.val * 16384
  | .follow ra rb => 0x23000030 + ra.val * 16384 + rb.val * 512
  | .syncall rd => 0x23000040 + rd.val * 524288
  | .tree rd ra rb op => 0x23000050 + rd.val * 524288 + ra.val * 16384 + rb.val * 512 + op.code
  | .phase kind => 0x24000000 + kind.code
  | .sendat vr peer cyc => 0x24400000 + vr.val * 131072 + peer.val * 16384 + cyc.toNat
  | .recvat vr peer cyc => 0x24800000 + vr.val * 131072 + peer.val * 16384 + cyc.toNat
  | .viewreg rd ra => 0x25000000 + rd.val * 524288 + ra.val * 16384
  | .viewdrop rd ra => 0x25000010 + rd.val * 524288 + ra.val * 16384
  | .viewst rd ra rb => 0x25000020 + rd.val * 524288 + ra.val * 16384 + rb.val * 512
  | .kvslot rd ra rb => 0x26000000 + rd.val * 524288 + ra.val * 16384 + rb.val * 512
  | .kvapp rd ra rb => 0x26000010 + rd.val * 524288 + ra.val * 16384 + rb.val * 512
  | .kvtrunc rd ra rb => 0x26000020 + rd.val * 524288 + ra.val * 16384 + rb.val * 512
  | .kvevict rd ra rb => 0x26000030 + rd.val * 524288 + ra.val * 16384 + rb.val * 512
  | .rmapset ra rb => 0x26000040 + ra.val * 16384 + rb.val * 512
  | .tlbinv ra rb => 0x26000050 + ra.val * 16384 + rb.val * 512
  | .gqpush vr ra rb => 0x27000000 + vr.val * 524288 + ra.val * 16384 + rb.val * 512
  | .gqpop rd ra vr => 0x27000010 + rd.val * 524288 + ra.val * 16384 + vr.val * 512
  | .gqwin rd ra => 0x27000020 + rd.val * 524288 + ra.val * 16384
  | .cepost rd ra => 0x28000000 + rd.val * 524288 + ra.val * 16384
  | .cearb rd ra => 0x28000010 + rd.val * 524288 + ra.val * 16384
  | .region rd ra => 0x29000000 + rd.val * 524288 + ra.val * 16384
  | .quiet rd => 0x29000010 + rd.val * 524288
  | .allot ra hv => 0x2A000000 + ra.val * 16384 + hv.toNat
  | .live ra => 0x2A000010 + ra.val * 16384
  | .anop => 0x40000000
  | .add rd ra rb => 0x41000000 + rd.val * 524288 + ra.val * 16384 + rb.val * 512
  | .sub rd ra rb => 0x41000001 + rd.val * 524288 + ra.val * 16384 + rb.val * 512
  | .and rd ra rb => 0x41000002 + rd.val * 524288 + ra.val * 16384 + rb.val * 512
  | .or rd ra rb => 0x41000003 + rd.val * 524288 + ra.val * 16384 + rb.val * 512
  | .xor rd ra rb => 0x41000004 + rd.val * 524288 + ra.val * 16384 + rb.val * 512
  | .sll rd ra rb => 0x41000005 + rd.val * 524288 + ra.val * 16384 + rb.val * 512
  | .srl rd ra rb => 0x41000006 + rd.val * 524288 + ra.val * 16384 + rb.val * 512
  | .sra rd ra rb => 0x41000007 + rd.val * 524288 + ra.val * 16384 + rb.val * 512
  | .mul rd ra rb => 0x41000008 + rd.val * 524288 + ra.val * 16384 + rb.val * 512
  | .mulh rd ra rb => 0x41000009 + rd.val * 524288 + ra.val * 16384 + rb.val * 512
  | .mulhu rd ra rb => 0x4100000A + rd.val * 524288 + ra.val * 16384 + rb.val * 512
  | .div rd ra rb => 0x4100000B + rd.val * 524288 + ra.val * 16384 + rb.val * 512
  | .divu rd ra rb => 0x4100000C + rd.val * 524288 + ra.val * 16384 + rb.val * 512
  | .rem rd ra rb => 0x4100000D + rd.val * 524288 + ra.val * 16384 + rb.val * 512
  | .remu rd ra rb => 0x4100000E + rd.val * 524288 + ra.val * 16384 + rb.val * 512
  | .min rd ra rb => 0x4100000F + rd.val * 524288 + ra.val * 16384 + rb.val * 512
  | .max rd ra rb => 0x41000010 + rd.val * 524288 + ra.val * 16384 + rb.val * 512
  | .minu rd ra rb => 0x41000011 + rd.val * 524288 + ra.val * 16384 + rb.val * 512
  | .maxu rd ra rb => 0x41000012 + rd.val * 524288 + ra.val * 16384 + rb.val * 512
  | .slt rd ra rb => 0x41000013 + rd.val * 524288 + ra.val * 16384 + rb.val * 512
  | .sltu rd ra rb => 0x41000014 + rd.val * 524288 + ra.val * 16384 + rb.val * 512
  | .clz rd ra => 0x41000015 + rd.val * 524288 + ra.val * 16384
  | .ctz rd ra => 0x41000016 + rd.val * 524288 + ra.val * 16384
  | .popc rd ra => 0x41000017 + rd.val * 524288 + ra.val * 16384
  | .addi rd ra imm => 0x42000000 + rd.val * 524288 + ra.val * 16384 + imm.toNat
  | .andi rd ra imm => 0x43000000 + rd.val * 524288 + ra.val * 16384 + imm.toNat
  | .ori rd ra imm => 0x44000000 + rd.val * 524288 + ra.val * 16384 + imm.toNat
  | .xori rd ra imm => 0x45000000 + rd.val * 524288 + ra.val * 16384 + imm.toNat
  | .slli rd ra imm => 0x46000000 + rd.val * 524288 + ra.val * 16384 + imm.toNat
  | .srli rd ra imm => 0x47000000 + rd.val * 524288 + ra.val * 16384 + imm.toNat
  | .srai rd ra imm => 0x48000000 + rd.val * 524288 + ra.val * 16384 + imm.toNat
  | .slti rd ra imm => 0x49000000 + rd.val * 524288 + ra.val * 16384 + imm.toNat
  | .vadd rd ra rb pg ft => 0x50000000 + rd.val * 524288 + ra.val * 16384 + rb.val * 512 + pg.val * 64 + ft.code * 8
  | .vsub rd ra rb pg ft => 0x50000001 + rd.val * 524288 + ra.val * 16384 + rb.val * 512 + pg.val * 64 + ft.code * 8
  | .vmul rd ra rb pg ft => 0x50000002 + rd.val * 524288 + ra.val * 16384 + rb.val * 512 + pg.val * 64 + ft.code * 8
  | .vmulz rd ra rb pg ft => 0x50000003 + rd.val * 524288 + ra.val * 16384 + rb.val * 512 + pg.val * 64 + ft.code * 8
  | .vmin rd ra rb pg ft => 0x50000004 + rd.val * 524288 + ra.val * 16384 + rb.val * 512 + pg.val * 64 + ft.code * 8
  | .vmax rd ra rb pg ft => 0x50000005 + rd.val * 524288 + ra.val * 16384 + rb.val * 512 + pg.val * 64 + ft.code * 8
  | .vfma rd ra rb pg ft => 0x50000006 + rd.val * 524288 + ra.val * 16384 + rb.val * 512 + pg.val * 64 + ft.code * 8
  | .vfmaz rd ra rb pg ft => 0x50000007 + rd.val * 524288 + ra.val * 16384 + rb.val * 512 + pg.val * 64 + ft.code * 8
  | .vaddX rd ra rb pg ft => 0x51000000 + rd.val * 524288 + ra.val * 16384 + rb.val * 512 + pg.val * 64 + ft.code * 8
  | .vsubX rd ra rb pg ft => 0x51000001 + rd.val * 524288 + ra.val * 16384 + rb.val * 512 + pg.val * 64 + ft.code * 8
  | .vmulX rd ra rb pg ft => 0x51000002 + rd.val * 524288 + ra.val * 16384 + rb.val * 512 + pg.val * 64 + ft.code * 8
  | .vmulzX rd ra rb pg ft => 0x51000003 + rd.val * 524288 + ra.val * 16384 + rb.val * 512 + pg.val * 64 + ft.code * 8
  | .vminX rd ra rb pg ft => 0x51000004 + rd.val * 524288 + ra.val * 16384 + rb.val * 512 + pg.val * 64 + ft.code * 8
  | .vmaxX rd ra rb pg ft => 0x51000005 + rd.val * 524288 + ra.val * 16384 + rb.val * 512 + pg.val * 64 + ft.code * 8
  | .vfmaX rd ra rb pg ft => 0x51000006 + rd.val * 524288 + ra.val * 16384 + rb.val * 512 + pg.val * 64 + ft.code * 8
  | .vfmazX rd ra rb pg ft => 0x51000007 + rd.val * 524288 + ra.val * 16384 + rb.val * 512 + pg.val * 64 + ft.code * 8
  | .vand rd ra rb pg ft => 0x52000000 + rd.val * 524288 + ra.val * 16384 + rb.val * 512 + pg.val * 64 + ft.code * 8
  | .vor rd ra rb pg ft => 0x52000001 + rd.val * 524288 + ra.val * 16384 + rb.val * 512 + pg.val * 64 + ft.code * 8
  | .vxor rd ra rb pg ft => 0x52000002 + rd.val * 524288 + ra.val * 16384 + rb.val * 512 + pg.val * 64 + ft.code * 8
  | .vandn rd ra rb pg ft => 0x52000003 + rd.val * 524288 + ra.val * 16384 + rb.val * 512 + pg.val * 64 + ft.code * 8
  | .vshl rd ra rb pg ft => 0x52000004 + rd.val * 524288 + ra.val * 16384 + rb.val * 512 + pg.val * 64 + ft.code * 8
  | .vshr rd ra rb pg ft => 0x52000005 + rd.val * 524288 + ra.val * 16384 + rb.val * 512 + pg.val * 64 + ft.code * 8
  | .vsar rd ra rb pg ft => 0x52000006 + rd.val * 524288 + ra.val * 16384 + rb.val * 512 + pg.val * 64 + ft.code * 8
  | .vrotl rd ra rb pg ft => 0x52000007 + rd.val * 524288 + ra.val * 16384 + rb.val * 512 + pg.val * 64 + ft.code * 8
  | .vceq rd ra rb pg ft => 0x53000000 + rd.val * 524288 + ra.val * 16384 + rb.val * 512 + pg.val * 64 + ft.code * 8
  | .vcne rd ra rb pg ft => 0x53000001 + rd.val * 524288 + ra.val * 16384 + rb.val * 512 + pg.val * 64 + ft.code * 8
  | .vclt rd ra rb pg ft => 0x53000002 + rd.val * 524288 + ra.val * 16384 + rb.val * 512 + pg.val * 64 + ft.code * 8
  | .vcle rd ra rb pg ft => 0x53000003 + rd.val * 524288 + ra.val * 16384 + rb.val * 512 + pg.val * 64 + ft.code * 8
  | .vcgt rd ra rb pg ft => 0x53000004 + rd.val * 524288 + ra.val * 16384 + rb.val * 512 + pg.val * 64 + ft.code * 8
  | .vcge rd ra rb pg ft => 0x53000005 + rd.val * 524288 + ra.val * 16384 + rb.val * 512 + pg.val * 64 + ft.code * 8
  | .vcnan rd ra pg ft => 0x53000006 + rd.val * 524288 + ra.val * 16384 + pg.val * 64 + ft.code * 8
  | .vcinf rd ra pg ft => 0x53000007 + rd.val * 524288 + ra.val * 16384 + pg.val * 64 + ft.code * 8
  | .vmov rd ra pg => 0x54000000 + rd.val * 524288 + ra.val * 16384 + pg.val * 64
  | .vsel rd ra rb pg => 0x54000001 + rd.val * 524288 + ra.val * 16384 + rb.val * 512 + pg.val * 64
  | .vbcast rd rb pg ft => 0x54000002 + rd.val * 524288 + rb.val * 512 + pg.val * 64 + ft.code * 8
  | .pand rd ra rb => 0x54000003 + rd.val * 524288 + ra.val * 16384 + rb.val * 512
  | .por rd ra rb => 0x54000004 + rd.val * 524288 + ra.val * 16384 + rb.val * 512
  | .pxor rd ra rb => 0x54000005 + rd.val * 524288 + ra.val * 16384 + rb.val * 512
  | .pnot rd ra => 0x54000006 + rd.val * 524288 + ra.val * 16384
  | .vcvt rd ra rtz fd pg ft => 0x55000000 + rd.val * 524288 + ra.val * 16384 + rtz.toNat * 4096 + fd.code * 512 + pg.val * 64 + ft.code * 8
  | .vrsum rd ra pg ft => 0x56000000 + rd.val * 524288 + ra.val * 16384 + pg.val * 64 + ft.code * 8
  | .vrmax rd ra pg ft => 0x56000001 + rd.val * 524288 + ra.val * 16384 + pg.val * 64 + ft.code * 8
  | .vrmin rd ra pg ft => 0x56000002 + rd.val * 524288 + ra.val * 16384 + pg.val * 64 + ft.code * 8
  | .vramax rd ra pg ft => 0x56000003 + rd.val * 524288 + ra.val * 16384 + pg.val * 64 + ft.code * 8
  | .vrssq rd ra pg ft => 0x56000004 + rd.val * 524288 + ra.val * 16384 + pg.val * 64 + ft.code * 8
  | .vshuf rd ra rb pg ft => 0x57000000 + rd.val * 524288 + ra.val * 16384 + rb.val * 512 + pg.val * 64 + ft.code * 8
  | .vrotr rd ra rb pg ft => 0x57000001 + rd.val * 524288 + ra.val * 16384 + rb.val * 512 + pg.val * 64 + ft.code * 8
  | .vslup rd ra rb pg ft => 0x57000002 + rd.val * 524288 + ra.val * 16384 + rb.val * 512 + pg.val * 64 + ft.code * 8
  | .vsldn rd ra rb pg ft => 0x57000003 + rd.val * 524288 + ra.val * 16384 + rb.val * 512 + pg.val * 64 + ft.code * 8
  | .vzip rd ra rb pg ft => 0x57000004 + rd.val * 524288 + ra.val * 16384 + rb.val * 512 + pg.val * 64 + ft.code * 8
  | .vunzip rd ra rb pg ft => 0x57000005 + rd.val * 524288 + ra.val * 16384 + rb.val * 512 + pg.val * 64 + ft.code * 8
  | .vexp2 rd ra pg ft => 0x58000000 + rd.val * 524288 + ra.val * 16384 + pg.val * 64 + ft.code * 8
  | .vlog2 rd ra pg ft => 0x58000001 + rd.val * 524288 + ra.val * 16384 + pg.val * 64 + ft.code * 8
  | .vrcp rd ra pg ft => 0x58000002 + rd.val * 524288 + ra.val * 16384 + pg.val * 64 + ft.code * 8
  | .vrsq rd ra pg ft => 0x58000003 + rd.val * 524288 + ra.val * 16384 + pg.val * 64 + ft.code * 8
  | .vexp rd ra pg ft => 0x58000004 + rd.val * 524288 + ra.val * 16384 + pg.val * 64 + ft.code * 8
  | .vtanh rd ra pg ft => 0x58000005 + rd.val * 524288 + ra.val * 16384 + pg.val * 64 + ft.code * 8
  | .vsilu rd ra pg ft => 0x58000006 + rd.val * 524288 + ra.val * 16384 + pg.val * 64 + ft.code * 8
  | .vstats fin ra rb pg ft => 0x59000000 + fin.toNat * 524288 + ra.val * 16384 + rb.val * 512 + pg.val * 64 + ft.code * 8
  | .vsmx rd ra rb pg ft => 0x59000001 + rd.val * 524288 + ra.val * 16384 + rb.val * 512 + pg.val * 64 + ft.code * 8
  | .vlse rd rb => 0x59000002 + rd.val * 524288 + rb.val * 512
  | .sbget rd rb pg => 0x59000003 + rd.val * 524288 + rb.val * 512 + pg.val * 64
  | .sbset ra rb pg => 0x59000004 + ra.val * 16384 + rb.val * 512 + pg.val * 64
  | .vnrd rd ra pd pg k => 0x5A000000 + rd.val * 524288 + ra.val * 16384 + pd.val * 512 + pg.val * 64 + k.code * 8
  | .vloop ra len => 0x5B000000 + ra.val * 16384 + len.val * 512
  | .vsync => 0x5B000001
  | .vseqst rd => 0x5B000002 + rd.val * 524288
  | .vext rd ra rb ft => 0x5C000000 + rd.val * 524288 + ra.val * 16384 + rb.val * 512 + ft.code * 8
  | .vins rd ra rb ft => 0x5C000001 + rd.val * 524288 + ra.val * 16384 + rb.val * 512 + ft.code * 8
  | .viota rd pg ft => 0x5C000002 + rd.val * 524288 + pg.val * 64 + ft.code * 8
  | .vrrd rd ra rb pg len => 0x5D000000 + rd.val * 524288 + ra.val * 16384 + rb.val * 512 + pg.val * 64 + len.val * 8
  | .vrwr rd ra rb pg len => 0x5D000001 + rd.val * 524288 + ra.val * 16384 + rb.val * 512 + pg.val * 64 + len.val * 8
  | .hvbind rd ra rb => 0x60000000 + rd.val * 2097152 + ra.val * 262144 + rb.val * 32768
  | .hvperm rd ra k2 xs k0 => 0x60000010 + rd.val * 2097152 + ra.val * 262144 + k2.val * 32768 + xs.val * 1024 + k0.val
  | .hvpermX rd ra xs => 0x60000018 + rd.val * 2097152 + ra.val * 262144 + xs.val * 1024
  | .hvbund rd ra xs neg => 0x60000020 + rd.val * 2097152 + ra.val * 262144 + xs.val * 1024 + neg.toNat
  | .hvthr rd ra => 0x60000030 + rd.val * 2097152 + ra.val * 262144
  | .hvclr rd => 0x60000040 + rd.val * 2097152
  | .hvclrH rd => 0x60000041 + rd.val * 2097152
  | .hvdist ra rb xs => 0x60000050 + ra.val * 262144 + rb.val * 32768 + xs.val * 1024
  | .hvnear ra xs => 0x60000060 + ra.val * 262144 + xs.val * 1024
  | .hvnear2 ra xs => 0x60000070 + ra.val * 262144 + xs.val * 1024
  | .hvmov rd ra => 0x60000080 + rd.val * 2097152 + ra.val * 262144
  | .hvmovLfsr rd => 0x60000081 + rd.val * 2097152
  | .hvmovSeed ra => 0x60000082 + ra.val * 262144
  | .userInterrupt => 0
  | .registerFill _ => 0
  | .loadDelivery => 0
  | .streamBlockRead _ => 0
  | .entryLaunch _ _ => 0
  | .wrcArrival _ _ _ _ => 0
  | .user _ _ => 0
  | .resumeMessage _ _ => 0
  | .lockRetry _ => 0
  | .handleHomeCheck _ _ _ => 0
  | .evaluationCompletion _ _ => 0
  | .hready _ _ _ _ => 0
  | .sparkConversion _ => 0
  | .waveBoundary => 0
  | .deadlock _ _ => 0
  | .gbarRelease _ _ => 0
  | .epochBoundary _ => 0
  | .exchangeTransfer _ _ => 0
  | .vnrdMatch _ _ => 0
  | .vnrdTimeout _ => 0
  | .itemMemorySearch _ => 0
  | .imctlWrite _ => 0
  | .syncallRelease _ => 0
  | .treeRoundCompletion _ _ => 0
  | .copyCompletion _ _ => 0
  | .engineFault _ _ _ _ _ => 0
  | .mma _ => 0
  | .mmag _ => 0
  | .mzero _ => 0
  | .mldacc _ => 0
  | .mstacc _ => 0
  | .mfmt _ => 0
  | .mswap _ => 0
  | .mtable _ => 0
  | .mxpose _ => 0
  | .msig _ => 0
  | .mops _ => 0
  | .matrixCompletion _ => 0
  | .derive _ _ _ _ => 0
  | .publication _ _ _ _ => 0
  | .translationWalk _ _ _ => 0
  | .collectiveStart _ _ _ => 0
  | .ringStep _ _ _ _ => 0
  | .collectiveCompletion _ _ _ => 0
  | .portError _ => 0
  | .linkDeath _ => 0
  | .correctedError _ _ => 0
  | .uncorrectedError _ => 0
  | .patrolScrub _ _ => 0
  | .testdone _ _ _ _ => 0
  | .clampSample _ _ => 0
  | .clampRecovery _ => 0
  | .thermalAlert _ _ => 0
  | .thermalHold _ => 0
  | .thermalHoldEnd _ _ => 0
  | .criticalTemperature _ _ => 0
  | .clockHoldEnd _ => 0
  | .powerStateExit _ _ => 0
  | .die => 0
  | .clusters => 0
  | .optcores => 0
  | .limits => 0
  | .attest => 0
  | .eventring => 0
  | .pcreate => 0
  | .presize => 0
  | .pretire => 0
  | .preset => 0
  | .pdestroy => 0
  | .ptune => 0
  | .hostWrite _ _ _ => 0
  | .hostRead _ => 0
  | .apertureBaseWrite _ => 0
  | .registerWrite _ _ => 0
  | .launchDoorbell _ _ _ => 0
  | .placeTask _ => 0
  | .packetReject _ _ => 0
  | .preemptHalt _ => 0
  | .launchCompletion _ => 0
  | .watchdogExpiry _ => 0
  | .partitionReset _ _ => 0
  | .boot => 0
  | .accessPerformed => 0
  | .homeAnswer _ => 0
  | .engineRowMove _ _ => 0
  | .endpointLinkTraining _ _ _ => 0

/-- The 32-bit word of an instruction, P clear. -/
def encode (i : Instr) : W32 := BitVec.ofNat 32 (encodeNat i)

/-- The word of four bytes, the lowest address first (R4, R30). -/
def wordOfBytes : List Byte → Option W32
  | [b0, b1, b2, b3] =>
    some (BitVec.ofNat 32 (b0.toNat + b1.toNat * 2 ^ 8 + b2.toNat * 2 ^ 16 + b3.toNat * 2 ^ 24))
  | _ => none

/-- The bytes of a word, the lowest address first (R4). -/
def bytesOfWord (w : Nat) : List Byte :=
  [BitVec.ofNat 8 w, BitVec.ofNat 8 (w / 2 ^ 8), BitVec.ofNat 8 (w / 2 ^ 16), BitVec.ofNat 8 (w / 2 ^ 24)]

/-- Decode the four bytes of a lone word. A word with P set is no lone word (R31): it is refused. -/
def decodeBytes (bs : List Byte) : DecRes :=
  match wordOfBytes bs with
  | some w => if w.toNat / 2 ^ 31 = 1 then .error .reserved else decode w
  | none => .error .reserved

/-- The host's question: what the decoder reads from an instruction numbered as the opcode table numbers it. Every
instruction of Odlos is one 32-bit word (R30); it is stored as R4 says and decoded from those bytes. -/
def decodeTableWord (nbits w : Nat) : Option Instr :=
  match decodeBytes (bytesOfWord (w % 2 ^ nbits)) with
  | .ok i => some i
  | .error _ => none

end Sys2Proof
end

