-- ==== Sys2Proof/Machine/Event.lean ====
section
/-! DEFINITION. The rows of the opcode table that carry no word, as data: what a step may be scheduled to run beside the
instruction words. Each is the constructor of Instr with the same name. -/

namespace Sys2Proof.Machine

/-- A clock that counts cycles (R6): of a die, or the cycles in which a core issues, which throttling, a clock change and
a power state hold (R321, R323, R324). -/
inductive Clk
  | die (d : Nat)
  | issue (core : Nat)
deriving DecidableEq, Repr

/-- An event of the machine: the command or event row of the opcode table with the same name. -/
inductive Event
  /-- USER_INTERRUPT (R79). -/
  | userInterrupt
  /-- REGISTER_FILL (R26). -/
  | registerFill (n : Reg)
  /-- LOAD_DELIVERY (R180). -/
  | loadDelivery
  /-- STREAM_BLOCK_READ (R186). -/
  | streamBlockRead (n : Reg)
  /-- ENTRY_LAUNCH (R11). -/
  | entryLaunch (core : Nat) (slot : Fin 16)
  /-- WRC_ARRIVAL (R18). -/
  | wrcArrival (core : Nat) (ctr : Fin 16) (delta : W32) (src : Nat)
  /-- USER (R196). -/
  | user (core : Nat) (msg : W64)
  /-- RESUME_MESSAGE (R66). -/
  | resumeMessage (core : Nat) (payload : BitVec 48)
  /-- LOCK_RETRY (R214). -/
  | lockRetry (tid : Nat)
  /-- HANDLE_HOME_CHECK (R90). -/
  | handleHomeCheck (tid : Nat) (h : W64) (keep : Bool)
  /-- EVALUATION_COMPLETION (R94). -/
  | evaluationCompletion (part idx : Nat)
  /-- HREADY (R94). -/
  | hready (tid : Nat) (payload : BitVec 48) (cause : BitVec 8) (addr : W64)
  /-- SPARK_CONVERSION (R96). -/
  | sparkConversion (cluster : Nat)
  /-- WAVE_BOUNDARY (R99). -/
  | waveBoundary
  /-- DEADLOCK (R101). -/
  | deadlock (part : Nat) (payload : BitVec 48)
  /-- GBAR_RELEASE (R207). -/
  | gbarRelease (cluster : Nat) (g : Fin 16)
  /-- EPOCH_BOUNDARY (R211). -/
  | epochBoundary (cluster : Nat)
  /-- EXCHANGE_TRANSFER (R212). -/
  | exchangeTransfer (tid : Nat) (peer : Fin 8)
  /-- VNRD_MATCH (R150). -/
  | vnrdMatch (a b : Nat)
  /-- VNRD_TIMEOUT (R150). -/
  | vnrdTimeout (tid : Nat)
  /-- ITEM_MEMORY_SEARCH (R171). -/
  | itemMemorySearch (cluster : Nat)
  /-- IMCTL_WRITE (R168). -/
  | imctlWrite (v : W64)
  /-- SYNCALL_RELEASE (R358). -/
  | syncallRelease (launch : Nat)
  /-- TREE_ROUND_COMPLETION (R359). -/
  | treeRoundCompletion (launch round : Nat)
  /-- COPY_COMPLETION (R191). -/
  | copyCompletion (core tag : Nat)
  /-- ENGINE_FAULT (R193). -/
  | engineFault (core tag : Nat) (write : Bool) (va : W64) (cause : BitVec 8)
  /-- MMA (R233). -/
  | mma (core : Nat)
  /-- MMAG (R234). -/
  | mmag (core : Nat)
  /-- MZERO (R235). -/
  | mzero (core : Nat)
  /-- MLDACC (R235). -/
  | mldacc (core : Nat)
  /-- MSTACC (R236). -/
  | mstacc (core : Nat)
  /-- MFMT (R229). -/
  | mfmt (core : Nat)
  /-- MSWAP (R237). -/
  | mswap (core : Nat)
  /-- MTABLE (R238). -/
  | mtable (core : Nat)
  /-- MXPOSE (R238). -/
  | mxpose (core : Nat)
  /-- MSIG (R239). -/
  | msig (core : Nat)
  /-- MOPS (R240). -/
  | mops (core : Nat)
  /-- MATRIX_COMPLETION (R240). -/
  | matrixCompletion (core : Nat)
  /-- DERIVE (R279). -/
  | derive (part id row blk : Nat)
  /-- PUBLICATION (R279). -/
  | publication (part id row blk : Nat)
  /-- TRANSLATION_WALK (R286). -/
  | translationWalk (core part : Nat) (va : W64)
  /-- COLLECTIVE_START (R372). -/
  | collectiveStart (die ring : Nat) (p2p : Bool)
  /-- RING_STEP (R377). -/
  | ringStep (die ring : Nat) (p2p : Bool) (arrived : List W32)
  /-- COLLECTIVE_COMPLETION (R375). -/
  | collectiveCompletion (die ring : Nat) (p2p : Bool)
  /-- PORT_ERROR (R367). -/
  | portError (port : Nat)
  /-- LINK_DEATH (R379). -/
  | linkDeath (port : Nat)
  /-- CORRECTED_ERROR (R328). -/
  | correctedError (cls idx : Nat)
  /-- UNCORRECTED_ERROR (R326). -/
  | uncorrectedError (pa : Nat)
  /-- PATROL_SCRUB (R326). -/
  | patrolScrub (pa : Nat) (found : ScrubFound)
  /-- TESTDONE (R328). -/
  | testdone (cls idx : Nat) (run1 run2 : Bool)
  /-- CLAMP_SAMPLE (R324). -/
  | clampSample (die amps : Nat)
  /-- CLAMP_RECOVERY (R324). -/
  | clampRecovery (die : Nat)
  /-- THERMAL_ALERT (R325). -/
  | thermalAlert (die temp : Nat)
  /-- THERMAL_HOLD (R325). -/
  | thermalHold (die : Nat)
  /-- THERMAL_HOLD_END (R325). -/
  | thermalHoldEnd (die temp : Nat)
  /-- CRITICAL_TEMPERATURE (R325). -/
  | criticalTemperature (die temp : Nat)
  /-- CLOCK_HOLD_END (R323). -/
  | clockHoldEnd (die : Nat)
  /-- POWER_STATE_EXIT (R321). -/
  | powerStateExit (cls idx : Nat)
  /-- DIE (R321). -/
  | die
  /-- CLUSTERS (R321). -/
  | clusters
  /-- OPTCORES (R321). -/
  | optcores
  /-- LIMITS (R324). -/
  | limits
  /-- ATTEST (R335). -/
  | attest
  /-- EVENTRING (R331). -/
  | eventring
  /-- PCREATE (R337). -/
  | pcreate
  /-- PRESIZE (R350). -/
  | presize
  /-- PRETIRE (R350). -/
  | pretire
  /-- PRESET (R355). -/
  | preset
  /-- PDESTROY (R337). -/
  | pdestroy
  /-- PTUNE (R337). -/
  | ptune
  /-- HOST_WRITE (R319). -/
  | hostWrite (ep : Fin 2) (off : Nat) (data : List Byte)
  /-- HOST_READ (R319). -/
  | hostRead (off : Nat)
  /-- APERTURE_BASE_WRITE (R318). -/
  | apertureBaseWrite (v : W64)
  /-- REGISTER_WRITE (R331). -/
  | registerWrite (off : Nat) (v : W64)
  /-- LAUNCH_DOORBELL (R340). -/
  | launchDoorbell (part : Nat) (q : Fin 16) (tail : W64)
  /-- PLACE_TASK (R345). -/
  | placeTask (part : Nat)
  /-- PACKET_REJECT (R342). -/
  | packetReject (part : Nat) (q : Fin 16)
  /-- PREEMPT_HALT (R349). -/
  | preemptHalt (core : Nat)
  /-- LAUNCH_COMPLETION (R348). -/
  | launchCompletion (launch : Nat)
  /-- WATCHDOG_EXPIRY (R354). -/
  | watchdogExpiry (part : Nat)
  /-- PARTITION_RESET (R355). -/
  | partitionReset (part cause : Nat)
  /-- BOOT (R333). -/
  | boot
  /-- ACCESS_PERFORMED (R384). -/
  | accessPerformed
  /-- HOME_ANSWER (R265). -/
  | homeAnswer (tid : Nat)
  /-- ENGINE_ROW_MOVE (R190). -/
  | engineRowMove (core tag : Nat)
  /-- ENDPOINT_LINK_TRAINING (R318). -/
  | endpointLinkTraining (ep : Fin 2) (x16 : Bool) (rate : Nat)
deriving DecidableEq, Repr

end Sys2Proof.Machine
end

