-- ==== Sys2Proof/Machine/State.lean ====
section
/-! DEFINITION. The state of the machine as plain data, the reasons a step can stop, and the state after reset. -/

namespace Sys2Proof.Machine

/-- Why the machine stops with a fault. -/
inductive Fault
  /-- The list of tasks to issue names number 0, which is no task. Raised by the step alone, in a state that no run
  reaches. Safe: the machine stops where the hardware has nothing to run. -/
  | noTask
deriving DecidableEq, Repr

/-- Why the machine refuses an instruction. -/
inductive Refusal
  /-- The instruction has no meaning in this model yet; raised by an arm of exec. Safe: the run stops. -/
  | notModelled (mnemonic : String)
deriving DecidableEq, Repr

/-- A trap cause (R71). -/
inductive Cause
  | illegal | allot | align | xlate | access | nonfinite | selfdep | budget | version | dslot | window | trapi
  | memerr | matrix | demand | priv | gqtype | viewfault | phase | handle
deriving DecidableEq, Repr

/-- The code of a cause (R71). -/
def Cause.code : Cause → Nat
  | .illegal => 0x01 | .allot => 0x02 | .align => 0x03 | .xlate => 0x04 | .access => 0x05 | .nonfinite => 0x06
  | .selfdep => 0x07 | .budget => 0x08 | .version => 0x09 | .dslot => 0x0A | .window => 0x0B | .trapi => 0x0C
  | .memerr => 0x0D | .matrix => 0x0E | .demand => 0x0F | .priv => 0x10 | .gqtype => 0x11 | .viewfault => 0x12
  | .phase => 0x13 | .handle => 0x14

/-- A trap to be taken: its cause and its TVAL. -/
abbrev Trap := Cause × W64

/-- A range whose contents have been lost or cleared: an unlisted address in it reads as the free byte that the key gives for
its place counted from `src`, or, with key 0, as blank memory (R321, R82). -/
structure Fill where
  base : Nat
  size : Nat
  key : Nat
  src : Nat
deriving DecidableEq, Repr
/-- Memory: bytes of the 48-bit physical space, keys rising, no entry equal to the byte an unlisted address
reads as, which the ranges name that have been lost or cleared, the latest first. -/
structure Memory where
  cells : List Host.Cell := []
  fills : List Fill := []
deriving DecidableEq, Repr

/-- STATUS by fields (R69). Bits 63 to 11 read zero. -/
structure Status where
  ph : PhaseKind := .n
  apxs : Bool := false
  exact : Bool := false
  apx : Bool := false
  nft : Bool := false
  uia : Bool := false
  uie : Bool := false
  ds : Bool := false
  ps : Bool := false
  s : Bool := false
deriving DecidableEq, Repr

/-- How the unit that the task tried last has ended. The model's own bookkeeping: the step advances the pc after
`done` only. -/
inductive UnitEnd
  /-- The word had its effect; execution goes on after the unit (or at the target of a taken transfer). -/
  | done
  /-- The word had its effect and set the pc itself (ERET, URET, and a scalar trap that TRAP takes). -/
  | moved
  /-- A scalar trap was taken: the pc is the trap entry point. -/
  | trapped
  /-- Nothing happened; the unit issues again. -/
  | stalled
  /-- The task parked at this unit. -/
  | parked
  /-- The task retired. -/
  | retired
deriving DecidableEq, Repr

/-- Why a task is parked, with what its wake condition needs. -/
inductive Park
  | halt                                          -- R64
  | doubleTrap                                    -- R74
  | message (mask : W16)                          -- R196
  | full (pa : Nat) (empties : Bool)              -- R259: LDF, LDFE
  | version (pa : Nat) (v : W16)                  -- R265: LDV
  | room (pa : Nat) (x : W64)                     -- R265: STV, ST.d, with the data
  | handle (part idx : Nat) (eager : Bool)        -- R93, R97
  | budget (part : Nat) (desc : Nat)              -- R97: SPARKOLD, with the descriptor that SUSP has read
  | barrier (cluster g : Nat)                     -- R207
  | follow (cluster g : Nat) (label : W64)        -- R208
  | syncall (arrived : Bool)                      -- R358, R362
  | tree (arrived : Bool)                         -- R359, R362
  | window (part q : Nat) (header : W64) (data : Nat) -- R308, with the record
  | empty (part q vb : Nat)                       -- R309, with the first destination
  | quiet                                         -- R102
deriving DecidableEq, Repr

/-- What a wake leaves for the parking instruction to complete with (R21). -/
inductive Wake
  /-- The instruction starts its test again. -/
  | retry
  /-- The instruction completes with this value. -/
  | value (v : W64)
  /-- The instruction completes with these two values (HVNEAR2). -/
  | values (v w : W64)
  /-- The instruction raises this trap. -/
  | trap (c : Cause) (tval : W64)
  /-- A SUSP repeats BoundStep with the descriptor it has read (R97). -/
  | bound (desc : Nat)
deriving DecidableEq, Repr

/-- Whether a task issues (R21, R22, R28). -/
inductive Run
  | ready | running | parked (p : Park) | preempted
deriving DecidableEq, Repr

/-- One vector word in the sequencer: the word, its address and encoding, the scalar values and modes it read
at issue (R131, R67). `a`, `b` are XRead of the word's first and second scalar source field. -/
structure Entry where
  i : Instr
  addr : W64
  word : W32
  a : W64
  b : W64
  exact : Bool
  apx : Bool
  nft : Bool
deriving DecidableEq, Repr

/-- Vector registers and predicates that an A word reads as they stood before its pair's C word wrote them
(R32, R130). -/
structure VSnap where
  v : List (Reg × VReg) := []
  p : List (Pg × PReg) := []
deriving DecidableEq, Repr

/-- The vector words of one issue unit. -/
structure SeqUnit where
  c : Option Entry := none
  a : Option Entry := none
  snap : VSnap := {}
deriving DecidableEq, Repr

/-- An item of the sequencer: a unit, or a closed loop (R133) with the pass it runs and the place in the pass. -/
inductive SeqItem
  | unit (u : SeqUnit)
  | loop (n pass : Nat) (rest body : List SeqUnit) (len : Nat)
deriving DecidableEq, Repr

/-- An open VLOOP capture (R133, R134). -/
structure Capture where
  n : Nat
  len : Nat
  got : List SeqUnit
  at_ : W64
deriving DecidableEq, Repr

/-- A stream descriptor (R184). -/
structure StreamDesc where
  base : Nat
  stride0 : W64
  stride1 : W64
  stride2 : W64
  count0 : Nat
  count1 : Nat
  count2 : Nat
  out : Bool
  wrap : Bool
  sc : Sc
deriving DecidableEq, Repr

/-- A bound stream register: the walk, the next block, blocks moved since STRM, END, and blocks read ahead
(R185, R186). -/
structure Stream where
  d : StreamDesc
  k : Nat := 0
  moved : W32 := 0
  ended : Bool := false
  ahead : List VReg := []
deriving DecidableEq, Repr

/-- A vector word waiting in the sequencer (R150, R281): since which cycle, and for a VNRD the cycle through which it waits;
for VLDV the MSEQ it sampled; for a VNRD whose result goes to an out-stream register, what a match has brought; the streams as
they stood before the word consumed its blocks, for a wait that is abandoned (R138). -/
structure VWait where
  since : Nat
  last : Nat := 0
  before : NMap Stream := []
  marks : List Nat := []
  got : Option VReg := none
deriving DecidableEq, Repr

/-- A vector load in flight in a compute phase (R180): the cycle it delivers in (while the task is pre-empted, the cycles
that remain), its register, the bytes it delivers with their numbers, and the local-window address of each (R181). -/
structure VLoad where
  due : Nat
  vr : Reg
  bytes : List (Nat × Byte)
  vas : List Nat
deriving DecidableEq, Repr

/-- The vector sequencer's state of a task (R130 to R138), in issue cycles of its core, and while the task is pre-empted in
cycles that remain: `time` is the cycle in which its unit is free for the next word, `ready` the cycle in which a result may
be used, by vector register, from 32 on predicate, from 64 on scalar register (R136); `loads` are the compute-phase loads with
the cycle they deliver in (R180); `busy`: a word that has left the items still occupies the unit, and its entry (R135, R136). -/
structure Seq where
  items : List SeqItem := []
  busy : Bool := false
  cap : Option Capture := none
  wait : Option VWait := none
  time : Nat := 0
  ready : NMap Nat := []
  loads : List VLoad := []
deriving DecidableEq, Repr

/-- A scalar load in flight in a compute phase: units left, destination, value (R180); its local-window address, its bytes
and whether it extends the sign, for its replay (R29, R181). -/
structure LoadRec where
  left : Nat
  rd : Reg
  value : W64
  va : Nat := 0
  n : Nat := 0
  signed : Bool := false
deriving DecidableEq, Repr

/-- An answer on its way from a home (R216, R219, R265): when it comes, by the clock of a die, and what it writes; for a row load
the physical bytes that it reads, first and count (R176, R219). -/
structure Answer where
  clk : Clk
  due : Nat
  rd : Option Reg
  value : W64
  regs : List (Reg × VReg) := []
  span : Nat × Nat := (0, 0)
deriving DecidableEq, Repr

/-- A task that follows a leader's stream (R208, R209): the group, the leader, the label, whether the leader has
reached it, whether the task takes its units from the queue, the queue of the leader's units (address, words, and the target of
a transfer that the leader took there), whether no more units will come, and whether the task detaches after its next unit, the
delay slot of a transfer of its own. -/
structure Follow where
  cluster : Nat
  g : Nat
  leader : Nat
  label : W64
  begun : Bool := false
  joined : Bool := false
  queue : List (W64 × List W32 × Option W64) := []
  ended : Bool := false
  leaving : Bool := false
deriving DecidableEq, Repr

/-- The kind of an evaluation a task carries out (R95). -/
inductive EvalKind
  | call | hardware
deriving DecidableEq, Repr

/-- A task (R7, R8) with every register the manual gives it. -/
structure Task where
  /-- Number of the task; unique in the package. 0 is no task. TASKID is this number (log 6). -/
  tid : Nat := 0
  part : Nat := 0
  core : Nat := 0
  /-- Launch it belongs to; 0 for none. -/
  launch : Nat := 0
  prio : Nat := 0
  run : Run := .ready
  /-- Physical address of the Hatbox (R25); 0 for none. -/
  hatbox : Nat := 0
  wake : Option Wake := none
  /-- Order in which the task became ready or parked (R22, R196, R260). -/
  since : Nat := 0
  pc : W64 := 0
  /-- Target of the transfer that this unit has taken. -/
  xfer : Option W64 := none
  /-- This unit stands in the delay slot of a taken transfer to this target (R55). -/
  slot : Option W64 := none
  /-- Bytes of the unit, the word being executed, whether it is the A word of a pair, and how it ended. -/
  len : Nat := 4
  word : W32 := 0
  inA : Bool := false
  last : UnitEnd := .done
  /-- The unit at issue waits for the sequencer, to drain it before a trap (R77) or by R132. -/
  trapWait : Bool := false
  x : Vector W64 32 := Vector.replicate 32 0
  v : Vector VReg 32 := Vector.replicate 32 0
  p : Vector PReg 8 := Vector.replicate 8 0
  h : Vector HReg 8 := Vector.replicate 8 0
  b : Vector BArr 4 := Vector.replicate 4 0
  hvDecl : Bool := false
  hvMade : Bool := false
  st : Status := {}
  cause : W64 := 0
  epc : W64 := 0
  tval : W64 := 0
  btgt : W64 := 0
  iter : W64 := 0
  tilex : W16 := 0
  tiley : W16 := 0
  tilez : W16 := 0
  allotn : Nat := 0
  livem : W32 := 0
  ntmo : W32 := 1024
  uivec : W64 := 0
  uiepc : W64 := 0
  hvtie : BitVec 2 := 0
  hvcw : BitVec 2 := 1
  seqaddr : W64 := 0
  trapSave : Vector W64 8 := Vector.replicate 8 0
  uiShadow : Vector W64 8 := Vector.replicate 8 0
  uiMask : W16 := 0
  seq : Seq := {}
  /-- The replay area: the sequencer saved by a vector-precise trap (R76). -/
  replay : Seq := {}
  streams : NMap Stream := []
  loads : List LoadRec := []
  answers : List Answer := []
  nfRec : Vector W64 4 := Vector.replicate 4 0
  /-- Failure record (R255). -/
  failCount : Nat := 0
  failRefused : Bool := false
  failDead : Bool := false
  /-- A deferred HANDLE report (R90): the handle. -/
  handleReport : Option W64 := none
  /-- The issue stamp of the operation that has left the report. -/
  reportAt : Nat := 0
  /-- KEEP and DROP operations on their way to their homes (R90), oldest first: issue stamp, handle, whether KEEP. -/
  handleOps : List (Nat × W64 × Bool) := []
  /-- A pending matrix report (R244): its TVAL, and whether it is NONFINITE, with the record of R120. -/
  matrixReport : Option (Cause × W64 × Vector W64 4) := none
  /-- The demand link: the task it names; and the waiter link: the next waiter on the same entry (R83). -/
  demand : Option Nat := none
  waitLink : Option Nat := none
  /-- The handle or address that the parked task waits on, 0 for none (R101). -/
  waitOn : W64 := 0
  /-- The task issues nothing before this cycle of its core's die (R22, R26, R72, R75, R383). -/
  hold : Nat := 0
  /-- A load that was issued again at the resume met an uncorrectable error (R29, R177): its address. -/
  reloadErr : Option W64 := none
  /-- The entry an evaluation task evaluates (R95). -/
  evalOf : Option (Nat × Nat) := none
  /-- The held lock: address, bytes, physical address (R217). -/
  lock : Option (W64 × Nat × Nat) := none
  /-- Exchange phase (R211, R212), in issue cycles of the core: its cycle 0; the cycle in which a PHASE.x drained and
  holds the next unit; send slots by peer: vector and cycle. -/
  xphase : Nat := 0
  xhold : Option Nat := none
  xsend : NMap (VReg × Nat) := []
  /-- Granules of MASTER pages written since the last FENCE.row (R268). -/
  rowWrites : List Nat := []
  /-- The task stalls until every view block over these granules is published (R268). -/
  rowWait : List Nat := []
  /-- The core retries a refused lock request at its next LOCK_RETRY (R214). -/
  lockWait : Bool := false
  /-- A search of this task waits in its cluster's queue (R171), and what a search has brought. -/
  searching : Bool := false
  near : Option Wake := none
  follow : Option Follow := none
  /-- The A word paired with a DONE that still waits has issued (R20). -/
  doneA : Bool := false
  treeRound : Nat := 0
deriving DecidableEq, Repr

/-- A waiting-task table entry (R11, R16). -/
structure WEntry where
  entry : W64
  tx : W16
  ty : W16
  tz : W16
  ctr : Fin 16
  thr : W32
  allot : Nat
  hv : Bool
  prio : Nat
  arg : W64
  part : Nat
  launch : Nat := 0
  /-- The condition has been met; the entry launches once the core has room (R9, R11). -/
  met : Bool := false
deriving DecidableEq, Repr

/-- One statistics buffer entry: the 256-bit record of R151. -/
structure StatEntry where
  mean : W32 := 0
  rstd : W32 := 0
  lse : W32 := 0
  rsum : W32 := 0
  eref : W16 := 0
  shift : W16 := 0
  count : W32 := 0
  open_ : Bool := false
  ms : Bool := false
  ev : Bool := false
  lv : Bool := false
deriving DecidableEq, Repr

/-- A copy, gather or scatter command (R188 to R194). -/
structure CopyCmd where
  kind : Nat
  mode : ScatMode
  src : Nat
  dst : Nat
  rows : Nat
  rowBytes : Nat
  spitch : W64
  dpitch : W64
  iw : Nat
  efmt : Ft
  idx : Nat
  sig : Bool
  msg : Bool
  sigAddr : Nat
  sigVal : W64
  part : Nat
  task : Nat
  done : Nat := 0
  /-- 1 queued, 2 running, 3 waiting on a fault, 4 complete, 5 ended with status 1 or 2 (R192). -/
  state : Nat := 1
  status : Nat := 0
  /-- Fault ring slot of the fault it waits on (R193). -/
  fault : Option Nat := none
  /-- The index list once the engine has read it (R190). -/
  idxs : Option (List Nat) := none
  /-- Source words read that a later row needs as well: each byte's address and its value, none under an error (R262). -/
  held : List (Nat × Option Byte) := []
  /-- Its signal has been written; its message has been sent (R197). -/
  signalled : Bool := false
  told : Bool := false
deriving DecidableEq, Repr

/-- Operand formats of matrix commands (R229). -/
structure FmtCtx where
  afmt : Nat := 1
  ascale : Bool := false
  bfmt : Nat := 1
  bscale : Bool := false
  statBase : Nat := 0
  acb : List W16 := []
  bcb : List W16 := []
  acbAt : Nat := 0
  bcbAt : Nat := 0
deriving DecidableEq, Repr

/-- One 128 by 128 accumulator (word 128·i + j; 0 where none is kept) with its status (R230, R231). -/
structure Acc where
  words : NMap W32 := []
  sat : Bool := false
  ncnt : NMap Nat := []
  atot : W64 := 0
  btot : W64 := 0
deriving DecidableEq, Repr

/-- A bank of two accumulators and its owner (R230). -/
structure Bank where
  acc0 : Acc := {}
  acc1 : Acc := {}
  owner : Option Nat := none
deriving DecidableEq, Repr

/-- A matrix command in its queue (R225, R227): its sixteen words, its task, the modes of its VSTQ (R67), and the
implicit swaps that stand ahead of it (R230). Then what its run leaves for its reports (R240, R242, R243): the
refusal's TVAL, memory error, saturation, replaced NaNs, the first non-finite element (its value's encoding, row,
column), the operand formats, whether it met absent data. -/
structure MCmd where
  w : List Nat
  task : Nat
  part : Nat
  exact : Bool := false
  apx : Bool := false
  nft : Bool := false
  swaps : Nat := 0
  started : Bool := false
  refused : Option Nat := none
  memErr : Bool := false
  sat : Bool := false
  nan : Bool := false
  nf : Option (Nat × Nat × Nat) := none
  fmts : Nat × Nat := (0, 0)
  absent : Bool := false
  signalled : Bool := false
  /-- Its messages have been sent; the command goes on once they have been accepted (R197). -/
  told : Bool := false
deriving DecidableEq, Repr

/-- A core of either kind (R7): what belongs to the core and not to a task. -/
structure Core where
  mailbox : List W64 := []
  /-- Messages that their senders hold while the mailbox is full (R197). -/
  held : List W64 := []
  ctr : Vector W32 16 := Vector.replicate 16 0
  table : NMap WEntry := []
  stats : NMap StatEntry := []
  tieL : HReg := BitVec.allOnes 8192
  badscale : W64 := 0
  copies : NMap CopyCmd := []
  nextTag : Nat := 1
  /-- The last 64 tags with the state and rows they ended with (R192). -/
  tagLog : List (Nat × Nat × Nat) := []
  sent : W64 := 0
  recv : W64 := 0
  /-- Physical vector registers in order of last use: (task, register) (R26). -/
  phys : List (Nat × Nat) := []
  /-- Task whose state the hypervector unit holds (R160). -/
  hvTask : Nat := 0
  /-- Matrix state of the core (R225, R229, R230): queue, swaps queued behind it, format context, active bank, Mitten;
  and the commands whose MDONE sets APXS in the task that takes it (R293, R366): OP and TAG as the message carries them. -/
  mq : List MCmd := []
  mtail : Nat := 0
  fmt : FmtCtx := {}
  bank : Bank := {}
  mitten : Bank := {}
  absentDone : List Nat := []
  /-- Receive slots (R212): arrivals, oldest first: sender, vector, its cycle, and the issue cycle in which it lands. -/
  xrecv : List (Nat × VReg × Nat × Nat) := []
  /-- The task that a pre-emption request names (R349). -/
  preempt : Option Nat := none
  /-- Cycles in which the die of an optimiser core issued and the core's own power state kept it still (R321). -/
  idle : Nat := 0
deriving DecidableEq, Repr

/-- A group of a cluster (R205 to R207): its members, the barrier number, and the members of a completed barrier
that wait for its release. -/
structure Group where
  members : List Nat := []
  barrier : Nat := 0
  release : Option (List Nat) := none
deriving DecidableEq, Repr

/-- A leaf that a translation cache holds (R286). -/
structure TlbEntry where
  part : Nat
  base : Nat
  size : Nat
  entry : W64
deriving DecidableEq, Repr

/-- A cluster (chapter 11). -/
structure Cluster where
  groups : NMap Group := []
  sparks : List W64 := []
  offered : W64 := 0
  converted : W64 := 0
  fizzled : W64 := 0
  overflow : W64 := 0
  imctl : W64 := 0
  /-- Count of the cluster's issue cycles at which the exchange clock was zero (R211). -/
  clock : Nat := 0
  /-- Cycles in which its die issued and its own power state kept it still (R321). -/
  idle : Nat := 0
  /-- Searches waiting for the item memory, oldest first: task, sought vector, table specification; and the issue cycle
  in which the running search ends (R171). -/
  searches : List (Nat × HReg × W64) := []
  searchEnd : Nat := 0
  /-- Sparks converted or fizzled, counted as received (R98). -/
  recv : W64 := 0
  tlb : List TlbEntry := []
  /-- Matrix unit (R225, R238): the queue last served, the queue being served (8: an MXPOSE of all eight), and the
  permutation table, entry 8·s + j. -/
  mlast : Nat := 7
  /-- A self-test holds the unit: no command starts (R328). -/
  mhold : Bool := false
  mbusy : Option Nat := none
  mtable : List Nat := (List.range 64).map (· % 8)
deriving DecidableEq, Repr

/-- Version state of a word: floor, latest and the values of versions F to L (R263). -/
structure VWord where
  f : W16
  l : W16
  vals : List W64
deriving DecidableEq, Repr

/-- One shard of a view (R273). -/
structure Shard where
  firstRow : Nat
  nrows : Nat
  vbase : Nat
  sbase : Nat
deriving DecidableEq, Repr

/-- A registered view (R272 to R281). -/
structure View where
  mbase : Nat
  rows : Nat
  cols : Nat
  mpitch : Nat
  /-- Master format: fp32 or bf16. -/
  mf : Ft
  /-- View format code of R272: 1 bf16, 2 fp16, 3 e4m3, 4 e5m2, 7 int8, 8 CB4. -/
  vf : Nat
  layout : Nat
  dpol : Nat
  shards : List Shard
  cb : List W16
  /-- Core that registered the view (R279). -/
  core : Nat
  counters : Vector W64 4 := Vector.replicate 4 0
  closed : Bool := false
  /-- Where the master lies: virtual base, bytes, physical base of each piece of a page. -/
  master : List (Nat × Nat × Nat) := []
  /-- Blocks (row, block) whose derivation is pending, with the order in which they became so (R280), and blocks in
  derivation with the MSEQ taken (R279). -/
  pending : List (Nat × Nat × Nat) := []
  deriving_ : List (Nat × Nat × Nat) := []
  /-- Blocks stopped on an engine fault, with the fault ring slot (R279, R193). -/
  stopped : List (Nat × Nat × Nat) := []
deriving DecidableEq, Repr

/-- The packet at the head of a launch queue (R341, R343): its number and words, the DTIME at which it became head,
the launch started from it (0 for none), and whether it breaks R341. -/
structure QHead where
  n : Nat
  d : List Nat
  th : Nat
  launch : Nat := 0
  bad : Bool := false
deriving DecidableEq, Repr

/-- A resize or retirement in progress (R350): the cores that leave, ascending, the clusters afterwards, where departing
vaults go (none keeps them in place), and the cores of retirements that the device has started meanwhile, whose room has not been
reckoned (R352). -/
structure Resize where
  leaving : List Nat
  clusters : List Nat
  dest : Option Nat
  joining : List Nat := []
deriving DecidableEq, Repr

/-- The records of a deadlock (R101) that are to be written: the region's number, its report area and the core that named it. -/
structure Deadlock where
  region : W16
  area : W64
  core : Nat
  records : List (List Nat)
deriving DecidableEq, Repr

/-- A partition: its configuration block (R338) and what the device keeps for it. -/
structure Part where
  root : Nat := 0
  logcap : Nat := 10
  hcBase : Nat := 0
  fring : Nat := 0
  gqtab : Nat := 0
  lqtab : Nat := 0
  kvdesc : Nat := 0
  logreg : Nat := 12
  kvn : Nat := 0
  vpool : Nat := 0
  vcount : Nat := 0
  hpool : Nat := 0
  hcount : Nat := 0
  hbn : Nat := 0
  hboff : Nat := 0
  ep : Nat := 0
  supcore : Nat := 0
  wdog : Nat := 0
  age : Nat := 1
  spill : Nat := 0
  spilln : Nat := 0
  report : Nat := 0
  clusters : List Nat := []
  opts : List Nat := []
  /-- Taken slots of the engine fault ring (R193). -/
  ringSlots : List Nat := []
  /-- Placement and entry launches are held (R350). -/
  held : Bool := false
  /-- Hatcheck control block (R82): bound, mode, total of charges, next sequence number, freed indexes (the head of
  the free list first) and the lowest index never used. The entries lie in memory. -/
  hcBound : W64 := BitVec.allOnes 64
  hcMode : Nat := 0
  hcTotal : Nat := 0
  hcSeq : W32 := 0
  hcFree : List Nat := []
  hcFresh : Nat := 0
  /-- Counting region (R100): number, report area and the core that named it, whether open, whether a boundary has passed since REGION, and the
  sums of the last wave that showed quiescence. -/
  region : W16 := 0
  regionReport : W64 := 0
  regionCore : Nat := 0
  regionOpen : Bool := false
  regionBegun : Bool := false
  regionSums : Option (W64 × W64) := none
  /-- Deadlocks whose records wait to be written (R101), and what cores and clusters that have left counted as sent and received (R98,
  log 21). -/
  deadlocks : List Deadlock := []
  leftSent : W64 := 0
  leftRecv : W64 := 0
  /-- Free key-value descriptors, vault regions and HBM regions (R297): freed ones, the last first, and the lowest
  number never used. -/
  kvFree : List Nat := []
  kvFresh : Nat := 0
  vFree : List Nat := []
  vFresh : Nat := 0
  hFree : List Nat := []
  hFresh : Nat := 0
  views : NMap View := []
  viewTotals : Vector W64 4 := Vector.replicate 4 0
  /-- Cores retired by themselves (R350), which its clusters and optimiser cores no longer hold. -/
  gone : List Nat := []
  /-- TAILs as the dispatcher last read them, heads of the queues, and packets past DONE that count toward it (R339,
  R340, R343). -/
  tails : NMap Nat := []
  heads : NMap QHead := []
  doneSet : NMap (List Nat) := []
  /-- Arbitration weights (R378). -/
  weights : W64 := 0x888
  /-- Hang watchdog (R353, R354): the reference cycle from which it counts, and while it does not count, the cycles
  counted before. -/
  wdogBase : Nat := 0
  wdogPaused : Option Nat := none
  resize : Option Resize := none
deriving DecidableEq, Repr

/-- A built-in evaluation (R95): its entry, core, priority and Hatbox, the task whose force created it, the number
of arguments forced, their value addresses, and the cause that ends it in FAULT; whether it waits for an argument, whether it
runs on its core (R22), and the stamp of its becoming ready. Keyed by its task number. -/
structure Eval where
  part : Nat
  idx : Nat
  core : Nat
  prio : Nat
  hatbox : Nat
  demand : Option Nat
  next : Nat := 0
  waiting : Bool := false
  running : Bool := false
  since : Nat := 0
  waitLink : Option Nat := none
  addrs : List Nat := []
  fault : Option Cause := none
deriving DecidableEq, Repr

/-- A remote write on its way to its home (R18, R384). -/
structure Posted where
  tid : Nat
  cells : List (Nat × Byte)
deriving DecidableEq, Repr

/-- A counter change (R18) or a USER message (R196) on its way: target core, the message or none, sending task and its
partition, and for a counter change the counter and what is added. -/
structure Flight where
  core : Nat
  msg : Option W64
  tid : Nat
  part : Nat
  ctr : Fin 16 := 0
  delta : W32 := 0
deriving DecidableEq, Repr

/-- A contribution to a TREE round (R359): the task, its round, operation, control word, record address and the
64 bytes. -/
structure Arrival where
  tid : Nat
  round : Nat
  op : TreeOp
  ctl : W64
  va : W64
  bytes : Nat
deriving DecidableEq, Repr

/-- A launch (R343 to R348): its partition, queue, packet number and words, tasks placed so far, MISSED, every task it
has had, the failure records of its retired tasks with what came after their retirement (R375), and its supersteps
(R356 to R362). -/
structure Launch where
  part : Nat
  queue : Nat
  index : Nat
  d : List Nat
  placed : Nat := 0
  missed : Bool := false
  tids : List Nat := []
  status : Nat := 0
  lateCount : Nat := 0
  lateRefused : Bool := false
  lateDead : Bool := false
  superstep : W32 := 0
  tree : Option Nat := none
  arrivals : List Arrival := []
deriving DecidableEq, Repr

/-- A collective descriptor in its engine (R369, R371 to R376). `phase` 0 waits for its partners, 1 for its threshold, 2
has read the bucket and runs, 3 completes; `step` counts ring steps; `data` is the bucket as this position holds it; `write` is a chunk whose
write a fault has stopped. -/
structure CEDesc where
  d : List Nat
  ring : Nat
  part : Nat
  task : Nat
  core : Nat
  phase : Nat := 0
  step : Nat := 0
  data : List Nat := []
  write : Option (Nat × List Nat) := none
  status : Nat := 0
  /-- Ring slot of the fault it waits on (R193, R376); its signal has been written. -/
  fault : Option Nat := none
  signalled : Bool := false
  /-- CEDONE has been sent (R197). -/
  told : Bool := false
  /-- The place of its RSIG word, while it waits for its threshold, and whether a write there has met it (R372). -/
  watch : Option Nat := none
  met : Bool := false
  /-- How another position ends the descriptor at every position (R376, R379), and when it is known here. -/
  ends : Nat := 0
  endAt : Nat := 0
deriving DecidableEq, Repr

/-- What another position of a ring has posted (R374), as the ring shows it: the oldest first for each. -/
structure Peer where
  ring : Nat
  p2p : Bool
  pos : Nat
  op : Nat
  fmt : Nat
  rop : Nat
  count : Nat
  mtag : Nat
  /-- The status with which that position ends the descriptor at every position: 0, 1 for a dead link, 2 for a memory error, 4 for
  an abandoned one (R376, R379). -/
  ends : Nat := 0
deriving DecidableEq, Repr

/-- A die's collective engine (R371, R372): descriptors by tag in the order of arrival. -/
structure CEngine where
  list : List (Nat × CEDesc) := []
  nextTag : Nat := 1
deriving DecidableEq, Repr

/-- A power state (R321). -/
inductive Power | run | idle | retain | off
deriving DecidableEq, Repr

/-- A die (R321 to R325, R332). Rates are in reference cycles; `rate` is the clamp's (one issue cycle in `rate`). -/
structure Die where
  power : Power := .run
  clk : Nat := 3
  nextClk : Nat := 3
  holdEnd : Nat := 0
  limit : Nat := 1875
  alert : Nat := 105
  rate : Nat := 1
  /-- Reference cycle since which every sample stayed below 90 % of the limit, or of the last change. -/
  coolSince : Nat := 0
  /-- A thermal alert stands since this cycle; a power command has come since. -/
  alertAt : Option Nat := none
  commanded : Bool := false
  thermalHold : Bool := false
  critical : Bool := false
  /-- Running counts of events by kind (R332). -/
  events : NMap Nat := []
  /-- Reference cycles that were none of the die's own clock, and those in which its cores issued nothing (R6, R323,
  R324). -/
  lag : Nat := 0
  gated : Nat := 0
deriving DecidableEq, Repr

/-- A unit of the targeted self-test (R327 to R330): under test, errors counted meanwhile, spares used, reference
cycles of its TRANSIENT classifications, retired, cores that asked, and the address of the error that started it. -/
structure TestUnit where
  testing : Bool := false
  errors : Nat := 0
  used : Nat := 0
  transients : List Nat := []
  retired : Bool := false
  askers : List Nat := []
  place : Option Nat := none
deriving DecidableEq, Repr

/-- An image in the boot flash (R333): whether it is well formed, its bytes, the two public keys and the two signatures that it
carries, and its security version. -/
structure Image where
  wellFormed : Bool := true
  bytes : List Byte := []
  ecdsaKey : BitVec 768 := 0
  hssKey : BitVec 480 := 0
  ecdsaSig : BitVec 768 := 0
  hssSig : List Byte := []
  version : Nat := 0
deriving DecidableEq, Repr

/-- What belongs to the package (chapter 19). -/
structure Pkg where
  booted : Bool := false
  bootStatus : Nat := 0
  images : List Image := [{}, {}, {}]
  /-- Fused: the SHA-384 of the two public keys that sign images, and the lowest security version (R333). -/
  fusedKeys : BitVec 384 × BitVec 384 := (0, 0)
  fusedVersion : Nat := 0
  /-- The device's identity (R334, R335): its serial and its two public keys. -/
  serial : BitVec 128 := 0
  idEcdsa : BitVec 768 := 0
  idHss : BitVec 480 := 0
  /-- Host writes that wait at an endpoint for a unit under test (R319, R327), oldest first: offset in the aperture and bytes. -/
  hostHeld : NMap (List (Nat × List Byte)) := []
  /-- Management mailbox (R320): command words, doorbell, response words. -/
  cmd : Vector W64 8 := Vector.replicate 8 0
  doorbell : Bool := false
  /-- The command runs: a resize that waits for its halts (R350). -/
  busy : Bool := false
  resp : Vector W64 8 := Vector.replicate 8 0
  aperture : W64 := 0
  /-- Event ring (R331). -/
  ringBase : Nat := 0
  ringSlots : Nat := 0
  producer : W64 := 0
  consumer : W64 := 0
  lost : W64 := 0
  /-- MSI-X vectors raised (endpoint, vector), oldest first (R318). -/
  msix : List (Nat × Nat) := []
  /-- Other registers of BAR0 that the host has written, by offset; words of the MSI-X tables in BAR4, by endpoint and offset; the
  word last read. -/
  bar : NMap W64 := []
  bar4 : NMap W64 := []
  hostData : W64 := 0
  dies : NMap Die := []
  clusterPower : NMap Power := []
  optPower : NMap Power := []
  /-- States that units on their way out of IDLE, RETAIN or OFF will have (class 0 die, 1 cluster, 2 optimiser core). -/
  exits : NMap Power := []
  /-- Next leaf index of the HSS key, end of the reserved block, and whether the store acknowledges (R334). -/
  hssNext : Nat := 0
  hssEnd : Nat := 0
  storeAck : Bool := true
  /-- Endpoint links (R318): width ×16, rate in GT/s. -/
  links : NMap (Bool × Nat) := [(0, true, 128), (1, true, 128)]
  units : NMap TestUnit := []
  /-- The fabric plan (R368): ring table word d0 of ring i of partition p at 16·p + i. -/
  plan : NMap Nat := []
  peers : List Peer := []
deriving DecidableEq, Repr

/-- The state of the machine. -/
structure State where
  /-- The task in focus: the one that issues. -/
  t : Task := {}
  /-- Registers as they stood before a pair's C word (R32), while its A word executes. -/
  old : Option Task := none
  tasks : NMap Task := []
  cores : NMap Core := []
  clusters : NMap Cluster := []
  parts : NMap Part := []
  evals : NMap Eval := []
  mem : Memory := {}
  /-- Full bits that differ from their frame's initial state, by physical word (R257). -/
  fullBits : NMap Bool := []
  /-- Version state of words (R263). -/
  versions : NMap VWord := []
  /-- Advances of MSEQ by writes to each granule of a MASTER frame (R270). -/
  mseq : NMap Nat := []
  /-- Frames (base, size) whose FE, VERSIONED or MASTER side state has been initialised (R285). -/
  feInit : List (Nat × Nat) := []
  verInit : List (Nat × Nat) := []
  masterInit : List (Nat × Nat) := []
  /-- Leaves by which partitions have reached pages as MASTER: writes there advance MSEQ while they stand (R270). -/
  masters : List TlbEntry := []
  /-- Lock bits held: (home, bit), the task (R214); refused requests by age. -/
  locks : List (Nat × Nat × Nat) := []
  lockQueue : List (Nat × Nat × Nat) := []
  /-- Places with an uncorrectable error: an 8-byte word of a vault or scratch, a 64-byte granule elsewhere
  (R326), by physical address. -/
  bad : List Nat := []
  /-- Remote writes not yet performed, oldest first (R384). -/
  posted : List Posted := []
  /-- Counter changes and USER messages on their way, oldest first. -/
  sends : List Flight := []
  nextTid : Nat := 1
  launches : NMap Launch := []
  nextLaunch : Nat := 1
  engines : NMap CEngine := []
  pkg : Pkg := {}
  /-- Counter of free values used (log 4). -/
  free : Nat := 0
  /-- Order stamp for ready and parked tasks. -/
  stamp : Nat := 0
  /-- Reference cycles of the 1.9 GHz wave clock (R99). -/
  now : Nat := 0
  sched : List (Nat × Event) := []
  /-- Events that are due in cycles of a die or in issue cycles of a core, in the order in which they were scheduled:
  the clock, its reading, the event (R6, R324). -/
  timed : List (Clk × Nat × Event) := []
  todo : List Nat := []
deriving DecidableEq, Repr

/-- The machine right after reset: no partition, no task, and the boot of its management processor as its first event
(R333). Every field stands at its default above. -/
def State.reset : State := { sched := [(0, .boot)] }

/-- A reset of a package that has run: what the flash, the fuses and the secure store hold stays (R333, R334); the leaf indices of
the reserved block that are left are abandoned, so that none is used twice. -/
def State.resetAgain (s : State) : State :=
  { State.reset with
    pkg := { images := s.pkg.images, fusedKeys := s.pkg.fusedKeys, fusedVersion := s.pkg.fusedVersion, serial := s.pkg.serial,
             idEcdsa := s.pkg.idEcdsa, idHss := s.pkg.idHss, hssNext := s.pkg.hssEnd, hssEnd := s.pkg.hssEnd, storeAck := s.pkg.storeAck,
             plan := s.pkg.plan, peers := s.pkg.peers } }

end Sys2Proof.Machine
end

