-- ==== Sys2Proof/Machine/Memory.lean ====
section
/-! DEFINITION. Memory as a list of cells in one canonical form: addresses rising, no cell equal to the byte an
unlisted address reads as. -/

namespace Sys2Proof.Machine

/-- What an address that nothing has written reads as. DESIGN CHOICE (log 2): the manual gives no contents for
memory after power-on. -/
def Memory.blank : Byte := 0

/-- The address lies in the range. -/
def Fill.has (f : Fill) (a : Nat) : Bool := decide (f.base ≤ a ∧ a < f.base + f.size)
/-- What an unlisted address of a lost or cleared range reads as: a free byte for contents that OFF has lost (R321). -/
def Fill.byte (f : Fill) (a : Nat) : Byte := if f.key = 0 then Memory.blank else Config.lostByte f.key (f.src + (a - f.base))
/-- What an unlisted address reads as. -/
def background (l : List Fill) (a : Nat) : Byte :=
  match l with
  | [] => Memory.blank
  | f :: r => if f.has a then f.byte a else background r a

/-- The byte at an address of a list of cells, over a background. -/
def cellAt (bg : Nat → Byte) (l : List Host.Cell) (a : Nat) : Byte :=
  match l with
  | [] => bg a
  | (k, b) :: r => if k = a then b else if a < k then bg a else cellAt bg r a
/-- The cells with one byte written, over a background. -/
def setCell (bg : Nat → Byte) (l : List Host.Cell) (a : Nat) (b : Byte) : List Host.Cell :=
  match l with
  | [] => if b = bg a then [] else [(a, b)]
  | (k, c) :: r =>
    if k = a then (if b = bg a then r else (a, b) :: r)
    else if a < k then (if b = bg a then (k, c) :: r else (a, b) :: (k, c) :: r)
    else (k, c) :: setCell bg r a b
/-- Addresses rise from above `lo`, and no cell holds what its address reads as unlisted. -/
def cellsWf (bg : Nat → Byte) (lo : Option Nat) (l : List Host.Cell) : Bool :=
  match l with
  | [] => true
  | (k, b) :: r => (match lo with | none => true | some n => decide (n < k)) && b != bg k && cellsWf bg (some k) r

/-- The byte at an address. -/
def Memory.byteAt (m : Memory) (a : Nat) : Byte := cellAt (background m.fills) m.cells a
/-- The memory with one byte written. -/
def Memory.setByte (m : Memory) (a : Nat) (b : Byte) : Memory := { m with cells := setCell (background m.fills) m.cells a b }
/-- The canonical form. -/
def Memory.wf (m : Memory) : Bool := cellsWf (background m.fills) none m.cells

/-- A range is lost or cleared: what stood there is gone, and reads as the fill says. -/
def Memory.fill (m : Memory) (f : Fill) : Memory :=
  let rest := m.fills.filter fun g => !decide (f.base ≤ g.base ∧ g.base + g.size ≤ f.base + f.size)
  { cells := m.cells.filter fun c => !f.has c.1
    fills := if f.key = 0 && rest.all (fun g => decide (g.base + g.size ≤ f.base ∨ f.base + f.size ≤ g.base)) then rest else f :: rest }

/-- The little-endian number in `n` bytes from `a` (R4). -/
def Memory.readLE (m : Memory) (a : Nat) : Nat → Nat
  | 0 => 0
  | n + 1 => (m.byteAt a).toNat + 256 * Memory.readLE m (a + 1) n

/-- Memory with a list of cells written. -/
def Memory.setBytes (m : Memory) : List (Nat × Byte) → Memory
  | [] => m
  | (a, b) :: r => Memory.setBytes (m.setByte a b) r

/-- The part of a fill that lies among the n bytes from src, moved to dst. -/
def Fill.moved (f : Fill) (src dst n : Nat) : Fill :=
  let lo := max src f.base
  ⟨dst + (lo - src), min (src + n) (f.base + f.size) - lo, f.key, f.src + (lo - f.base)⟩
/-- The n bytes from src are copied to dst, elsewhere. -/
def Memory.copy (m : Memory) (src dst n : Nat) : Memory :=
  let u := m.fill ⟨dst, n, 0, 0⟩
  let fills := (m.fills.map fun f => f.moved src dst n).filter fun f => decide (0 < f.size)
  { u with fills := fills ++ u.fills }.setBytes
    ((m.cells.filter fun (c : Host.Cell) => decide (src ≤ c.1 ∧ c.1 < src + n)).map fun (c : Host.Cell) => (dst + (c.1 - src), c.2))

/-- The cells of a little-endian number of `n` bytes at `a` (R4). -/
def leCells (a : Nat) : Nat → Nat → List (Nat × Byte)
  | 0, _ => []
  | n + 1, v => (a, BitVec.ofNat 8 v) :: leCells (a + 1) n (v / 256)

/-- Bytes of a little-endian number. -/
def leBytes : Nat → Nat → List Byte
  | 0, _ => []
  | n + 1, v => BitVec.ofNat 8 v :: leBytes n (v / 256)

/-- The number that a list of bytes holds, least significant first. -/
def ofBytes : List Byte → Nat
  | [] => 0
  | b :: r => b.toNat + 256 * ofBytes r

end Sys2Proof.Machine
end

