-- ==== Sys2Proof/Machine/Regs.lean ====
section
/-! DEFINITION. The registers that each instruction names in its own fields (R31, R33 step 5, R132): read and
written scalar, vector, predicate, hypervector registers and counter arrays. -/

namespace Sys2Proof.Machine

/-- Register numbers a word names, by class and by reading or writing. -/
structure Regs where
  xr : List Nat := []
  xw : List Nat := []
  vr : List Nat := []
  vw : List Nat := []
  pr : List Nat := []
  pw : List Nat := []
  hr : List Nat := []
  hw : List Nat := []
  br : List Nat := []
  bw : List Nat := []
deriving DecidableEq, Repr

/-- `n` register numbers from `r` on, none above 31 (R31). -/
def runOf (r n : Nat) : List Nat := ((List.range n).map (r + ·)).filter (· < 32)

/-- The registers a word names. A vector load with a predicate may clear bits of it (R293), so it names it as
a destination too. -/
def regsOf : Instr → Regs
  | .nop => {}
  | .trap ra => { xr := [ra.val] }
  | .eret => {}
  | .halt => {}
  | .uret => {}
  | .selftest rd ra => { xr := [ra.val], xw := [rd.val] }
  | .resume ra rb => { xr := [ra.val, rb.val] }
  | .mfsr rd _ => { xw := [rd.val] }
  | .mtsr ra _ => { xr := [ra.val] }
  | .j _ => {}
  | .jl _ => { xw := [31] }
  | .jr ra => { xr := [ra.val] }
  | .jlr rd ra => { xr := [ra.val], xw := [rd.val] }
  | .beq ra rb _ => { xr := [ra.val, rb.val] }
  | .bne ra rb _ => { xr := [ra.val, rb.val] }
  | .blt ra rb _ => { xr := [ra.val, rb.val] }
  | .bge ra rb _ => { xr := [ra.val, rb.val] }
  | .bltu ra rb _ => { xr := [ra.val, rb.val] }
  | .bgeu ra rb _ => { xr := [ra.val, rb.val] }
  | .li rd _ => { xw := [rd.val] }
  | .lis rd ra _ => { xr := [ra.val], xw := [rd.val] }
  | .lea rd _ => { xw := [rd.val] }
  | .ld rd ra _ _ _ => { xr := [ra.val], xw := [rd.val] }
  | .lds rd ra _ _ _ => { xr := [ra.val], xw := [rd.val] }
  | .st rd ra _ _ _ => { xr := [rd.val, ra.val] }
  | .ldv rd ra rb _ => { xr := [ra.val, rb.val], xw := [rd.val] }
  | .ldvl rd ra _ => { xr := [ra.val], xw := [rd.val] }
  | .stv rd ra rb _ => { xr := [ra.val, rb.val], xw := [rd.val] }
  | .reclaim rd ra rb _ => { xr := [ra.val, rb.val], xw := [rd.val] }
  | .ldf rd ra _ => { xr := [ra.val], xw := [rd.val] }
  | .ldfe rd ra _ => { xr := [ra.val], xw := [rd.val] }
  | .stf ra rb _ => { xr := [ra.val, rb.val] }
  | .ste ra _ => { xr := [ra.val] }
  | .aadd rd ra rb _ _ => { xr := [ra.val, rb.val], xw := [rd.val] }
  | .aand rd ra rb _ _ => { xr := [ra.val, rb.val], xw := [rd.val] }
  | .aor rd ra rb _ _ => { xr := [ra.val, rb.val], xw := [rd.val] }
  | .axor rd ra rb _ _ => { xr := [ra.val, rb.val], xw := [rd.val] }
  | .amin rd ra rb _ _ => { xr := [ra.val, rb.val], xw := [rd.val] }
  | .amax rd ra rb _ _ => { xr := [ra.val, rb.val], xw := [rd.val] }
  | .aswap rd ra rb _ _ => { xr := [ra.val, rb.val], xw := [rd.val] }
  | .acas rd ra rb _ _ => { xr := [rd.val, ra.val, rb.val], xw := [rd.val] }
  | .ldlk rd ra _ _ => { xr := [ra.val], xw := [rd.val] }
  | .stul rd ra _ _ => { xr := [rd.val, ra.val] }
  | .rowadd rd ra rb _ => { xr := [ra.val, rb.val], vr := runOf rd.val 4 }
  | .rowmax rd ra rb _ => { xr := [ra.val, rb.val], vr := runOf rd.val 4 }
  | .rowld rd ra rb _ => { xr := [ra.val, rb.val], vw := runOf rd.val 4 }
  | .rowst rd ra rb _ => { xr := [ra.val, rb.val], vr := runOf rd.val 4 }
  | .fence rd _ => { xw := [rd.val] }
  | .vld vr ra rb pg _ => { xr := [ra.val, rb.val], vw := [vr.val], pr := [pg.val], pw := [pg.val] }
  | .vst vr ra rb pg _ => { xr := [ra.val, rb.val], vr := [vr.val], pr := [pg.val] }
  | .vlds vr ra rb pg _ => { xr := [ra.val, rb.val], vw := [vr.val], pr := [pg.val], pw := [pg.val] }
  | .vsts vr ra rb pg _ => { xr := [ra.val, rb.val], vr := [vr.val], pr := [pg.val] }
  | .vldx vr ra rb pg _ => { xr := [ra.val, rb.val], vw := [vr.val], pr := [pg.val], pw := [pg.val] }
  | .vstx vr ra rb pg _ => { xr := [ra.val, rb.val], vr := [vr.val], pr := [pg.val] }
  | .vstq vr ra rb => { xr := [ra.val, rb.val], vr := [vr.val] }
  | .vldv vr ra rb pg _ _ => { xr := [ra.val, rb.val], vw := [vr.val, vr.val + 1], pr := [pg.val], pw := [pg.val] }
  | .hvld rd xs _ => { xr := [xs.val], hw := [rd.val] }
  | .hvldB rd xs _ => { xr := [xs.val], bw := [rd.val] }
  | .hvst ra xs _ => { xr := [xs.val], hr := [ra.val] }
  | .hvstB ra xs _ => { xr := [xs.val], br := [ra.val] }
  | .hvmemst ra xs => { xr := [xs.val], hr := [ra.val] }
  | .strm ra _ => { xr := [ra.val] }
  | .strmoff _ => {}
  | .strmq rd _ => { xw := [rd.val] }
  | .copy rd ra => { xr := [ra.val], xw := [rd.val] }
  | .gather rd ra => { xr := [ra.val], xw := [rd.val] }
  | .scatter rd ra _ => { xr := [ra.val], xw := [rd.val] }
  | .cstat rd ra => { xr := [ra.val], xw := [rd.val] }
  | .sendmsg ra rb => { xr := [ra.val, rb.val] }
  | .waitmsg rd ra => { xr := [ra.val], xw := [rd.val] }
  | .pollmsg rd ra => { xr := [ra.val], xw := [rd.val] }
  | .uien ra => { xr := [ra.val] }
  | .taskw rd ra rb => { xr := [ra.val, rb.val], xw := [rd.val] }
  | .done => {}
  | .wrc rd ra rb _ => { xr := [rd.val, ra.val, rb.val] }
  | .wrcC rd ra rb _ => { xr := [rd.val, ra.val, rb.val] }
  | .ctrrd rd _ => { xw := [rd.val] }
  | .ctrset ra _ => { xr := [ra.val] }
  | .susp rd ra rb _ => { xr := [ra.val, rb.val], xw := [rd.val] }
  | .force rd ra => { xr := [ra.val], xw := [rd.val] }
  | .spark rd ra => { xr := [ra.val], xw := [rd.val] }
  | .mkval rd ra rb => { xr := [ra.val, rb.val], xw := [rd.val] }
  | .peek rd ra => { xr := [ra.val], xw := [rd.val] }
  | .keep ra => { xr := [ra.val] }
  | .drop ra => { xr := [ra.val] }
  | .budget rd ra _ => { xr := [ra.val], xw := [rd.val] }
  | .gjoin rd ra => { xr := [ra.val], xw := [rd.val] }
  | .gleave rd ra => { xr := [ra.val], xw := [rd.val] }
  | .gbar rd ra => { xr := [ra.val], xw := [rd.val] }
  | .follow ra rb => { xr := [ra.val, rb.val] }
  | .syncall rd => { xw := [rd.val] }
  | .tree rd ra rb _ => { xr := [ra.val, rb.val], xw := [rd.val] }
  | .phase _ => {}
  | .sendat vr _ _ => { vr := [vr.val] }
  | .recvat vr _ _ => { vw := [vr.val] }
  | .viewreg rd ra => { xr := [ra.val], xw := [rd.val] }
  | .viewdrop rd ra => { xr := [ra.val], xw := [rd.val] }
  | .viewst rd ra rb => { xr := [ra.val, rb.val], xw := [rd.val] }
  | .kvslot rd ra rb => { xr := [ra.val, rb.val], xw := [rd.val] }
  | .kvapp rd ra rb => { xr := [ra.val, rb.val], xw := [rd.val] }
  | .kvtrunc rd ra rb => { xr := [rd.val, ra.val, rb.val] }
  | .kvevict rd ra rb => { xr := [ra.val, rb.val], xw := [rd.val] }
  | .rmapset ra rb => { xr := [ra.val, rb.val] }
  | .tlbinv ra rb => { xr := [ra.val, rb.val] }
  | .gqpush vr ra rb => { xr := [ra.val, rb.val], vr := runOf vr.val 4 }
  | .gqpop rd ra vr => { xr := [ra.val], xw := [rd.val], vw := runOf vr.val 4 }
  | .gqwin rd ra => { xr := [ra.val], xw := [rd.val] }
  | .cepost rd ra => { xr := [ra.val], xw := [rd.val] }
  | .cearb rd ra => { xr := [ra.val], xw := [rd.val] }
  | .region rd ra => { xr := [ra.val], xw := [rd.val] }
  | .quiet rd => { xw := [rd.val] }
  | .allot ra _ => { xr := [ra.val] }
  | .live ra => { xr := [ra.val] }
  | .anop => {}
  | .add rd ra rb => { xr := [ra.val, rb.val], xw := [rd.val] }
  | .sub rd ra rb => { xr := [ra.val, rb.val], xw := [rd.val] }
  | .and rd ra rb => { xr := [ra.val, rb.val], xw := [rd.val] }
  | .or rd ra rb => { xr := [ra.val, rb.val], xw := [rd.val] }
  | .xor rd ra rb => { xr := [ra.val, rb.val], xw := [rd.val] }
  | .sll rd ra rb => { xr := [ra.val, rb.val], xw := [rd.val] }
  | .srl rd ra rb => { xr := [ra.val, rb.val], xw := [rd.val] }
  | .sra rd ra rb => { xr := [ra.val, rb.val], xw := [rd.val] }
  | .mul rd ra rb => { xr := [ra.val, rb.val], xw := [rd.val] }
  | .mulh rd ra rb => { xr := [ra.val, rb.val], xw := [rd.val] }
  | .mulhu rd ra rb => { xr := [ra.val, rb.val], xw := [rd.val] }
  | .div rd ra rb => { xr := [ra.val, rb.val], xw := [rd.val] }
  | .divu rd ra rb => { xr := [ra.val, rb.val], xw := [rd.val] }
  | .rem rd ra rb => { xr := [ra.val, rb.val], xw := [rd.val] }
  | .remu rd ra rb => { xr := [ra.val, rb.val], xw := [rd.val] }
  | .min rd ra rb => { xr := [ra.val, rb.val], xw := [rd.val] }
  | .max rd ra rb => { xr := [ra.val, rb.val], xw := [rd.val] }
  | .minu rd ra rb => { xr := [ra.val, rb.val], xw := [rd.val] }
  | .maxu rd ra rb => { xr := [ra.val, rb.val], xw := [rd.val] }
  | .slt rd ra rb => { xr := [ra.val, rb.val], xw := [rd.val] }
  | .sltu rd ra rb => { xr := [ra.val, rb.val], xw := [rd.val] }
  | .clz rd ra => { xr := [ra.val], xw := [rd.val] }
  | .ctz rd ra => { xr := [ra.val], xw := [rd.val] }
  | .popc rd ra => { xr := [ra.val], xw := [rd.val] }
  | .addi rd ra _ => { xr := [ra.val], xw := [rd.val] }
  | .andi rd ra _ => { xr := [ra.val], xw := [rd.val] }
  | .ori rd ra _ => { xr := [ra.val], xw := [rd.val] }
  | .xori rd ra _ => { xr := [ra.val], xw := [rd.val] }
  | .slli rd ra _ => { xr := [ra.val], xw := [rd.val] }
  | .srli rd ra _ => { xr := [ra.val], xw := [rd.val] }
  | .srai rd ra _ => { xr := [ra.val], xw := [rd.val] }
  | .slti rd ra _ => { xr := [ra.val], xw := [rd.val] }
  | .vadd rd ra rb pg _ => { vr := [ra.val, rb.val], vw := [rd.val], pr := [pg.val] }
  | .vsub rd ra rb pg _ => { vr := [ra.val, rb.val], vw := [rd.val], pr := [pg.val] }
  | .vmul rd ra rb pg _ => { vr := [ra.val, rb.val], vw := [rd.val], pr := [pg.val] }
  | .vmulz rd ra rb pg _ => { vr := [ra.val, rb.val], vw := [rd.val], pr := [pg.val] }
  | .vmin rd ra rb pg _ => { vr := [ra.val, rb.val], vw := [rd.val], pr := [pg.val] }
  | .vmax rd ra rb pg _ => { vr := [ra.val, rb.val], vw := [rd.val], pr := [pg.val] }
  | .vfma rd ra rb pg _ => { vr := [ra.val, rb.val], vw := [rd.val], pr := [pg.val] }
  | .vfmaz rd ra rb pg _ => { vr := [ra.val, rb.val], vw := [rd.val], pr := [pg.val] }
  | .vaddX rd ra rb pg _ => { xr := [rb.val], vr := [ra.val], vw := [rd.val], pr := [pg.val] }
  | .vsubX rd ra rb pg _ => { xr := [rb.val], vr := [ra.val], vw := [rd.val], pr := [pg.val] }
  | .vmulX rd ra rb pg _ => { xr := [rb.val], vr := [ra.val], vw := [rd.val], pr := [pg.val] }
  | .vmulzX rd ra rb pg _ => { xr := [rb.val], vr := [ra.val], vw := [rd.val], pr := [pg.val] }
  | .vminX rd ra rb pg _ => { xr := [rb.val], vr := [ra.val], vw := [rd.val], pr := [pg.val] }
  | .vmaxX rd ra rb pg _ => { xr := [rb.val], vr := [ra.val], vw := [rd.val], pr := [pg.val] }
  | .vfmaX rd ra rb pg _ => { xr := [rb.val], vr := [ra.val], vw := [rd.val], pr := [pg.val] }
  | .vfmazX rd ra rb pg _ => { xr := [rb.val], vr := [ra.val], vw := [rd.val], pr := [pg.val] }
  | .vand rd ra rb pg _ => { vr := [ra.val, rb.val], vw := [rd.val], pr := [pg.val] }
  | .vor rd ra rb pg _ => { vr := [ra.val, rb.val], vw := [rd.val], pr := [pg.val] }
  | .vxor rd ra rb pg _ => { vr := [ra.val, rb.val], vw := [rd.val], pr := [pg.val] }
  | .vandn rd ra rb pg _ => { vr := [ra.val, rb.val], vw := [rd.val], pr := [pg.val] }
  | .vshl rd ra rb pg _ => { vr := [ra.val, rb.val], vw := [rd.val], pr := [pg.val] }
  | .vshr rd ra rb pg _ => { vr := [ra.val, rb.val], vw := [rd.val], pr := [pg.val] }
  | .vsar rd ra rb pg _ => { vr := [ra.val, rb.val], vw := [rd.val], pr := [pg.val] }
  | .vrotl rd ra rb pg _ => { vr := [ra.val, rb.val], vw := [rd.val], pr := [pg.val] }
  | .vceq rd ra rb pg _ => { vr := [ra.val, rb.val], pw := [rd.val], pr := [pg.val] }
  | .vcne rd ra rb pg _ => { vr := [ra.val, rb.val], pw := [rd.val], pr := [pg.val] }
  | .vclt rd ra rb pg _ => { vr := [ra.val, rb.val], pw := [rd.val], pr := [pg.val] }
  | .vcle rd ra rb pg _ => { vr := [ra.val, rb.val], pw := [rd.val], pr := [pg.val] }
  | .vcgt rd ra rb pg _ => { vr := [ra.val, rb.val], pw := [rd.val], pr := [pg.val] }
  | .vcge rd ra rb pg _ => { vr := [ra.val, rb.val], pw := [rd.val], pr := [pg.val] }
  | .vcnan rd ra pg _ => { vr := [ra.val], pw := [rd.val], pr := [pg.val] }
  | .vcinf rd ra pg _ => { vr := [ra.val], pw := [rd.val], pr := [pg.val] }
  | .vmov rd ra pg => { vr := [ra.val], vw := [rd.val], pr := [pg.val] }
  | .vsel rd ra rb pg => { vr := [ra.val, rb.val], vw := [rd.val], pr := [pg.val] }
  | .vbcast rd rb pg _ => { xr := [rb.val], vw := [rd.val], pr := [pg.val] }
  | .pand rd ra rb => { pr := [ra.val, rb.val], pw := [rd.val] }
  | .por rd ra rb => { pr := [ra.val, rb.val], pw := [rd.val] }
  | .pxor rd ra rb => { pr := [ra.val, rb.val], pw := [rd.val] }
  | .pnot rd ra => { pr := [ra.val], pw := [rd.val] }
  | .vcvt rd ra _ _ pg _ => { vr := [ra.val], vw := [rd.val], pr := [pg.val] }
  | .vrsum rd ra pg _ => { vr := [ra.val], xw := [rd.val], pr := [pg.val] }
  | .vrmax rd ra pg _ => { vr := [ra.val], xw := [rd.val], pr := [pg.val] }
  | .vrmin rd ra pg _ => { vr := [ra.val], xw := [rd.val], pr := [pg.val] }
  | .vramax rd ra pg _ => { vr := [ra.val], xw := [rd.val], pr := [pg.val] }
  | .vrssq rd ra pg _ => { vr := [ra.val], xw := [rd.val], pr := [pg.val] }
  | .vshuf rd ra rb pg _ => { vr := [ra.val, rb.val], vw := [rd.val], pr := [pg.val] }
  | .vrotr rd ra rb pg _ => { vr := [ra.val], xr := [rb.val], vw := [rd.val], pr := [pg.val] }
  | .vslup rd ra rb pg _ => { vr := [ra.val], xr := [rb.val], vw := [rd.val], pr := [pg.val] }
  | .vsldn rd ra rb pg _ => { vr := [ra.val], xr := [rb.val], vw := [rd.val], pr := [pg.val] }
  | .vzip rd ra rb pg _ => { vr := [ra.val, rb.val], vw := [rd.val], pr := [pg.val] }
  | .vunzip rd ra rb pg _ => { vr := [ra.val, rb.val], vw := [rd.val], pr := [pg.val] }
  | .vexp2 rd ra pg _ => { vr := [ra.val], vw := [rd.val], pr := [pg.val] }
  | .vlog2 rd ra pg _ => { vr := [ra.val], vw := [rd.val], pr := [pg.val] }
  | .vrcp rd ra pg _ => { vr := [ra.val], vw := [rd.val], pr := [pg.val] }
  | .vrsq rd ra pg _ => { vr := [ra.val], vw := [rd.val], pr := [pg.val] }
  | .vexp rd ra pg _ => { vr := [ra.val], vw := [rd.val], pr := [pg.val] }
  | .vtanh rd ra pg _ => { vr := [ra.val], vw := [rd.val], pr := [pg.val] }
  | .vsilu rd ra pg _ => { vr := [ra.val], vw := [rd.val], pr := [pg.val] }
  | .vstats _ ra rb pg _ => { vr := [ra.val], xr := [rb.val], pr := [pg.val] }
  | .vsmx rd ra rb pg _ => { vr := [ra.val], xr := [rb.val], vw := [rd.val], pr := [pg.val] }
  | .vlse rd rb => { xr := [rb.val], xw := [rd.val] }
  | .sbget rd rb pg => { xr := [rb.val], vw := [rd.val], pr := [pg.val] }
  | .sbset ra rb pg => { xr := [rb.val], vr := [ra.val], pr := [pg.val] }
  | .vnrd rd ra pd pg _ => { vr := [ra.val], vw := [rd.val], pw := [pd.val], pr := [pg.val] }
  | .vloop ra _ => { xr := [ra.val] }
  | .vsync => {}
  | .vseqst rd => { xw := [rd.val] }
  | .vext rd ra rb _ => { vr := [ra.val], xr := [rb.val], xw := [rd.val] }
  | .vins rd ra rb _ => { xr := [ra.val, rb.val], vw := [rd.val] }
  | .viota rd pg _ => { vw := [rd.val], pr := [pg.val] }
  | .vrrd rd ra rb pg len => { vr := runOf ra.val (len.val + 1), xr := [rb.val], vw := [rd.val], pr := [pg.val] }
  | .vrwr rd ra rb pg len => { vr := [ra.val], xr := [rb.val], vw := runOf rd.val (len.val + 1), pr := [pg.val] }
  | .hvbind rd ra rb => { hr := [ra.val, rb.val], hw := [rd.val] }
  | .hvperm rd ra _ _ _ => { hr := [ra.val], hw := [rd.val] }
  | .hvpermX rd ra xs => { hr := [ra.val], xr := [xs.val], hw := [rd.val] }
  | .hvbund rd ra xs _ => { hr := [ra.val], xr := [xs.val], br := [rd.val], bw := [rd.val] }
  | .hvthr rd ra => { br := [ra.val], hw := [rd.val] }
  | .hvclr rd => { bw := [rd.val] }
  | .hvclrH rd => { hw := [rd.val] }
  | .hvdist ra rb xs => { hr := [ra.val, rb.val], xw := [xs.val] }
  | .hvnear ra xs => { hr := [ra.val], xr := [xs.val], xw := [xs.val] }
  | .hvnear2 ra xs => { hr := [ra.val], xr := [xs.val], xw := [xs.val, xs.val + 1] }
  | .hvmov rd ra => { hr := [ra.val], hw := [rd.val] }
  | .hvmovLfsr rd => { hw := [rd.val] }
  | .hvmovSeed ra => { hr := [ra.val] }
  | .userInterrupt => {}
  | .registerFill _ => {}
  | .loadDelivery => {}
  | .streamBlockRead _ => {}
  | .entryLaunch _ _ => {}
  | .wrcArrival _ _ _ _ => {}
  | .user _ _ => {}
  | .resumeMessage _ _ => {}
  | .lockRetry _ => {}
  | .handleHomeCheck _ _ _ => {}
  | .evaluationCompletion _ _ => {}
  | .hready _ _ _ _ => {}
  | .sparkConversion _ => {}
  | .waveBoundary => {}
  | .deadlock _ _ => {}
  | .gbarRelease _ _ => {}
  | .epochBoundary _ => {}
  | .exchangeTransfer _ _ => {}
  | .vnrdMatch _ _ => {}
  | .vnrdTimeout _ => {}
  | .itemMemorySearch _ => {}
  | .imctlWrite _ => {}
  | .syncallRelease _ => {}
  | .treeRoundCompletion _ _ => {}
  | .copyCompletion _ _ => {}
  | .engineFault _ _ _ _ _ => {}
  | .mma _ => {}
  | .mmag _ => {}
  | .mzero _ => {}
  | .mldacc _ => {}
  | .mstacc _ => {}
  | .mfmt _ => {}
  | .mswap _ => {}
  | .mtable _ => {}
  | .mxpose _ => {}
  | .msig _ => {}
  | .mops _ => {}
  | .matrixCompletion _ => {}
  | .derive _ _ _ _ => {}
  | .publication _ _ _ _ => {}
  | .translationWalk _ _ _ => {}
  | .collectiveStart _ _ _ => {}
  | .ringStep _ _ _ _ => {}
  | .collectiveCompletion _ _ _ => {}
  | .portError _ => {}
  | .linkDeath _ => {}
  | .correctedError _ _ => {}
  | .uncorrectedError _ => {}
  | .patrolScrub _ _ => {}
  | .testdone _ _ _ _ => {}
  | .clampSample _ _ => {}
  | .clampRecovery _ => {}
  | .thermalAlert _ _ => {}
  | .thermalHold _ => {}
  | .thermalHoldEnd _ _ => {}
  | .criticalTemperature _ _ => {}
  | .clockHoldEnd _ => {}
  | .powerStateExit _ _ => {}
  | .die => {}
  | .clusters => {}
  | .optcores => {}
  | .limits => {}
  | .attest => {}
  | .eventring => {}
  | .pcreate => {}
  | .presize => {}
  | .pretire => {}
  | .preset => {}
  | .pdestroy => {}
  | .ptune => {}
  | .hostWrite _ _ _ => {}
  | .hostRead _ => {}
  | .apertureBaseWrite _ => {}
  | .registerWrite _ _ => {}
  | .launchDoorbell _ _ _ => {}
  | .placeTask _ => {}
  | .packetReject _ _ => {}
  | .preemptHalt _ => {}
  | .launchCompletion _ => {}
  | .watchdogExpiry _ => {}
  | .partitionReset _ _ => {}
  | .boot => {}
  | .accessPerformed => {}
  | .homeAnswer _ => {}
  | .engineRowMove _ _ => {}
  | .endpointLinkTraining _ _ _ => {}

end Sys2Proof.Machine
end

