-- ==== Sys2Proof/Machine/Ops.lean ====
section
/-! DEFINITION. The named operations over the state: registers (R36), tasks and cores, messages (R195, R196), the
ways a word ends, taking a trap (R72 to R77) and returning from one (R75). -/

namespace Sys2Proof.Machine

/-- The outcome of one instruction or step. -/
abbrev Out := Host.Outcome State Fault Refusal

/-! ## Registers -/

/-- The task whose registers the executing word reads: the state before the pair, for its A word (R32). -/
def State.rd (s : State) : Task := s.old.getD s.t

/-- XRead (R36). -/
def Task.xr (t : Task) (n : Reg) : W64 := if n = 0 then 0 else t.x[n]
/-- XWrite (R36): writes to x0 are discarded. -/
def Task.xw (t : Task) (n : Reg) (v : W64) : Task := if n = 0 then t else { t with x := t.x.set n v }
/-- PRead (R36). -/
def Task.pr (t : Task) (n : Pg) : PReg := if n = 0 then BitVec.allOnes 256 else t.p[n]
/-- PWrite (R36). -/
def Task.pw (t : Task) (n : Pg) (v : PReg) : Task := if n = 0 then t else { t with p := t.p.set n v }
/-- Vector register. -/
def Task.vr (t : Task) (n : Reg) : VReg := t.v[n]
/-- Writing a vector register sets its LIVEM bit (R27); a register that an ALLOT of the same pair has given up has none
(R60). -/
def Task.vw (t : Task) (n : Reg) (v : VReg) : Task :=
  { t with v := t.v.set n v, livem := if n.val < t.allotn then t.livem ||| (1 <<< n.val) else t.livem }
def Task.hr (t : Task) (n : HIdx) : HReg := t.h[n]
def Task.hw (t : Task) (n : HIdx) (v : HReg) : Task := { t with h := t.h.set n v }
/-- Counter array n mod 4; codes 4 to 7 never reach here (R36). -/
def Task.br (t : Task) (n : HIdx) : BArr := t.b.get (Fin.ofNat 4 n.val)
def Task.bw (t : Task) (n : HIdx) (v : BArr) : Task := { t with b := t.b.set (n.val % 4) v (by omega) }

def State.xr (s : State) (n : Reg) : W64 := s.rd.xr n
def State.pr (s : State) (n : Pg) : PReg := s.rd.pr n
def State.vr (s : State) (n : Reg) : VReg := s.rd.vr n
def State.hr (s : State) (n : HIdx) : HReg := s.rd.hr n
def State.br (s : State) (n : HIdx) : BArr := s.rd.br n
def State.xw (s : State) (n : Reg) (v : W64) : State := { s with t := s.t.xw n v }
def State.vw (s : State) (n : Reg) (v : VReg) : State := { s with t := s.t.vw n v }
def State.pw (s : State) (n : Pg) (v : PReg) : State := { s with t := s.t.pw n v }
def State.hw (s : State) (n : HIdx) (v : HReg) : State := { s with t := s.t.hw n v }
def State.bw (s : State) (n : HIdx) (v : BArr) : State := { s with t := s.t.bw n v }

/-- Sext and Zext (R36). -/
def sext (w : Nat) (v : BitVec w) : W64 := v.signExtend 64
def zext (w : Nat) (v : BitVec w) : W64 := v.setWidth 64

/-! ## Cores, clusters, partitions, tasks -/

def State.core (s : State) (c : Nat) : Core := s.cores.getD c {}
def State.setCore (s : State) (c : Nat) (k : Core) : State := { s with cores := s.cores.put c k }
def State.cluster (s : State) (k : Nat) : Cluster := s.clusters.getD k {}
def State.setCluster (s : State) (k : Nat) (c : Cluster) : State := { s with clusters := s.clusters.put k c }
def State.part (s : State) (p : Nat) : Part := s.parts.getD p {}
def State.setPart (s : State) (p : Nat) (q : Part) : State := { s with parts := s.parts.put p q }

/-- An optimiser core's number (R7). -/
def isOpt (c : Nat) : Bool := decide (0x1000 ≤ c ∧ c < 0x1060)
/-- A compute core's number (R7). -/
def isCompute (c : Nat) : Bool := decide (c < 4096)
/-- Cluster of a compute core (R7). -/
def clusterOf (c : Nat) : Nat := c / 8
/-- Die of a core (R7, R302, R317). -/
def dieOf (c : Nat) : Nat := if c < 4096 then c / 1024 else (c - 0x1000) / 24

/-- A core of the partition. -/
def State.inPart (s : State) (p c : Nat) : Bool :=
  !(s.part p).gone.contains c &&
    ((isCompute c && (s.part p).clusters.contains (clusterOf c)) || (isOpt c && (s.part p).opts.contains (c - 0x1000)))

/-- The core belongs to some partition. -/
def State.owned (s : State) (c : Nat) : Bool := s.parts.any fun p => s.inPart p.1 c

/-- Insert a number into a rising list, once. -/
def insertOnce (n : Nat) : List Nat → List Nat
  | [] => [n]
  | m :: r => if n < m then n :: m :: r else if n = m then m :: r else m :: insertOnce n r

/-- Bring the focused task back among the others; the focus is then empty. -/
def State.unfocus (s : State) : State :=
  if s.t.tid = 0 then { s with old := none } else { s with tasks := s.tasks.put s.t.tid s.t, t := {}, old := none }
/-- Bring a task into focus. -/
def State.focus (s : State) (tid : Nat) : State :=
  let u := s.unfocus
  match u.tasks.find tid with
  | some t => { u with t := t, tasks := u.tasks.del tid }
  | none => u

/-- A task by number. -/
def State.task (s : State) (tid : Nat) : Option Task :=
  if tid = 0 then none else if s.t.tid = tid then some s.t else s.tasks.find tid
/-- Put a task back. -/
def State.setTask (s : State) (t : Task) : State :=
  if s.t.tid = t.tid then { s with t := t } else { s with tasks := s.tasks.put t.tid t }
/-- Every task, by number. -/
def State.allTasks (s : State) : List Task := (if s.t.tid = 0 then s.tasks else s.tasks.put s.t.tid s.t).vals
def State.modTask (s : State) (tid : Nat) (f : Task → Task) : State :=
  match s.task tid with
  | some t => s.setTask (f t)
  | none => s

/-- The vector TASKID of a task (R8). -/
def Task.taskid (t : Task) : W32 := BitVec.ofNat 32 t.tid

/-- Next order stamp. -/
def State.bump (s : State) : State := { s with stamp := s.stamp + 1 }

/-- A parked task becomes ready (R21), with what it completes with. -/
def State.wakeTask (s : State) (tid : Nat) (w : Wake) : State :=
  (s.modTask tid fun t => { t with run := .ready, wake := some w, since := s.stamp }).bump

/-- The task, of those that pass the test, parked (or ready) longest. -/
def oldest (p : Task → Bool) : List Task → Option Task
  | [] => none
  | t :: r =>
    match oldest p r with
    | none => if p t then some t else none
    | some u => if p t && decide (t.since ≤ u.since) then some t else some u

/-! ## Time (R6, R321, R323, R324) -/

def State.die (s : State) (d : Nat) : Die := s.pkg.dies.getD d {}
def State.setDie (s : State) (d : Nat) (x : Die) : State := { s with pkg := { s.pkg with dies := s.pkg.dies.put d x } }
/-- Cycles of a die's clock since power-on. -/
def State.clock (s : State) (d : Nat) : Nat := s.now - (s.die d).lag
/-- Cycles in which a core was free to issue since power-on. -/
def State.issued (s : State) (c : Nat) : Nat :=
  s.now - (s.die (dieOf c)).gated - (if isOpt c then (s.core c).idle else (s.cluster (clusterOf c)).idle)
/-- What a clock reads. -/
def State.reads (s : State) : Clk → Nat
  | .die d => s.clock d
  | .issue c => s.issued c
/-- The clock of the die of the task in focus, and the issue cycles of its core. -/
def State.tclock (s : State) : Nat := s.clock (dieOf s.t.core)
def State.tissued (s : State) : Nat := s.issued s.t.core
/-- Schedule an event n cycles of a clock from now. -/
def State.after (s : State) (c : Clk) (n : Nat) (i : Event) : State := { s with timed := s.timed ++ [(c, s.reads c + n, i)] }
/-- The clock of a core's die. -/
def dieClk (c : Nat) : Clk := .die (dieOf c)

/-- Schedule an event in real time, in cycles of 1.9 GHz (after the events already due then). -/
def insertDue (d : Nat) (i : Event) : List (Nat × Event) → List (Nat × Event)
  | [] => [(d, i)]
  | (e, j) :: r => if d < e then (d, i) :: (e, j) :: r else (e, j) :: insertDue d i r
def State.at_ (s : State) (delay : Nat) (i : Event) : State := { s with sched := insertDue (s.now + delay) i s.sched }

/-! ## How a word ends -/

/-- The word has had its effect. -/
def fin (s : State) : Out := .next { s with t := { s.t with last := .done, wake := none } }
/-- The word writes a scalar register and ends. -/
def finX (rd : Reg) (v : W64) (s : State) : Out := fin (s.xw rd v)
/-- Nothing happens; the unit issues again. -/
def stall (s : State) : Out := .next { s with t := { s.t with last := .stalled } }
/-- The unit waits at issue for the sequencer: a vector-precise trap may be delivered here, even in a delay slot (R77,
R201). -/
def stallSeq (s : State) : Out := .next { s with t := { s.t with last := .stalled, trapWait := true } }
/-- The word has had its effect; the next unit issues n cycles of the die later (R6, R383). -/
def finAfter (n : Nat) (s : State) : Out := fin { s with t := { s.t with hold := s.tclock + n } }
/-- The task parks at this unit (R21), waiting on a handle or address (R101). -/
def parkOn (on : W64) (p : Park) (s : State) : Out :=
  .next { s with t := { s.t with run := .parked p, waitOn := on, since := s.stamp, last := .parked, wake := none }, stamp := s.stamp + 1 }
/-- The task parks at this unit, on no handle or address. -/
def park (p : Park) (s : State) : Out := parkOn 0 p s

/-! ## Messages -/

/-- A message word (R195): source class and number, kind and payload. -/
def mkMsg (srck src kind : Nat) (payload : BitVec 48) : W64 :=
  BitVec.ofNat 3 srck ++ BitVec.ofNat 1 (src / 256) ++ BitVec.ofNat 4 kind ++ BitVec.ofNat 8 src ++ payload
/-- Kind of a message. -/
def msgKind (m : W64) : Nat := m.toNat / 2 ^ 56 % 16
/-- Source class and number of a core as a sender (R195). -/
def coreSrc (c : Nat) : Nat × Nat := if c < 4096 then (0, clusterOf c) else (1, c - 0x1000)
/-- A message that a core sends. -/
def coreMsg (c kind : Nat) (payload : BitVec 48) : W64 := mkMsg (coreSrc c).1 (coreSrc c).2 kind payload
/-- A mask selects a kind; mask 0 selects every kind (R196). -/
def selects (mask : W16) (kind : Nat) : Bool := mask == 0 || mask.getLsbD kind

/-- The task that waits longest for a message of this kind on this core (R196). -/
def State.waiter (s : State) (c kind : Nat) : Option Task :=
  oldest (fun t => t.core == c && (match t.run with | .parked (.message m) => selects m kind | _ => false)) s.allTasks

/-- A mailbox holds 32 messages (R195). -/
def mailboxSize : Nat := 32

/-- A message of the matrix unit: MOPS, MDONE, MNF (R195). -/
def matrixKind (m : W64) : Bool := msgKind m == 3 || msgKind m == 4 || msgKind m == 12

/-- A message enters a mailbox, or is held by its sender while the mailbox is full (R197). -/
def State.post (s : State) (c : Nat) (m : W64) : State :=
  let k := s.core c
  if k.mailbox.length < mailboxSize && k.held.isEmpty then s.setCore c { k with mailbox := k.mailbox ++ [m] }
  else s.setCore c { k with held := k.held ++ [m] }

/-- The sender that a message names: source class and number (R195). -/
def msgSource (m : W64) : Nat × Nat := (m.toNat / 2 ^ 60, m.toNat / 2 ^ 48 % 256)
/-- The sender of a message still holds one that it sent before (R197). -/
def State.senderHolds (s : State) (c : Nat) (m : W64) : Bool := (s.core c).held.any fun h => msgSource h == msgSource m
/-- A message arrives at a core (R196, R197): it wakes a waiting task, or enters the mailbox, behind what its sender still holds. A
waiter that has a matrix report to take with a message of the unit takes no message (R244): it tests again. A core that has left
its partition refuses it (R351). -/
def State.deliver (s : State) (c : Nat) (m : W64) : State :=
  if !s.owned c then s
  else match if s.senderHolds c m then none else s.waiter c (msgKind m) with
  | some t => if matrixKind m && t.matrixReport.isSome then (s.post c m).wakeTask t.tid .retry else s.wakeTask t.tid (.value m)
  | none => s.post c m

/-- The sender of a message still holds it, for the mailbox is full: the command that sent it does not complete (R197). -/
def State.holds (s : State) (c : Nat) (m : W64) : Bool := (s.core c).held.contains m

/-- Split off the oldest message that a mask selects. -/
def takeMsg (mask : W16) : List W64 → Option (W64 × List W64)
  | [] => none
  | m :: r => if selects mask (msgKind m) then some (m, r) else
    match takeMsg mask r with
    | some (x, l) => some (x, m :: l)
    | none => none

/-- The mailbox after a message has been taken: held messages move up. -/
def Core.refill (k : Core) : Core :=
  let room := mailboxSize - k.mailbox.length
  { k with mailbox := k.mailbox ++ k.held.take room, held := k.held.drop room }

/-! ## Traps -/

/-- Trap entry point (R72). -/
def trapEntry : W64 := 0x0100_0000

/-- Registers x24 to x31 (R73). -/
def Task.high (t : Task) : Vector W64 8 := Vector.ofFn fun i => t.x[i.val + 24]
/-- Load x24 to x31. -/
def Task.setHigh (t : Task) (h : Vector W64 8) : Task :=
  { t with x := Vector.ofFn fun i => if c : 24 ≤ i.val then h[i.val - 24] else t.x[i] }

/-- Loads in flight write their destinations (R178, R181). -/
def Task.deliverLoads (t : Task) : Task :=
  let u := t.loads.foldl (fun u l => u.xw l.rd l.value) t
  { u with loads := [] }

/-- A vector register with one byte replaced. -/
def vSetByte (v : VReg) (i : Nat) (b : Byte) : VReg :=
  (v &&& ~~~ ((0xFF : VReg) <<< (8 * i))) ||| (b.setWidth 2048 <<< (8 * i))
/-- A vector register with some bytes replaced. -/
def vSetBytes (v : VReg) (l : List (Nat × Byte)) : VReg := l.foldl (fun u p => vSetByte u p.1 p.2) v

/-- Compute-phase vector loads in flight write their destinations (R180). -/
def Task.deliverVLoads (t : Task) : Task :=
  let u := t.seq.loads.foldl (fun u l => u.vw l.vr (vSetBytes (u.vr l.vr) l.bytes)) t
  { u with seq := { u.seq with loads := [] } }

/-- Take some answers: they write their destinations. -/
def Task.takeAll (t : Task) (l : List Answer) : Task :=
  l.foldl (fun t a =>
    let t := match a.rd with | some r => t.xw r a.value | none => t
    a.regs.foldl (fun t p => t.vw p.1 p.2) t) t
/-- Everything in flight for the registers writes its destination: answers, scalar loads, vector loads. A trap saves x24 to
x31, and its handler begins, after that (R181; log 49). -/
def Task.landAll (t : Task) : Task := ({ t.takeAll t.answers with answers := [] }).deliverLoads.deliverVLoads

/-- A trap or a pre-emption ends an exchange phase: sends are discarded (R213). -/
def Task.endExchange (t : Task) : Task := if t.st.ph = .x then { t with xsend := [] } else t
/-- The receive slots of a core are cleared (R213); a vector that has crossed and lands only later is in no slot yet (R212). -/
def State.clearSlots (s : State) (c : Nat) : State :=
  let n := s.issued c
  s.setCore c { s.core c with xrecv := (s.core c).xrecv.filter fun e => decide (n < e.2.2.2) }
/-- The receive slots of the core of a task that is in an exchange phase are cleared. -/
def State.endSlots (s : State) (t : Task) : State := if t.st.ph = .x then s.clearSlots t.core else s

/-- A double trap (R74): the second record overwrites the first, the task parks, SUPCORE gets a FAULT. As every trap it ends
a compute or exchange phase (R78, R213). -/
def doubleTrap (c : Cause) (tval : W64) (vec : Bool) (epc btgt : W64) (ds : Bool) (s : State) : State :=
  let t := s.t.landAll.endExchange
  let t' := { t with cause := BitVec.ofNat 64 (c.code + if vec then 256 else 0), tval := tval, epc := epc, btgt := btgt,
                     st := { t.st with ds := ds, ph := .n }, run := .parked .doubleTrap, waitOn := 0, since := s.stamp, last := .parked,
                     xfer := none, slot := none, trapWait := false, wake := none }
  let payload : BitVec 48 := BitVec.ofNat 48 (t.tid % 2 ^ 32 + c.code * 2 ^ 32)
  ({ s.endSlots s.t with t := t' }.bump).deliver (s.part t.part).supcore (coreMsg t.core 6 payload)

/-- Trap entry (R72): `epc`, `btgt` and `ds` are what R57, R72 and R76 set. -/
def enterTrap (c : Cause) (tval : W64) (vec : Bool) (epc btgt : W64) (ds : Bool) (s : State) : State :=
  if s.t.st.s then doubleTrap c tval vec epc btgt ds s
  else
    let t := s.t.landAll.endExchange
    { s.endSlots s.t with
      old := none
      t := { t with trapSave := t.high, cause := BitVec.ofNat 64 (c.code + if vec then 256 else 0), tval := tval,
                    epc := epc, btgt := btgt, st := { t.st with ds := ds, ps := false, s := true, ph := .n },
                    pc := trapEntry, xfer := none, slot := none, trapWait := false, wake := none, last := .trapped } }

/-- What a task waits for at its cluster's item memory or at a lock's home is withdrawn. -/
def State.withdrawn (s : State) (t : Task) : State :=
  let k := clusterOf t.core
  let c := s.cluster k
  { (if t.searching then s.setCluster k { c with searches := c.searches.filter fun e => e.1 != t.tid } else s) with
    lockQueue := s.lockQueue.filter fun l => l.2.2 != t.tid }
/-- What the unit at issue waits for is withdrawn: it will be asked again when the unit issues again. -/
def State.withdraw (s : State) : State :=
  { s.withdrawn s.t with t := { s.t with searching := false, near := none, lockWait := false } }

/-- The sequencer holds nothing that has not completed (R135). -/
def Task.seqEmpty (t : Task) : Bool := t.seq.items.isEmpty && !t.seq.busy

/-- A scalar unit raises a trap (R77): the sequencer drains first; a captured unit cancels its capture (R134
rule 6); a delay slot is recorded by R57. -/
def raise (c : Cause) (tval : W64) (s : State) : Out :=
  if !s.t.seqEmpty then stallSeq s
  else
    let epc := match s.t.seq.cap with | some k => k.at_ | none => s.t.pc
    let s := { s with t := { s.t with seq := { s.t.seq with cap := none } } }
    match s.t.slot with
    | some T => .next (enterTrap c tval false epc T true s)
    | none => .next (enterTrap c tval false epc s.t.btgt false s)

/-- A trap after the word has loaded (R285, R286, R293): what its loads met stays once the trap is taken. -/
def raiseAfter (c : Cause) (tval : W64) (s loaded : State) : Out := raise c tval (if s.t.seqEmpty then loaded else s)

/-- A matrix synchronisation (R244): the pending report is taken as its trap and the instruction has no effect. -/
def takeMatrix (s : State) (k : State → Out) : Out :=
  match s.t.matrixReport with
  | none => k s
  | some (c, tv, rec) =>
    if s.t.seqEmpty then
      raise c tv { s with t := { s.t with matrixReport := none, nfRec := if c = .nonfinite then rec else s.t.nfRec } }
    else raise c tv s

/-- A handle synchronisation (R90): the deferred report is taken as its trap and the instruction has no effect. -/
def takeHandle (s : State) (k : State → Out) : Out :=
  match s.t.handleReport with
  | none => k s
  | some h => if s.t.seqEmpty then raise .handle h { s with t := { s.t with handleReport := none } } else raise .handle h s

/-- TRAPI (R64, R72): EPC is where execution would have continued, DS clear. -/
def raiseTrapi (tval : W64) (s : State) : Out :=
  if !s.t.seqEmpty then stallSeq s
  else
    let nxt := match s.t.slot with | some T => T | none => s.t.pc + BitVec.ofNat 64 s.t.len
    .next (enterTrap .trapi tval false nxt s.t.btgt false s)

/-- The address of the executing word: its unit's, or 4 bytes further for an A word. -/
def Task.wordAddr (t : Task) : W64 := if t.inA then t.pc + 4 else t.pc

/-- The word as a TVAL (R33). -/
def State.tword (s : State) : W64 := s.t.word.setWidth 64

/-! ## The checks of R33, steps 3 to 5 -/

/-- The words that hold a vector or an A-class word of majors 0x10 to 0x1A, 0x1C, 0x1D, or a C-class word of majors 0x18
to 0x1C (R130). -/
def isVector : Instr → Bool
  | .vld .. | .vst .. | .vlds .. | .vsts .. | .vldx .. | .vstx .. | .vstq .. | .vldv .. => true
  | .vadd .. | .vsub .. | .vmul .. | .vmulz .. | .vmin .. | .vmax .. | .vfma .. | .vfmaz .. => true
  | .vaddX .. | .vsubX .. | .vmulX .. | .vmulzX .. | .vminX .. | .vmaxX .. | .vfmaX .. | .vfmazX .. => true
  | .vand .. | .vor .. | .vxor .. | .vandn .. | .vshl .. | .vshr .. | .vsar .. | .vrotl .. => true
  | .vceq .. | .vcne .. | .vclt .. | .vcle .. | .vcgt .. | .vcge .. | .vcnan .. | .vcinf .. => true
  | .vmov .. | .vsel .. | .vbcast .. | .pand .. | .por .. | .pxor .. | .pnot .. | .vcvt .. => true
  | .vrsum .. | .vrmax .. | .vrmin .. | .vramax .. | .vrssq .. => true
  | .vshuf .. | .vrotr .. | .vslup .. | .vsldn .. | .vzip .. | .vunzip .. => true
  | .vexp2 .. | .vlog2 .. | .vrcp .. | .vrsq .. | .vexp .. | .vtanh .. | .vsilu .. => true
  | .vstats .. | .vsmx .. | .vlse .. | .sbget .. | .sbset .. | .vnrd .. => true
  | .vext .. | .vins .. | .viota .. | .vrrd .. | .vrwr .. => true
  | _ => false

/-- Transfers, ERET and URET: DSLOT in a delay slot (R56). -/
def isTransfer : Instr → Bool
  | .j .. | .jl .. | .jr .. | .jlr .. | .beq .. | .bne .. | .blt .. | .bge .. | .bltu .. | .bgeu .. | .eret | .uret => true
  | _ => false

/-- Unavailable on an optimiser core (R41, R205, R210, R289, R304): majors 0x1B, 0x1D, 0x22, A-class 0x20; SENDAT, RECVAT;
the group instructions; KV instructions. -/
def notOnOpt : Instr → Bool
  | .vstq .. | .hvld .. | .hvldB .. | .hvst .. | .hvstB .. | .hvmemst .. => true
  | .susp .. | .force .. | .spark .. | .mkval .. | .peek .. | .keep .. | .drop .. | .budget .. => true
  | .hvbind .. | .hvperm .. | .hvpermX .. | .hvbund .. | .hvthr .. | .hvclr .. | .hvclrH .. => true
  | .hvdist .. | .hvnear .. | .hvnear2 .. | .hvmov .. | .hvmovLfsr .. | .hvmovSeed .. => true
  | .gjoin .. | .gleave .. | .gbar .. | .follow .. | .sendat .. | .recvat .. => true
  | .kvslot .. | .kvapp .. | .kvtrunc .. | .kvevict .. => true
  | _ => false

/-- Supervisor-only instructions (R42). -/
def isSup : Instr → Bool
  | .selftest .. | .resume .. | .tlbinv .. => true
  | _ => false

/-- The row and gradient queue instructions check their run in step 6 (R33). -/
def lateRun : Instr → Bool
  | .rowadd .. | .rowmax .. | .rowld .. | .rowst .. | .gqpush .. | .gqpop .. => true
  | _ => false

/-- The first register of a list at or above the allotment. -/
def firstOver (n : Nat) : List Nat → Option Nat
  | [] => none
  | r :: l => if n ≤ r then some r else firstOver n l

/-- Vector registers in the order they are checked: the destination first (DESIGN CHOICE, log 71: R33 and R36 give no order among the
names of one word), and for VRRD and VRWR the other operand before the window (R149). -/
def vecNames (i : Instr) : List Nat :=
  match i with
  | .vrrd .. | .vldv .. => (regsOf i).vw ++ (regsOf i).vr
  | .vrwr .. => (regsOf i).vr ++ (regsOf i).vw
  | _ => (regsOf i).vw ++ (regsOf i).vr

/-- Step 3 (R33): the core's kind, then a transfer in a delay slot. -/
def check3 (i : Instr) (s : State) : Option Trap :=
  if isOpt s.t.core && notOnOpt i then some (.illegal, s.tword)
  else if s.t.slot.isSome && isTransfer i then some (.dslot, s.tword)
  else none

/-- Step 4 (R33, R42). -/
def check4 (i : Instr) (s : State) : Option Trap :=
  if isSup i && !s.t.st.s then some (.priv, s.tword) else none

/-- HRead, HWrite, BRead, BWrite (R36) over the names in field order; true marks a counter array. -/
def firstHyper (s : State) : List (Bool × Nat) → Option Trap
  | [] => none
  | (isB, n) :: l =>
    if isB && decide (3 < n) then some (.illegal, s.tword)
    else if !s.rd.hvDecl then some (.allot, BitVec.ofNat 64 ((if isB then 0x200 else 0x100) + n))
    else firstHyper s l

/-- Step 5 (R33, R36): register names against the allotment and the declared hypervector state; of several hypervector names the
destinations come first (DESIGN CHOICE, log 71: R36 and R157 give no order). -/
def check5 (i : Instr) (s : State) : Option Trap :=
  let r := regsOf i
  if lateRun i then none
  else match firstOver s.rd.allotn (vecNames i) with
    | some n => some (.allot, BitVec.ofNat 64 n)
    | none =>
      firstHyper s (r.hw.map (false, ·) ++ r.bw.map (true, ·) ++ r.hr.map (false, ·) ++ r.br.map (true, ·))

/-- A capture takes vector words only (R134 rule 3); VLOOP never in a pair or a delay slot (rule 1). -/
def checkCap (i : Instr) (s : State) : Option Trap :=
  if s.t.seq.cap.isSome && !isVector i then some (.illegal, s.tword) else none

/-- The checks of R33 that come before an instruction's own. -/
def check (i : Instr) (s : State) : Option Trap :=
  match check3 i s with
  | some x => some x
  | none => match checkCap i s with
    | some x => some x
    | none => match check4 i s with
      | some x => some x
      | none => check5 i s

/-- Run a word's own part once the checks of R33 have passed. -/
def gate (i : Instr) (s : State) (k : State → Out) : Out :=
  match check i s with
  | some (c, tv) => raise c tv s
  | none => k s

/-- Instructions that wait until the sequencer is empty and every vector word has completed, compute-phase loads
among them (R132, R180). An A word waits for the words older than its pair (log 55). -/
def drained (s : State) (k : State → Out) : Out := if s.rd.seqEmpty then k { s with t := s.t.deliverVLoads } else stallSeq s

/-- The first check of step 6 in a compute phase (R179): TVAL is the address named, or 0. -/
def noCompute (addr : W64) (s : State) (k : State → Out) : Out :=
  if s.rd.st.ph = .c then raise .phase addr s else k s

/-- A woken instruction completes with what the wake brought (R21); otherwise it makes its test. -/
def onWake (s : State) (done : W64 → Out) (k : Out) : Out :=
  match s.t.wake with
  | some (.value v) => done v
  | some (.trap c tv) => raise c tv s
  | _ => k

/-- Why an access is not made: the trap that it raises, or none where it waits for a unit under test (R223, R327); the
state that its walks leave, with what they have cached and initialised (R285, R286); and the place of an uncorrectable error
that it met. -/
structure Miss where
  trap : Option Trap
  s : State
  err : Option Nat := none
deriving DecidableEq, Repr
/-- An access is refused with a trap; what its walks did stays. -/
def State.refuse {α : Type} (s : State) (c : Cause) (tv : W64) : Except Miss α := .error ⟨some (c, tv), s, none⟩
/-- An agent reads a place that holds an uncorrectable error: the unit there is tested (R326, R328). -/
def State.metError (s : State) : Option Nat → State
  | some pa => s.at_ 0 (.uncorrectedError pa)
  | none => s

/-- Go on with an access, or with what refuses it: its trap, or the wait for a unit under test (R223). -/
def orTrap {α : Type} (r : Except Miss α) (k : α → Out) : Out :=
  match r with
  | .ok a => k a
  | .error m =>
    match m.trap with
    | some (c, tv) => raise c tv (if m.s.t.seqEmpty then m.s.metError m.err else m.s)
    | none => stall m.s

end Sys2Proof.Machine
end

