-- ==== Sys2Proof/Machine/Operands.lean ====
section
/-! DEFINITION. Operand forms: the effective values and addresses that the payload formats give (R34, R35, R54,
R175), and the branch target and return address. -/

namespace Sys2Proof.Machine

/-- Format I, signed immediate (R52, R53). -/
def imm14 (imm : BitVec 14) : W64 := sext 14 imm
/-- Format I, unsigned immediate (R53). -/
def uimm14 (imm : BitVec 14) : W64 := zext 14 imm

/-- Address of format M: XRead(ra) + Sext(imm, 9)·N (R175). -/
def addrM (ra : Reg) (sz : Sz) (imm : BitVec 9) (s : State) : W64 := s.xr ra + sext 9 imm * BitVec.ofNat 64 sz.bytes

/-- PC-relative target of formats B, J and LEA: A + Sext(off)·4 (R53, R54). -/
def pcRel {w : Nat} (off : BitVec w) (s : State) : W64 := s.t.pc + sext w off * 4

/-- The register `lk` (R36). -/
def lk : Reg := 31

/-- Bits 63:56 of an address are set (R173). -/
def highAddr (a : W64) : Bool := a.toNat / 2 ^ 56 != 0

/-- Number of bits set below position w. -/
def popCount : Nat → Nat → Nat
  | 0, _ => 0
  | w + 1, n => n % 2 + popCount w (n / 2)

/-- Round up to a multiple of 64. -/
def roundUp64 (n : Nat) : Nat := (n + 63) / 64 * 64

/-- Bits `lo` to `lo + n - 1` of a word, as a number. -/
def bitsOf (w lo n : Nat) : Nat := w / 2 ^ lo % 2 ^ n

end Sys2Proof.Machine
end

