-- ==== Sys2Proof/Machine/Flags.lean ====
section
/-! DEFINITION. STATUS as software reads and writes it (R67, R69), and the sticky ABSENT flag (R293). -/

namespace Sys2Proof.Machine

def bitIf (b : Bool) (k : Nat) : Nat := if b then 2 ^ k else 0

/-- STATUS as one word (R69). -/
def Status.pack (s : Status) : W64 :=
  BitVec.ofNat 64 (bitIf s.s 0 + bitIf s.ps 1 + bitIf s.ds 2 + bitIf s.uie 3 + bitIf s.uia 4 + bitIf s.nft 5
    + bitIf s.apx 6 + bitIf s.exact 7 + bitIf s.apxs 8 + s.ph.code * 2 ^ 9)

/-- MTSR to STATUS (R67, R69): T-writable fields at either level, DS and PS at S level only, the rest ignored. -/
def Status.write (s : Status) (v : W64) : Status :=
  { s with
    apxs := v.getLsbD 8, exact := v.getLsbD 7, apx := v.getLsbD 6, nft := v.getLsbD 5,
    ds := if s.s then v.getLsbD 2 else s.ds, ps := if s.s then v.getLsbD 1 else s.ps }

/-- Set the sticky flag APXS (R293). -/
def State.setApxs (s : State) : State := { s with t := { s.t with st := { s.t.st with apxs := true } } }

/-- LIVEM with every bit at or above the allotment forced to zero (R62). -/
def liveMask (allotn : Nat) (v : W64) : W32 := v.setWidth 32 &&& BitVec.ofNat 32 (2 ^ allotn - 1)

end Sys2Proof.Machine
end

