-- ==== Sys2Proof/Machine/Power.lean ====
section
/-! DEFINITION. Power states (R321), which units of memory are served (R322, R330), and where a unit of the package
lies (R315 to R317, R327). -/

namespace Sys2Proof.Machine

def State.setPkg (s : State) (p : Pkg) : State := { s with pkg := p }
/-- An MSI-X vector is raised on an endpoint (R318); no mask holds it back (log 64). -/
def State.raiseMsix (s : State) (ep v : Nat) : State := s.setPkg { s.pkg with msix := s.pkg.msix ++ [(ep, v)] }

/-- Depth of a power state (R321). -/
def Power.depth : Power → Nat
  | .run => 0 | .idle => 1 | .retain => 2 | .off => 3
def Power.ofCode (n : Nat) : Power := if n = 0 then .run else if n = 1 then .idle else if n = 2 then .retain else .off
/-- The deeper of two states (R321). -/
def Power.deeper (a b : Power) : Power := if a.depth < b.depth then b else a

/-- Effective state of a cluster and of an optimiser core (R321). -/
def State.clusterPower (s : State) (k : Nat) : Power := (s.pkg.clusterPower.getD k .run).deeper (s.die (k / 128)).power
def State.optPower (s : State) (j : Nat) : Power := (s.pkg.optPower.getD j .run).deeper (s.die (j / 24)).power
def State.corePower (s : State) (c : Nat) : Power := if isOpt c then s.optPower (c - 0x1000) else s.clusterPower (clusterOf c)

/-- Package-wide index of the pseudo-channel of an HBM address (R316). -/
def pseudoChannel (pa : Nat) : Nat :=
  let d := pa / 0x3000000000
  let r := pa % 0x3000000000
  let st := r / 0x1000000000
  let c := bitsOf r 12 6
  (12 * d + 4 * st + c / 16) * 16 + c % 16

/-- Clock points in tenths of a gigahertz (R320). -/
def clockPoint (clk : Nat) : Nat := [6, 11, 15, 19].getD clk 19
/-- Die cycles of a clock point in n cycles of the 1.9 GHz reference clock. -/
def dieCycles (clk n : Nat) : Nat := n * clockPoint clk / 19
/-- One cycle in so many issues (R324, R325). -/
def Die.throttle (d : Die) : Nat :=
  Nat.max d.rate (if d.critical then 64 else if d.thermalHold then 4 else 1)
/-- The die issues in the reference cycle n: it has a cycle of its own there that is not gated, in RUN and outside a
clock change (R321, R323, R324). -/
def Die.issues (d : Die) (n : Nat) : Bool :=
  d.power == .run && decide (d.holdEnd ≤ n) && dieCycles d.clk (n + 1) != dieCycles d.clk n && dieCycles d.clk (n + 1) % d.throttle == 0

/-- The core may issue, or advance a command or an evaluation, in the cycle at hand (R321, R323, R324). -/
def State.goes (s : State) (c : Nat) : Bool := (s.die (dieOf c)).issues (s.now - 1) && s.corePower c == .run

/-- Key of a unit of the self-test: class and index (R327). -/
def unitKey (cls idx : Nat) : Nat := cls * 2 ^ 32 + idx
def State.unit (s : State) (cls idx : Nat) : TestUnit := s.pkg.units.getD (unitKey cls idx) {}
def State.setUnit (s : State) (cls idx : Nat) (u : TestUnit) : State :=
  { s with pkg := { s.pkg with units := s.pkg.units.put (unitKey cls idx) u } }

/-- A cluster with a retired bank or lane group holds no tasks (R224, R330). -/
def State.clusterRetired (s : State) (k : Nat) : Bool :=
  !s.pkg.units.isEmpty && (((List.range 32).any fun b => (s.unit 1 (32 * k + b)).retired)
    || (List.range 16).any fun g => (s.unit 2 (16 * k + g)).retired)

/-- The unit of the self-test that serves a place (R203, R316, R327): a vault bank or a pseudo-channel, by its key. -/
def placeUnit (pa : Nat) : Option Nat :=
  if pa < 0xC000000000 then some (unitKey 4 (pseudoChannel pa))
  else if 0xF00000000000 ≤ pa ∧ pa < 0xF00100000000 then
    some (unitKey 1 (32 * ((pa - 0xF00000000000) / 0x800000) + bitsOf pa 6 5))
  else none
/-- A unit under test serves part of the bytes pa .. pa+n-1: the access waits (R223, R313, R327). -/
def State.underTest (s : State) (pa n : Nat) : Bool :=
  !s.pkg.units.isEmpty && (List.range ((n + 126) / 64)).any fun k =>
    match placeUnit (Nat.min (pa + 64 * k) (pa + n - 1)) with
    | some u => (s.pkg.units.getD u {}).testing
    | none => false

/-- A physical location is served (R321, R322, R330). -/
def State.served (s : State) (pa : Nat) : Bool :=
  if pa < 0xC000000000 then
    decide ((s.die (pa / 0x3000000000)).power.depth ≤ 1) && !(s.unit 4 (pseudoChannel pa)).retired
  else if 0xF00000000000 ≤ pa ∧ pa < 0xF00100000000 then decide ((s.clusterPower ((pa - 0xF00000000000) / 0x800000)).depth ≤ 1)
  else if 0xF80000000000 ≤ pa ∧ pa < 0xF8000C000000 then decide ((s.optPower ((pa - 0xF80000000000) / 0x200000)).depth ≤ 1)
  else true

end Sys2Proof.Machine
end

