-- ==== Sys2Proof/Machine/Translate.lean ====
section
/-! DEFINITION. Translation (R283 to R287): page tables, side-state initialisation, the translation caches, and
where an address of each page kind resolves (R291, R293, R296, R315). -/

namespace Sys2Proof.Machine

/-- Kind of a page (R284). -/
inductive PageKind | plain | master | view | versioned | fe | remap | kv
deriving DecidableEq, Repr

/-- Base of cluster k's vault and of core j's scratch (R315). -/
def vaultBase (k : Nat) : Nat := 0xF00000000000 + k * 0x800000
def scratchBase (j : Nat) : Nat := 0xF80000000000 + j * 0x200000
def hostBase : Nat := 0xFC0000000000
/-- The address lies in a range that R315 assigns. -/
def assigned (pa : Nat) : Bool :=
  decide (pa < 0xC000000000 ∨ (0xF00000000000 ≤ pa ∧ pa < 0xF00100000000) ∨ (0xF80000000000 ≤ pa ∧ pa < 0xF8000C000000)
    ∨ (hostBase ≤ pa ∧ pa < 2 ^ 48))
/-- Host memory through the Landing (R315). -/
def isHost (pa : Nat) : Bool := decide (hostBase ≤ pa)
/-- Vaults and scratches: errors are per 8-byte word (R326). -/
def isSram (pa : Nat) : Bool := decide (0xF00000000000 ≤ pa ∧ pa < hostBase)
/-- The unit in which an uncorrectable error is kept (R326), by an address in it. -/
def badUnit (pa : Nat) : Nat := if isSram pa then pa / 8 * 8 else pa / 64 * 64
/-- The first failing unit among the bytes pa .. pa+n-1 (R177, R326). -/
def badIn (bad : List Nat) (pa n : Nat) : Option Nat :=
  match bad.filter fun u => decide (u < pa + n) && decide (pa < u + (if isSram u then 8 else 64)) with
  | [] => none
  | u :: l => some (l.foldl Nat.min u)

/-- Ranges of R283 by level: low index bit, index bits, and the page size of a leaf (0 for none). -/
def walkLevels : List (Nat × Nat × Nat) :=
  [(44, 12, 0), (35, 9, 2 ^ 35), (30, 5, 2 ^ 30), (21, 9, 2 ^ 21), (16, 5, 2 ^ 16)]

def TlbEntry.kind (e : TlbEntry) : PageKind :=
  let b := e.entry
  if b.getLsbD 5 then .master else if b.getLsbD 6 then .view else if b.getLsbD 7 then .versioned
  else if b.getLsbD 8 then .fe else if b.getLsbD 9 then .remap else if b.getLsbD 10 then .kv else .plain
/-- Physical address of the frame. -/
def TlbEntry.frame (e : TlbEntry) : Nat := bitsOf e.entry.toNat 16 32 * 2 ^ 16
def TlbEntry.readable (e : TlbEntry) : Bool := e.entry.getLsbD 2
def TlbEntry.writable (e : TlbEntry) : Bool := e.entry.getLsbD 3
def TlbEntry.executable (e : TlbEntry) : Bool := e.entry.getLsbD 4
/-- Row size of a REMAP page (R284). -/
def TlbEntry.rowSize (e : TlbEntry) : Nat := 64 * 2 ^ bitsOf e.entry.toNat 12 4

/-- A leaf entry is well formed (R285). -/
def leafOk (size e : Nat) : Bool :=
  let kinds := popCount 6 (e / 2 ^ 5)
  let logrs := bitsOf e 12 4
  let remap := decide (bitsOf e 9 1 = 1)
  decide (size ≠ 0) && decide (e / 2 ^ 48 = 0) && decide ((bitsOf e 16 32 * 2 ^ 16) % size = 0) && decide (kinds ≤ 1)
    && (remap || decide (logrs = 0)) && decide (logrs ≤ 8) && (!remap || decide (size / (64 * 2 ^ logrs) ≤ 65536))

/-- Why a translation fails: its cause, or none where it waits for a unit under test (R223, R313); and the place of an uncorrectable
error that it met. -/
abbrev Failed := Option Cause × Option Nat

/-- Walk from a table (R283, R285): the leaf with its page size, and the address of the entry. `busy` says which entries a unit under
test serves. -/
def walkGo (m : Memory) (bad : List Nat) (busy : Nat → Bool) (va : Nat) : Nat → List (Nat × Nat × Nat) → Except Failed (Nat × Nat × Nat)
  | _, [] => .error (some .xlate, none)
  | table, (lo, n, size) :: rest =>
    let ea := table + 8 * bitsOf va lo n
    if busy ea then .error (none, none)
    else match badIn bad ea 8 with
    | some _ => .error (some .memerr, some ea)
    | none =>
      let e := m.readLE ea 8
      if bitsOf e 0 1 = 0 then .error (some .xlate, none)
      else if bitsOf e 1 1 = 1 then (if leafOk size e then .ok (size, e, ea) else .error (some .xlate, none))
      else
        match rest with
        | [] => .error (some .xlate, none)
        | (_, n', _) :: _ =>
          let next := bitsOf e 8 40 * 2 ^ 8
          if e / 2 ^ 48 ≠ 0 ∨ bitsOf e 2 6 ≠ 0 ∨ next % (8 * 2 ^ n') ≠ 0 then .error (some .xlate, none)
          else walkGo m bad busy va next rest

/-- Addresses of a map outside a range. -/
def outside {α : Type} (base size : Nat) (m : NMap α) : NMap α :=
  m.filter fun p => decide (p.1 < base ∨ base + size ≤ p.1)
/-- An address lies in one of the ranges. -/
def inRanges (l : List (Nat × Nat)) (a : Nat) : Bool := l.any fun r => decide (r.1 ≤ a ∧ a < r.1 + r.2)

/-- Initialise the side state of a frame and clear INIT in its entry, in one step (R285). -/
def State.initSide (s : State) (kind : PageKind) (frame size ea e : Nat) : State :=
  let s := { s with mem := s.mem.setBytes (leCells ea 8 (e - 2 ^ 11)) }
  match kind with
  | .fe => { s with fullBits := outside frame size s.fullBits, feInit := (frame, size) :: s.feInit }
  | .versioned => { s with versions := outside frame size s.versions, verInit := (frame, size) :: s.verInit }
  | .master => { s with mseq := outside frame size s.mseq, masterInit := (frame, size) :: s.masterInit }
  | _ => s

/-- A partition has reached a page as MASTER: writes there advance MSEQ from now on, as long as its tables say so (R270). -/
def State.noteMaster (s : State) (e : TlbEntry) : State :=
  if e.kind = .master && !s.masters.contains e then { s with masters := e :: s.masters } else s
/-- The leaf that a partition's tables hold for an address, whatever an access to it would meet. -/
def State.leafOf (s : State) (part va : Nat) : Option TlbEntry :=
  match walkGo s.mem [] (fun _ => false) va (s.part part).root walkLevels with
  | .ok (size, e, _) => some ⟨part, va / size * size, size, BitVec.ofNat 64 e⟩
  | .error _ => none
/-- The page is still mapped as MASTER, onto the same frame. -/
def State.stands (s : State) (e : TlbEntry) : Bool :=
  match s.leafOf e.part e.base with
  | some l => l.kind == .master && l.frame == e.frame && l.size == e.size
  | none => false
/-- The address lies on a page that some partition has mapped as MASTER (R270). -/
def State.isMaster (s : State) (pa : Nat) : Bool :=
  s.masters.any fun e => decide (e.frame ≤ pa ∧ pa < e.frame + e.size) && s.stands e

/-- A walk by a die's walker (R283 to R286): the leaf, with its side state initialised. -/
def State.walk (s : State) (part va : Nat) : Except Failed (TlbEntry × State) :=
  match walkGo s.mem s.bad (s.underTest · 8) va (s.part part).root walkLevels with
  | .error c => .error c
  | .ok (size, e, ea) =>
    let init := decide (bitsOf e 11 1 = 1)
    let leaf : TlbEntry := ⟨part, va / size * size, size, BitVec.ofNat 64 (if init then e - 2 ^ 11 else e)⟩
    let s := if init then s.initSide leaf.kind leaf.frame size ea e else s
    .ok (leaf, s.noteMaster leaf)

/-- The translation cache of a core: its cluster's; an optimiser core's own is kept at 512 + j. -/
def tlbHome (c : Nat) : Nat := if c < 4096 then clusterOf c else 512 + (c - 0x1000)
/-- Entries of a translation cache (R286). -/
def tlbSize : Nat := 1024

/-- Find a cached leaf and move it to the front (R286: least recently used last). -/
def tlbFind (part va : Nat) : List TlbEntry → Option (TlbEntry × List TlbEntry)
  | [] => none
  | e :: r =>
    if decide (e.part = part ∧ e.base ≤ va ∧ va < e.base + e.size) then some (e, r)
    else match tlbFind part va r with
      | some (f, l) => some (f, e :: l)
      | none => none

/-- Translate for a core (R286): from its cluster's cache, or by a walk that fills it. -/
def State.xlate (s : State) (va : Nat) : Except Failed (TlbEntry × State) :=
  let k := tlbHome s.t.core
  let cl := s.cluster k
  match tlbFind s.t.part va cl.tlb with
  | some (e, l) => .ok (e, s.setCluster k { cl with tlb := e :: l })
  | none =>
    match s.walk s.t.part va with
    | .error c => .error c
    | .ok (e, s') => .ok (e, s'.setCluster k { s'.cluster k with tlb := (e :: (s'.cluster k).tlb).take tlbSize })

/-- What an access needs of its page. -/
structure Need where
  r : Bool := false
  w : Bool := false
  x : Bool := false
deriving DecidableEq, Repr

/-- The page's permissions and frame allow the access (R284, R315). -/
def TlbEntry.allows (e : TlbEntry) (n : Need) : Bool :=
  (!n.r || e.readable) && (!n.w || e.writable) && (!n.x || e.executable) && assigned e.frame

/-- Where an address resolves: a physical address; an ABSENT row or block, with the address of its counter and of
its own entry (R293); or an evicted position (R296). -/
inductive Place
  | at (pa : Nat)
  | absent (counter entry : Nat)
  | evicted
deriving DecidableEq, Repr

/-- Address of a key-value descriptor (R294). -/
def kvDescAddr (p : Part) (i : Nat) : Nat := p.kvdesc + 32 * i

/-- Read a doubleword of a table that a translation goes through; an error there fails it (R287), a unit under test holds it (R313). -/
def State.tableWord (s : State) (pa : Nat) (k : Nat → Except Failed Place) : Except Failed Place :=
  if s.underTest pa 8 then .error (none, none)
  else match badIn s.bad pa 8 with
  | some _ => .error (some .memerr, some pa)
  | none => k (s.mem.readLE pa 8)

/-- Resolve an address of a page (R291, R296); other pages map straight to the frame. -/
def State.resolve (s : State) (e : TlbEntry) (va : Nat) : Except Failed Place :=
  let o := va - e.base
  match e.kind with
  | .remap =>
    let rs := e.rowSize
    let ra := e.frame + 64 + 8 * (o / rs)
    s.tableWord ra fun row =>
      if row / 2 ^ 48 ≠ 0 ∨ bitsOf row 1 5 ≠ 0 then .error (some .xlate, none)
      else if bitsOf row 0 1 = 1 then .ok (.absent e.frame ra)
      else if assigned (bitsOf row 6 42 * 64) then .ok (.at (bitsOf row 6 42 * 64 + o % rs)) else .error (some .access, none)
  | .kv =>
    s.tableWord e.frame fun h0 =>
      let ss := 64 * 2 ^ bitsOf h0 32 4
      let p := o / ss
      if p ≥ bitsOf h0 0 32 then .error (some .access, none)
      else
        s.tableWord (e.frame + 64 + 8 * (p / 64)) fun bt =>
          let d := kvDescAddr (s.part e.part) (bitsOf bt 0 32)
          s.tableWord d fun surv => s.tableWord (d + 8) fun d1 =>
            let b := p % 64
            if bitsOf d1 62 2 = 2 then .ok (.absent (e.frame + 8) d)
            else if bitsOf surv b 1 = 0 then .ok .evicted
            else .ok (.at (bitsOf d1 0 48 + popCount b surv * ss + o % ss))
  | _ => .ok (.at (e.frame + o))

/-- Bytes of the local window: the vault, or an optimiser core's scratch (R173, R303). -/
def windowSize (core : Nat) : Nat := if isOpt core then 0x200000 else 0x800000
/-- Physical address behind a local-window address (R173, R303, R315). -/
def windowPa (core a : Nat) : Nat := if isOpt core then scratchBase (core - 0x1000) + a else vaultBase (clusterOf core) + a

/-- A located access: where it resolves, the page's kind (plain in the local window) and page base. -/
structure Located where
  place : Place
  kind : PageKind
deriving DecidableEq, Repr

/-- An access of n bytes reaches its place (R315, R322, R327): it lies in an assigned range, a read is served, and no unit
under test serves it. A need of nothing only asks for the place. -/
def State.reach (s : State) (a : W64) (n : Nat) (need : Need) (l : Located) : Except Miss (Located × State) :=
  match l.place with
  | .at pa =>
    if !(assigned pa && assigned (pa + (n - 1))) || ((need.r || need.x) && !s.served pa) then s.refuse .access a
    else if (need.r || need.w || need.x) && s.underTest pa n then .error ⟨none, s, none⟩
    else .ok (l, s)
  | _ => .ok (l, s)

/-- Locate n bytes at a (R173, R175): high bits, local window, translation, permission, resolution. The alignment
and phase checks come before. -/
def State.locate (s : State) (a : W64) (n : Nat) (need : Need) : Except Miss (Located × State) :=
  if highAddr a then s.refuse .xlate a
  else if a.toNat < 0x01000000 then
    if a.toNat + n ≤ windowSize s.t.core ∧ !need.x then s.reach a n need ⟨.at (windowPa s.t.core a.toNat), .plain⟩
    else s.refuse .access a
  else
    match s.xlate a.toNat with
    | .error (c, e) => .error ⟨c.map (·, a), s, e⟩
    | .ok (e, s') =>
      if !e.allows need then s'.refuse .access a
      else match s'.resolve e a.toNat with
        | .error (c, e) => .error ⟨c.map (·, a), s', e⟩
        | .ok p => s'.reach a n need ⟨p, e.kind⟩

end Sys2Proof.Machine
end

