-- ==== Sys2Proof/Machine/Mesh.lean ====
section
/-! DEFINITION. Places on the mesh and path latencies (R174, R303, R317, R382). -/

namespace Sys2Proof.Machine

def absDiff (a b : Nat) : Nat := (a - b) + (b - a)
/-- Mesh row and column of a core (R317): its cluster's, or its controller's edge place. -/
def meshOf (core : Nat) : Nat × Nat :=
  if core < 4096 then (clusterOf core % 128 / 16, clusterOf core % 16)
  else let c := (core - 0x1000) % 24 / 2; (if c < 6 then 0 else 7, 3 * (c % 6))
/-- Mesh position of a cluster. -/
def meshOfCluster (k : Nat) : Nat × Nat := (k % 128 / 16, k % 16)
def hops (a b : Nat × Nat) : Nat := absDiff a.1 b.1 + absDiff a.2 b.2
/-- Where the link from die e enters die d (R317). -/
def linkEntry (d e : Nat) : Nat × Nat := (4, 2 + 6 * ((e + 4 - d - 1) % 4))

/-- Load-to-use latency of an unloaded path through a translated address (R174, R303), its die links in service. Host memory has no
fixed figure: DESIGN CHOICE 1000 (log 5). -/
def pathCycles (core pa : Nat) : Nat :=
  if isHost pa then 1000
  else if 0xF80000000000 ≤ pa then
    let j := (pa - 0xF80000000000) / 0x200000
    if core = 0x1000 + j then 14
    else if dieOf core = j / 24 then 24 + 2 * hops (meshOf core) (meshOf (0x1000 + j))
    else 150 + 2 * hops (linkEntry (j / 24) (dieOf core)) (meshOf (0x1000 + j))
  else if 0xF00000000000 ≤ pa then
    let k := (pa - 0xF00000000000) / 0x800000
    if isCompute core && clusterOf core = k then 16
    else if dieOf core = k / 128 then 24 + 2 * hops (meshOf core) (meshOfCluster k)
    else 150 + 2 * hops (linkEntry (k / 128) (dieOf core)) (meshOfCluster k)
  else
    let d := pa / 0x3000000000
    if isOpt core && (pseudoChannel pa / 16 = (core - 0x1000) / 2) then 180
    else if dieOf core = d then 380 else 520

/-- Index of the link between two dies as a unit of class 3 (R327). -/
def linkIndex (a b : Nat) : Nat :=
  let lo := Nat.min a b
  16 + (if lo = 0 then Nat.max a b - 1 else if lo = 1 then Nat.max a b + 1 else 5)
/-- Die of a physical place (R315, R316); host memory has none. -/
def placeDie (pa : Nat) : Option Nat :=
  if isHost pa then none
  else if 0xF80000000000 ≤ pa then some ((pa - 0xF80000000000) / 0x200000 / 24)
  else if 0xF00000000000 ≤ pa then some ((pa - 0xF00000000000) / 0x800000 / 128)
  else some (pa / 0x3000000000)
/-- Traffic over a die link that is under test or retired detours through a third die (R327, R330). -/
def State.detour (s : State) (a b : Nat) : Nat :=
  let u := s.unit 3 (linkIndex a b)
  if a ≠ b ∧ (u.testing ∨ u.retired) then 150 else 0
/-- Latency of a path as it stands (R174, R303, R327, R330). -/
def State.pathLatency (s : State) (core pa : Nat) : Nat :=
  pathCycles core pa + ((placeDie pa).map (s.detour (dieOf core))).getD 0
/-- Load latency of an address of the task in focus (R174, R303). -/
def State.loadLatency (s : State) (a : W64) : Nat :=
  if a.toNat < 0x800000 then 14
  else match s.locate a 1 {} with
    | .ok (⟨.at pa, _⟩, _) => s.pathLatency s.t.core pa
    | _ => 0

/-- Latency of traffic from core a to core b (R382): the path to the vault or scratch of b; between two cores of one
cluster the local-window figure. -/
def State.messageLatency (s : State) (a b : Nat) : Nat :=
  if isCompute a && isCompute b && clusterOf a = clusterOf b then 14
  else s.pathLatency a (if isCompute b then vaultBase (clusterOf b) else scratchBase (b - 0x1000))

end Sys2Proof.Machine
end

