-- ==== Sys2Proof/Machine/Access.lean ====
section
/-! DEFINITION. Loads and stores at their homes: what a byte reads as (Hatboxes included, R25), uncorrectable
errors (R177, R326), the advance of MSEQ (R270) and the derivations it makes pending (R279), absent data (R293),
versioned words (R263, R266), and instruction fetch (R59). -/

namespace Sys2Proof.Machine

/-! ## System registers as MFSR reads them -/

/-- Nanoseconds of device time from the 1.9 GHz reference count (R6, R99). -/
def State.dtime (s : State) : W64 := BitVec.ofNat 64 (s.now * 10 / 19)

/-- The value of a system register (R43, R68). -/
def State.sysReg (s : State) (t : Task) : SReg → W64
  | .status => t.st.pack
  | .cause => t.cause
  | .epc => t.epc
  | .tval => t.tval
  | .btgt => t.btgt
  | .iter => t.iter
  | .taskid => t.taskid.setWidth 64
  | .tilex => t.tilex.setWidth 64
  | .tiley => t.tiley.setWidth 64
  | .tilez => t.tilez.setWidth 64
  | .core => BitVec.ofNat 64 t.core
  | .allotn => BitVec.ofNat 64 t.allotn
  | .livem => t.livem.setWidth 64
  | .ntmo => t.ntmo.setWidth 64
  | .dtime => s.dtime
  | .uivec => t.uivec
  | .uiepc => t.uiepc
  | .hvtie => t.hvtie.setWidth 64
  | .hvcw => t.hvcw.setWidth 64
  | .supcore => BitVec.ofNat 64 (s.part t.part).supcore
  | .seqaddr => t.seqaddr

/-! ## Reading -/

/-- Byte k of a number. -/
def byteOf (v k : Nat) : Byte := BitVec.ofNat 8 (v / 256 ^ k)

/-- Size of a Hatbox (R25). -/
def Task.hatboxSize (t : Task) : Nat := if t.hvMade then 0x14800 else 0x2800

/-- Core of a task or built-in evaluation. -/
def State.coreOf (s : State) (tid : Nat) : Nat :=
  match s.task tid with
  | some t => t.core
  | none => ((s.evals.find tid).map (·.core)).getD 0
/-- A link (R82 d5, R83): valid bit, core, TASKID. -/
def State.linkWord (s : State) (o : Option Nat) : Nat :=
  match o with
  | some n => 2 ^ 63 + s.coreOf n * 2 ^ 32 + n % 2 ^ 32
  | none => 0

/-- A byte of a Hatbox (R25, R73, R79, R83, R120); free in the replay area at 0x0300 to 0x077F, whose records R25 gives no format
(log 51); none where the layout names nothing: those bytes read as the memory beneath (DESIGN CHOICE, log 51). -/
def State.hatboxByte (s : State) (t : Task) (o : Nat) : Option Byte :=
  if o < 8 then some (byteOf t.pc.toNat o)
  else if o < 0xB0 then (SReg.ofCode? (o / 8 - 1)).map fun r => byteOf (s.sysReg t r).toNat (o % 8)
  else if o < 0xF0 then some (byteOf (t.trapSave.get (Fin.ofNat 8 ((o - 0xB0) / 8))).toNat (o % 8))
  else if o < 0x100 then some (byteOf (s.linkWord (if o < 0xF8 then t.waitLink else t.demand)) (o % 8))
  else if o < 0x200 then some (byteOf (t.xr (Fin.ofNat 32 ((o - 0x100) / 8))).toNat (o % 8))
  else if o < 0x300 then some (byteOf (t.pr (Fin.ofNat 8 ((o - 0x200) / 32))).toNat (o % 32))
  else if o < 0x780 then some (Config.replayByte t.tid t.since o)
  else if o < 0x7A0 then some (byteOf (t.nfRec.get (Fin.ofNat 4 ((o - 0x780) / 8))).toNat (o % 8))
  else if o < 0x7C0 then none
  else if o < 0x800 then some (byteOf (t.uiShadow.get (Fin.ofNat 8 ((o - 0x7C0) / 8))).toNat (o % 8))
  else if o < 0x2800 then some (byteOf (t.vr (Fin.ofNat 32 ((o - 0x800) / 256))).toNat (o % 256))
  else if o < 0x4800 then some (byteOf (t.hr (Fin.ofNat 8 ((o - 0x2800) / 1024))).toNat (o % 1024))
  else some (byteOf (t.br (Fin.ofNat 8 ((o - 0x4800) / 16384))).toNat (o % 16384))

/-- The task is parked or pre-empted: its Hatbox may be read (R25). -/
def Task.saved (t : Task) : Bool :=
  match t.run with
  | .parked _ => true
  | .preempted => true
  | _ => false

/-- A byte of the Hatbox of a built-in evaluation (R83, R95): its links; none elsewhere. -/
def State.evalByte (s : State) (e : Eval) (o : Nat) : Option Byte :=
  if 0xF0 ≤ o ∧ o < 0x100 then some (byteOf (s.linkWord (if o < 0xF8 then e.waitLink else e.demand)) (o % 8)) else none
/-- NEXTFREE of an entry of the Hatcheck that nothing has used yet: the next index (R82, R199). -/
def Part.freshByte (p : Part) (pa : Nat) : Option Byte :=
  let o := pa - (p.hcBase + 64)
  if p.hcBase + 64 ≤ pa ∧ p.hcFresh ≤ o / 64 ∧ o / 64 < 2 ^ p.logcap ∧ 56 ≤ o % 64 ∧ o % 64 < 60 then some (byteOf (o / 64 + 1) (o % 64 - 56))
  else none
/-- NEXT of a key-value descriptor that nothing has used yet (R294): the next index, for the list ascends (log 67). -/
def Part.kvFreshByte (p : Part) (pa : Nat) : Option Byte :=
  let o := pa - p.kvdesc
  if p.kvdesc ≤ pa ∧ p.kvFresh ≤ o / 32 ∧ o / 32 < p.kvn ∧ 16 ≤ o % 32 ∧ o % 32 < 20 then some (byteOf (o / 32 + 1) (o % 32 - 16))
  else none
/-- What a Hatcheck's control block holds (R82): the bound, the mode, the total, the next sequence number, the head of the free list. -/
def Part.control (p : Part) : List Nat := [p.hcBound.toNat, p.hcMode, p.hcTotal, p.hcSeq.toNat, p.hcFree.headD p.hcFresh]
/-- A byte of the control block (R82): the manual gives its fields no places, so it is a free byte of what the block holds (log 39). -/
def Part.controlByte (p : Part) (pa : Nat) : Option Byte :=
  if p.hcBase ≤ pa ∧ pa < p.hcBase + 64 then some (Config.controlByte p.control (pa - p.hcBase)) else none
/-- What a byte of physical memory outside the Hatboxes of saved tasks reads as. -/
def State.plainByte (s : State) (pa : Nat) : Byte :=
  (s.parts.vals.findSome? fun p => ((p.freshByte pa).or (p.kvFreshByte pa)).or (p.controlByte pa)).getD (s.mem.byteAt pa)
/-- What a byte of physical memory reads as. -/
def State.byteAt (s : State) (pa : Nat) : Byte :=
  match s.allTasks.find? fun t => decide (t.hatbox ≠ 0 ∧ t.hatbox ≤ pa ∧ pa < t.hatbox + t.hatboxSize) && t.saved with
  | some t => (s.hatboxByte t (pa - t.hatbox)).getD (s.plainByte pa)
  | none =>
    match s.evals.vals.find? fun e => e.waiting && decide (e.hatbox ≤ pa ∧ pa < e.hatbox + 0x2800) with
    | some e => (s.evalByte e (pa - e.hatbox)).getD (s.plainByte pa)
    | none => s.plainByte pa

/-- The bytes pa .. pa+n-1 that a core loads from address a hold no uncorrectable error; else MEMERR with the failing
granule (R177). -/
def State.granuleOk (s : State) (a : W64) (pa n : Nat) : Except Miss State :=
  match badIn s.bad pa n with
  | some g => .error ⟨some (.memerr, BitVec.ofNat 64 (a.toNat / 64 * 64)), s, some g⟩
  | none => .ok s

/-- The little-endian number in n bytes (R4). -/
def State.loadLE (s : State) (pa : Nat) : Nat → Nat
  | 0 => 0
  | n + 1 => (s.byteAt pa).toNat + 256 * State.loadLE s (pa + 1) n

/-! ## Views that a master write touches (R279) -/

/-- Bytes of a master element. -/
def View.esize (v : View) : Nat := v.mf.width

/-- The master block (row, block) that a physical granule belongs to, by the pieces of its pages. -/
def View.blockOf (v : View) (g : Nat) : List (Nat × Nat × Nat) → Option (Nat × Nat)
  | [] => none
  | (vb, n, pb) :: r =>
    if pb ≤ g ∧ g < pb + n then
      let off := vb + (g - pb) - v.mbase
      let row := off / v.mpitch
      let cb := off % v.mpitch
      if v.mbase ≤ vb + (g - pb) ∧ row < v.rows ∧ cb < v.cols * v.esize then some (row, cb / (32 * v.esize)) else none
    else View.blockOf v g r

/-- A block is among those of a list. -/
def blockIn (b : Nat × Nat) (l : List (Nat × Nat × Nat)) : Bool := l.any fun d => d.1 == b.1 && d.2.1 == b.2
/-- Make a block's derivation pending, once (R279). -/
def View.pend (v : View) (b : Nat × Nat) (stamp : Nat) : Option View :=
  if blockIn b v.pending || blockIn b v.deriving_ || blockIn b v.stopped
  then none else some { v with pending := v.pending ++ [(b.1, b.2, stamp)] }

/-- The views of a partition that cover a written granule start a derivation (R279, R280). -/
def pendViews (p g : Nat) : List (Nat × View) → State → State
  | [], s => s
  | (id, v) :: r, s =>
    let s' := match v.blockOf g v.master with
      | none => s
      | some b => match v.pend b s.stamp with
        | none => s
        | some v' => (s.bump.setPart p { s.part p with views := (s.part p).views.put id v' }).at_ 1 (.derive p id b.1 b.2)
    pendViews p g r s'
def pendParts (g : Nat) : List (Nat × Part) → State → State
  | [], s => s
  | (p, q) :: r, s => pendParts g r (pendViews p g q.views s)

/-- A write to a granule of a MASTER page advances its MSEQ (R270) and makes derivations pending. -/
def State.touchGranule (s : State) (g : Nat) : State := pendParts g s.parts { s with mseq := s.mseq.put g (s.mseq.getD g 0 + 1) }
def touchAll : List Nat → State → State
  | [], s => s
  | g :: r, s => touchAll r (s.touchGranule g)

/-! ## Writing -/

/-- The granules of a list of cells. -/
def granulesOf (cells : List (Nat × Byte)) : List Nat := (cells.map fun c => c.1 / 64 * 64).eraseDups
/-- The cells cover a whole unit of error coding (R326). -/
def covers (cells : List (Nat × Byte)) (u : Nat) : Bool :=
  (List.range (if isSram u then 8 else 64)).all fun k => cells.any fun c => c.1 == u + k

/-- A store to a Hatcheck's control block (R82): what the block holds then is free, for the manual gives its fields no places (log 39). -/
def Part.controlStored (p : Part) (cells : List (Nat × Byte)) : Part :=
  match (cells.filter fun c => decide (p.hcBase ≤ c.1 ∧ c.1 < p.hcBase + 64)).map fun c => (c.1 - p.hcBase, c.2) with
  | [] => p
  | l =>
    let v := Config.controlStored p.control l
    { p with hcBound := BitVec.ofNat 64 (v 0), hcMode := v 1 % 3, hcTotal := v 2, hcSeq := BitVec.ofNat 32 (v 3),
             hcFree := v 4 % 2 ^ p.logcap :: p.hcFree.drop 1 }
/-- The signal word that a descriptor at its threshold waits on covers the address (R372). -/
def CEDesc.watches (d : CEDesc) (pa : Nat) : Bool :=
  d.phase == 1 && match d.watch with | some w => decide (w ≤ pa ∧ pa < w + 8) | none => false
def State.watched (s : State) (pa : Nat) : Bool := s.engines.any fun e => e.2.list.any fun d => d.2.watches pa
/-- A write has reached the signal word of a descriptor: the engine compares it with the threshold (R372). -/
def CEDesc.see (m : Memory) (cells : List (Nat × Byte)) (d : CEDesc) : CEDesc :=
  match d.watch with
  | some w => if cells.any (fun c => d.watches c.1) && (BitVec.ofNat 64 (d.d.getD 4 0)).sle (BitVec.ofNat 64 (m.readLE w 8)) then { d with met := true } else d
  | none => d
/-- The address lies in some Hatcheck's control block. -/
def State.inControl (s : State) (pa : Nat) : Bool := s.parts.any fun p => decide (p.2.hcBase ≤ pa ∧ pa < p.2.hcBase + 64)
/-- A write to the address changes memory alone: it lies on no MASTER page, in no control block, and no engine waits on it. -/
def State.plainAt (s : State) (pa : Nat) : Bool := !s.isMaster (pa / 64 * 64) && !s.inControl pa && !s.watched pa
/-- Write cells at their homes, by any agent (R249, R270, R322, R326): the state, and whether a failing word or granule
has refused part of the write. What is not served is discarded. -/
def State.storeCells (s : State) (cells : List (Nat × Byte)) : State × Bool :=
  let served := cells.filter fun c => s.served c.1
  let fails (a : Nat) := s.bad.contains (badUnit a) && !covers served (badUnit a)
  let good := served.filter fun c => !fails c.1
  let s' := { s with mem := s.mem.setBytes good, bad := s.bad.filter fun u => !covers served u,
                     parts := if good.any (s.inControl ·.1) then s.parts.map fun p => (p.1, p.2.controlStored good) else s.parts,
                     engines := if good.any (s.watched ·.1) then
                         s.engines.map fun e => (e.1, { e.2 with list := e.2.list.map fun d => (d.1, d.2.see (s.mem.setBytes good) good) })
                       else s.engines }
  (touchAll ((granulesOf good).filter (s.isMaster ·)) s', served.any fun c => fails c.1)

/-- Payload of an engine or store FAULT (R193, R194, R326). -/
def faultPayload (cause slot core tag : Nat) : BitVec 48 := BitVec.ofNat 48 (cause * 2 ^ 40 + slot * 2 ^ 32 + core * 2 ^ 16 + tag)

/-- Part of a write goes to a place that is not served (R322). -/
def State.unserved (s : State) (cells : List (Nat × Byte)) : Bool := cells.any fun c => !s.served c.1

/-- Record a discarded write (R255). -/
def Task.fail (t : Task) (dead : Bool) : Task :=
  { t with failCount := Nat.min 255 (t.failCount + 1), failRefused := t.failRefused || !dead, failDead := t.failDead || dead }

/-- A launch records a discarded write of a task that has retired (R375). -/
def Launch.late (l : Launch) (dead : Bool) : Launch :=
  { l with lateCount := Nat.min 255 (l.lateCount + 1), lateRefused := l.lateRefused || !dead, lateDead := l.lateDead || dead }
/-- Record a discarded write of a task by number; once it has retired, with its launch (R348, R375). -/
def State.failTask (s : State) (tid : Nat) (dead : Bool) : State :=
  match s.task tid with
  | some t => s.setTask (t.fail dead)
  | none => { s with launches := s.launches.map fun l => if l.2.tids.contains tid then (l.1, l.2.late dead) else l }

/-- A store by the task in focus: on a refused write the failure record and a FAULT to SUPCORE (R255, R326). -/
def State.store (s : State) (cells : List (Nat × Byte)) : State :=
  let r := s.storeCells cells
  let rows := (granulesOf cells).filter (s.isMaster ·)
  let t := if s.unserved cells then r.1.t.fail false else r.1.t
  let s' := { r.1 with t := { t with rowWrites := t.rowWrites ++ rows } }
  if r.2 then
    ({ s' with t := s'.t.fail false }).deliver (s'.part s'.t.part).supcore (coreMsg s'.t.core 6 (faultPayload 0x0D 0xFF s'.t.core 0))
  else s'

/-- A granule met an absent row or block: its page's counter advances (R293). -/
def State.countAbsent (s : State) (counter : Nat) : State :=
  { s with mem := s.mem.setBytes (leCells counter 8 (s.mem.readLE counter 8 + 1)) }
def countAbsents : List (Nat × Nat) → State → State
  | [], s => s
  | (c, _) :: r, s => countAbsents r (s.countAbsent c)
/-- A core access met absent granules (R293): APXS, and each absent row or block counted once. -/
def State.meetAbsent (s : State) (l : List (Nat × Nat)) : State :=
  if l.isEmpty then s else (countAbsents l.eraseDups s).setApxs
/-- The absent rows or blocks among places. -/
def absents (l : List Place) : List (Nat × Nat) := l.filterMap fun p => match p with | .absent c e => some (c, e) | _ => none

/-! ## Versioned words (R263, R265, R266) -/

/-- v comes after w (R263). -/
def ahead (v w : W16) : Bool := decide (1 ≤ (v - w).toNat ∧ (v - w).toNat ≤ 32767)

/-- Version state of the word at a physical address. -/
def State.verOf (s : State) (pa : Nat) : VWord :=
  match s.versions.find pa with
  | some w => w
  | none =>
    if inRanges s.verInit pa then ⟨0, 0, [BitVec.ofNat 64 (s.mem.readLE pa 8)]⟩
    else
      let f := Config.freeFloor pa
      let n := Config.freeSpan pa % 4
      ⟨f, f + BitVec.ofNat 16 n, (List.range (n + 1)).map (Config.freeSlot pa)⟩

/-- Value of version v, F ≤ v ≤ L. -/
def VWord.value (w : VWord) (v : W16) : W64 := w.vals.getD (v - w.f).toNat 0

/-- Tasks parked on version v of a word complete with its value (R265). -/
def wakeVersion (pa : Nat) (v : W16) (x : W64) : List Task → State → State
  | [], s => s
  | t :: r, s =>
    wakeVersion pa v x r (match t.run with
      | .parked (.version p u) => if p = pa ∧ u = v then s.wakeTask t.tid (.value x) else s
      | _ => s)

/-- The home takes a write: it is served, and no narrower write into a failing unit (R322, R326). -/
def State.takes (s : State) (cells : List (Nat × Byte)) : Bool :=
  !s.unserved cells && !cells.any fun c => s.bad.contains (badUnit c.1) && !covers cells (badUnit c.1)

/-- A posted write is performed at its home (R384), or another task's: a refused part is recorded with its task (R255, R326). -/
def State.perform (s : State) (p : Posted) : State :=
  let r := s.storeCells p.cells
  let rows := (granulesOf p.cells).filter (s.isMaster ·)
  let s' := r.1.modTask p.tid fun t => { t with rowWrites := t.rowWrites ++ rows }
  let s' := if s.unserved p.cells then s'.failTask p.tid false else s'
  if r.2 then
    match s'.task p.tid with
    | some t => (s'.setTask (t.fail false)).deliver (s'.part t.part).supcore (coreMsg t.core 6 (faultPayload 0x0D 0xFF t.core 0))
    | none => s'.failTask p.tid false
  else s'

/-- STV's step at the home for a task (R265): none while four versions are held. A write that the home does not take makes
no version (R255, R322, R326); the number that it returns then is free (log 52). -/
def State.newVersion (s : State) (tid pa : Nat) (x : W64) : Option (W16 × State) :=
  let w := s.verOf pa
  let cells := leCells pa 8 x.toNat
  if !s.takes cells then
    some ((Config.freeWord s.free).setWidth 16, { s with free := s.free + 1 }.perform ⟨tid, cells⟩)
  else if (w.l - w.f).toNat = 3 then none
  else
    let l := w.l + 1
    let s := { s with versions := s.versions.put pa ⟨w.f, l, w.vals ++ [x]⟩ }.perform ⟨tid, cells⟩
    some (l, wakeVersion pa l x s.allTasks s)

/-! ## Full bits (R257, R260) -/

def State.isFull (s : State) (pa : Nat) : Bool :=
  match s.fullBits.find pa with
  | some b => b
  | none => if inRanges s.feInit pa then false else Config.freeFull pa

/-- A full word completes a parked LDF or LDFE: with its value, or with MEMERR where it holds an error, whose unit is tested
(R177, R259, R328). -/
def State.fullWake (s : State) (pa : Nat) (t : Task) : State :=
  match badIn s.bad pa 8 with
  | some u => (s.metError (some u)).wakeTask t.tid (.trap .memerr (BitVec.ofNat 64 (t.waitOn.toNat / 64 * 64)))
  | none => s.wakeTask t.tid (.value (BitVec.ofNat 64 (s.loadLE pa 8)))

/-- A word becomes full (R260): every parked LDF completes, then the LDFE parked longest completes and empties it. -/
def State.setFull (s : State) (pa : Nat) : State :=
  let s := { s with fullBits := s.fullBits.put pa true }
  let s := s.allTasks.foldl (fun s t => if t.run = .parked (.full pa false) then s.fullWake pa t else s) s
  match oldest (fun t => t.run == .parked (.full pa true)) s.allTasks with
  | some t => { s with fullBits := s.fullBits.put pa false }.fullWake pa t
  | none => s

/-! ## Fetch (R59) -/

/-- Fetch one word. From an ABSENT row or block or an evicted position the model fetches the word 0, which decodes to no
instruction: R59 says nothing of such a fetch (DESIGN CHOICE, log 50). -/
def State.fetch (s : State) (pc : W64) : Except Miss (W32 × State) :=
  if pc.toNat % 4 ≠ 0 then s.refuse .align pc
  else match s.locate pc 4 { x := true } with
    | .error e => .error e
    | .ok (l, s') =>
      match l.place with
      | .at pa => (s'.granuleOk pc pa 4).map fun s' => (BitVec.ofNat 32 (s'.loadLE pa 4), s')
      | _ => .ok (0, s')

end Sys2Proof.Machine
end

