-- ==== Sys2Proof/Machine/Formats.lean ====
section
/-! DEFINITION. Number formats and arithmetic (chapter 05): exact values, their encodings, and the one rounding. -/

namespace Sys2Proof.Machine

/-- An exact value: NaN, an infinity, or (-1)^neg · m · 2^e. Zero keeps its sign (R112). -/
inductive FV
  | nan
  | inf (neg : Bool)
  | fin (neg : Bool) (m : Nat) (e : Int)
deriving DecidableEq, Repr

/-- Fraction bits of a floating format (R103). -/
def mBits : Ft → Nat
  | .fp32 => 23 | .bf16 => 7 | .fp16 => 10 | .e4m3 => 3 | .e5m2 => 2 | _ => 0
/-- Exponent bias (R103). -/
def fBias : Ft → Nat
  | .fp32 => 127 | .bf16 => 127 | .fp16 => 15 | .e4m3 => 7 | .e5m2 => 15 | _ => 0
/-- Largest finite encoding without sign (R104); for an integer format the top of its range (R106). -/
def maxEnc : Ft → Nat
  | .fp32 => 0x7F7FFFFF | .bf16 => 0x7F7F | .fp16 => 0x7BFF | .e4m3 => 0x7E | .e5m2 => 0x7B
  | .int32 => 0x7FFFFFFF | .int16 => 0x7FFF | .int8 => 0x7F
/-- Encoding of +inf (R104); e4m3 has none and saturates. -/
def infEnc : Ft → Nat
  | .e4m3 => 0x7E | f => maxEnc f + 1
/-- The canonical NaN (R105, R111). -/
def canonNaN : Ft → Nat
  | .fp32 => 0x7FC00000 | .bf16 => 0x7FC0 | .fp16 => 0x7E00 | .e4m3 => 0x7F | .e5m2 => 0x7E | _ => 0
/-- Bits of an element. -/
def fBits (f : Ft) : Nat := 8 * f.width
/-- The sign bit of an element. -/
def signBit (f : Ft) : Nat := 2 ^ (fBits f - 1)

/-- Two's-complement value of the low `w` bits of `n`. -/
def toSigned (w n : Nat) : Int :=
  let m := n % 2 ^ w
  if m < 2 ^ (w - 1) then (m : Int) else (m : Int) - (2 ^ w : Nat)
/-- Low `w` bits of an integer. -/
def ofSigned (w : Nat) (i : Int) : Nat := (i % ((2 ^ w : Nat) : Int)).toNat

/-- The exact value of an integer. -/
def FV.ofInt (i : Int) : FV := .fin (decide (i < 0)) i.natAbs 0

/-- Decode (R104, R106): the exact value an encoding stands for. -/
def decodeEl (f : Ft) (n : Nat) : FV :=
  if f.isFloat then
    let mb := mBits f
    let mag := n % signBit f
    let neg := decide (n / signBit f % 2 = 1)
    let e := mag / 2 ^ mb
    let fr := mag % 2 ^ mb
    if f = .e4m3 then
      if mag = 0x7F then .nan
      else if e = 0 then .fin neg fr (1 - 7 - 3) else .fin neg (8 + fr) ((e : Int) - 7 - 3)
    else if mag = infEnc f then .inf neg
    else if mag > infEnc f then .nan
    else if e = 0 then .fin neg fr (1 - (fBias f : Int) - mb)
    else .fin neg (2 ^ mb + fr) ((e : Int) - fBias f - mb)
  else FV.ofInt (toSigned (fBits f) n)

/-- Floor of the base-2 logarithm of a positive fraction. -/
def log2Frac (num den : Nat) : Int :=
  let k := (num.log2 : Int) - (den.log2 : Int)
  let ge := if k ≥ 0 then decide (num ≥ den * 2 ^ k.toNat) else decide (num * 2 ^ (-k).toNat ≥ den)
  if ge then k else k - 1

/-- Nearest integer to num/den, ties to even; toward zero when `rtz`. -/
def nearInt (rtz : Bool) (num den : Nat) : Nat :=
  let q := num / den
  let r := num % den
  if rtz then q
  else if 2 * r > den then q + 1
  else if 2 * r = den then q + q % 2
  else q

/-- The magnitude encoding, on the grid extended above the largest finite value, nearest to num/den (R111). -/
def gridEnc (f : Ft) (rtz : Bool) (num den : Nat) : Nat :=
  if num = 0 then 0 else
  let emin : Int := 1 - (fBias f : Int)
  let k := log2Frac num den
  let k' := if k < emin then emin else k
  let u := k' - (mBits f : Int)
  let q := if u ≥ 0 then nearInt rtz num (den * 2 ^ u.toNat) else nearInt rtz (num * 2 ^ (-u).toNat) den
  (k' - emin).toNat * 2 ^ mBits f + q

/-- RoundNE and RoundZ of ±num/den (R111): the encoding. -/
def roundQ (f : Ft) (rtz neg : Bool) (num den : Nat) : Nat :=
  if f.isFloat then
    let g := gridEnc f rtz num den
    let mag := if g > maxEnc f then (if rtz then maxEnc f else infEnc f) else g
    if neg then signBit f + mag else mag
  else
    let q := nearInt rtz num den
    let top := maxEnc f
    if neg then (if q > top + 1 then top + 1 else ofSigned (fBits f) (-(q : Int))) else (if q > top then top else q)

/-- Round (R111): RoundNE, or RoundZ when `rtz`, of an exact value into a format. -/
def round (f : Ft) (rtz : Bool) : FV → Nat
  | .nan => canonNaN f
  | .inf neg =>
    if f.isFloat then (if neg then signBit f + infEnc f else infEnc f)
    else (if neg then maxEnc f + 1 else maxEnc f)
  | .fin neg m e => if e ≥ 0 then roundQ f rtz neg (m * 2 ^ e.toNat) 1 else roundQ f rtz neg m (2 ^ (-e).toNat)

/-- RoundNE (R111). -/
def roundNE (f : Ft) (v : FV) : Nat := round f false v
/-- RoundNE to fp32, as an exact value again. -/
def rnd32 (v : FV) : FV := decodeEl .fp32 (roundNE .fp32 v)

namespace FV

def isNaN : FV → Bool
  | .nan => true
  | _ => false
def isInf : FV → Bool
  | .inf _ => true
  | _ => false
def isZero : FV → Bool
  | .fin _ m _ => m == 0
  | _ => false
def isNeg : FV → Bool
  | .nan => false
  | .inf n => n
  | .fin n _ _ => n
/-- NaN or an infinity (R118). -/
def nonFinite : FV → Bool
  | .fin _ _ _ => false
  | _ => true
def neg : FV → FV
  | .nan => .nan
  | .inf n => .inf (!n)
  | .fin n m e => .fin (!n) m e
def abs : FV → FV
  | .nan => .nan
  | .inf _ => .inf false
  | .fin _ m e => .fin false m e

/-- Signed significand. -/
def sig (n : Bool) (m : Nat) : Int := if n then -(m : Int) else m

/-- Exact sum (R112). -/
def add : FV → FV → FV
  | .nan, _ => .nan
  | _, .nan => .nan
  | .inf a, .inf b => if a = b then .inf a else .nan
  | .inf a, .fin _ _ _ => .inf a
  | .fin _ _ _, .inf b => .inf b
  | .fin n m e, .fin n' m' e' =>
    let lo := min e e'
    let s := sig n m * (2 ^ (e - lo).toNat : Nat) + sig n' m' * (2 ^ (e' - lo).toNat : Nat)
    if s = 0 then .fin (n && n' && m == 0 && m' == 0) 0 0 else .fin (decide (s < 0)) s.natAbs lo

def sub (a b : FV) : FV := add a (neg b)

/-- Exact product (R112, R113). -/
def mul : FV → FV → FV
  | .nan, _ => .nan
  | _, .nan => .nan
  | .inf a, .inf b => .inf (a != b)
  | .inf a, .fin n m _ => if m = 0 then .nan else .inf (a != n)
  | .fin n m _, .inf b => if m = 0 then .nan else .inf (n != b)
  | .fin n m e, .fin n' m' e' => .fin (n != n') (m * m') (e + e')

/-- The zero-product rule (R113). -/
def mulz (a b : FV) : FV := if a.isZero || b.isZero then .fin false 0 0 else mul a b

/-- Numeric order of two values, neither NaN; zeros are equal. -/
def lt : FV → FV → Bool
  | .nan, _ => false
  | _, .nan => false
  | .inf a, .inf b => a && !b
  | .inf a, .fin _ _ _ => a
  | .fin _ _ _, .inf b => !b
  | .fin n m e, .fin n' m' e' =>
    let lo := min e e'
    decide (sig n m * (2 ^ (e - lo).toNat : Nat) < sig n' m' * (2 ^ (e' - lo).toNat : Nat))

/-- Numeric equality; zeros are equal, NaN equals nothing. -/
def eq (a b : FV) : Bool := !a.isNaN && !b.isNaN && !lt a b && !lt b a

/-- Order with −0 below +0 (R140). -/
def ltz (a b : FV) : Bool := lt a b || (a.isZero && b.isZero && a.isNeg && !b.isNeg)

/-- Min and Max (R140): NaN if either is. -/
def min (a b : FV) : FV := if a.isNaN || b.isNaN then .nan else if ltz b a then b else a
def max (a b : FV) : FV := if a.isNaN || b.isNaN then .nan else if ltz a b then b else a

end FV

/-- Convert (R111). -/
def convertEl (src dst : Ft) (rtz : Bool) (n : Nat) : Nat := round dst rtz (decodeEl src n)

/-- A sum in an integer format wraps (R139). -/
def wrapInt (f : Ft) (i : Int) : Nat := ofSigned (fBits f) i
/-- Saturate into an integer format (R111). -/
def satInt (f : Ft) (i : Int) : Nat :=
  let top : Int := maxEnc f
  ofSigned (fBits f) (if i > top then top else if i < -top - 1 then -top - 1 else i)

/-- RoundNE(old + v) of a row, copy or queue addition (R190, R218): integer formats saturate. -/
def addSat (f : Ft) (a b : Nat) : Nat :=
  if f.isFloat then roundNE f (FV.add (decodeEl f a) (decodeEl f b))
  else satInt f (toSigned (fBits f) a + toSigned (fBits f) b)
/-- Maximum by R140, as an encoding; the exact operand unrounded, NaN canonical. -/
def maxEl (f : Ft) (a b : Nat) : Nat :=
  let x := decodeEl f a
  let y := decodeEl f b
  if x.isNaN || y.isNaN then canonNaN f else if FV.ltz x y then b else a
/-- Minimum by R140. -/
def minEl (f : Ft) (a b : Nat) : Nat :=
  let x := decodeEl f a
  let y := decodeEl f b
  if x.isNaN || y.isNaN then canonNaN f else if FV.ltz y x then b else a

/-! S20 scales and CB4 (R107 to R110). -/

/-- What an S20 scale word stands for (R109): a value, the zero scale, or a NaN block. -/
inductive Scale
  | value (m : Nat) (e : Int)
  | zero (reserved : Bool)
  | nan
deriving DecidableEq, Repr

def decodeScale (w : Nat) : Scale :=
  let e := w / 4096 % 256
  let f := w % 4096
  if e = 0 then .zero (f != 0) else if e = 255 then .nan else .value (4096 + f) ((e : Int) - 127 - 12)

/-- A reserved scale, which is counted (R109, R110). -/
def scaleReserved (w : Nat) : Bool := w / 4096 % 256 == 0 && w % 4096 != 0

/-- An element in a block with a scale (R110). -/
def scaleEl (s : Scale) (v : FV) : FV :=
  match s with
  | .zero _ => .fin false 0 0
  | .nan => .nan
  | .value m e => FV.mul v (.fin false m e)

/-- Value of code `c` in a codebook (R107). -/
def cbVal (cb : List W16) (c : Nat) : FV := decodeEl .bf16 (cb.getD c 0).toNat

/-- Lowest code of `l` whose value passes the test. -/
def firstCode (p : FV → Bool) : List (Nat × FV) → Option Nat
  | [] => none
  | (c, v) :: r => if p v then some c else firstCode p r

/-- Distance between a finite value and a table entry, as an exact value. -/
def cbDist (x v : FV) : FV := (FV.sub x v).abs

/-- The code at the least distance from x, lowest code first. -/
def nearestCode (x : FV) : List (Nat × FV) → Option (Nat × FV) → Option (Nat × FV)
  | [], best => best
  | (c, v) :: r, none => nearestCode x r (some (c, cbDist x v))
  | (c, v) :: r, some (b, d) => nearestCode x r (if FV.lt (cbDist x v) d then some (c, cbDist x v) else some (b, d))

/-- The code with the largest (or smallest) entry, lowest first. -/
def extremeCode (big : Bool) : List (Nat × FV) → Option (Nat × FV) → Option (Nat × FV)
  | [], best => best
  | p :: r, none => extremeCode big r (some p)
  | p :: r, some b =>
    extremeCode big r (if (if big then FV.lt b.2 p.2 else FV.lt p.2 b.2) then some p else some b)

/-- Conversion into CB4 (R108): the code, and whether it counts as non-finite. -/
def toCB4 (cb : List W16) (x : FV) : Nat × Bool :=
  let all := (List.range 16).map fun c => (c, cbVal cb c)
  let vals := all.filter fun p => !p.2.isNaN
  match x with
  | .nan => match firstCode FV.isNaN all with
    | some c => (c, vals.isEmpty)
    | none => (0, true)
  | .inf n =>
    if vals.isEmpty then (0, true) else
    match firstCode (fun v => v == .inf n) vals with
    | some c => (c, false)
    | none => (((extremeCode (!n) vals none).map (·.1)).getD 0, false)
  | .fin _ _ _ =>
    if vals.isEmpty then (0, true) else
    match nearestCode x vals none with
    | some (c, _) => (c, false)
    | none => (0, true)

end Sys2Proof.Machine
end

