-- ==== Sys2Proof/Machine/ViewOps.lean ====
section
/-! DEFINITION. Views (R270 to R279): sequence numbers, where a block's elements and state entry lie, and the
derivation of a block. -/

namespace Sys2Proof.Machine

/-- v has reached m (R271). -/
def reached (v m : Nat) : Bool := decide ((v + 2 ^ 32 - m % 2 ^ 32) % 2 ^ 32 < 2 ^ 31)

/-- Physical address of a master address, by the pieces of the master's pages. -/
def masterPa (va : Nat) : List (Nat × Nat × Nat) → Option Nat
  | [] => none
  | (vb, n, pb) :: r => if vb ≤ va ∧ va < vb + n then some (pb + (va - vb)) else masterPa va r

/-- Virtual address of the first byte of a master block (R270, R272). -/
def View.masterVa (v : View) (row blk : Nat) : Nat := v.mbase + row * v.mpitch + blk * (32 * v.esize)

/-- Physical granules of a master block. -/
def View.granules (v : View) (row blk : Nat) : List Nat :=
  (List.range (v.esize / 2)).filterMap fun k => masterPa (v.masterVa row blk + 64 * k) v.master

/-- MSEQ of one granule's share of a block (R270): what the frame's side state held, and the writes since. -/
def State.mseqOf (s : State) (g : Nat) : Nat :=
  (if inRanges s.masterInit g then 0 else Config.freeMseq g) + s.mseq.getD g 0
/-- MSEQ of a master block (R270). -/
def State.blockSeq (s : State) (v : View) (row blk : Nat) : Nat :=
  ((v.granules row blk).foldl (fun n g => n + s.mseqOf g) 0) % 2 ^ 32

/-- The shard that holds a master row (R273). -/
def shardOf (row : Nat) : List Shard → Option Shard
  | [] => none
  | h :: r => if h.firstRow ≤ row ∧ row < h.firstRow + h.nrows then some h else shardOf row r

/-- Bits of a view element (R274). -/
def View.ebits (v : View) : Nat := if v.vf = 8 then 4 else if v.vf = 1 ∨ v.vf = 2 then 16 else 8
/-- Blocks per VLDV (R281). -/
def View.nb (v : View) : Nat := 2048 / (32 * v.ebits)
/-- Element format of a view, but for CB4 (R272). -/
def View.vft (v : View) : Ft :=
  if v.vf = 1 then .bf16 else if v.vf = 2 then .fp16 else if v.vf = 3 then .e4m3 else if v.vf = 4 then .e5m2 else .int8

/-- Bytes of one slot of a shard (R274). -/
def View.slotBytes (v : View) (h : Shard) : Nat :=
  if v.layout = 0 then h.nrows * roundUp64 (v.cols * v.ebits / 8)
  else if v.layout = 1 then v.cols * roundUp64 ((h.nrows * v.ebits + 7) / 8)
  else roundUp64 (h.nrows * v.cols * v.ebits / 8)

/-- Bit offset of element (r, c) in a slot, r counted in the shard (R274). -/
def View.bitOffset (v : View) (h : Shard) (r c : Nat) : Nat :=
  if v.layout = 0 then 8 * (r * roundUp64 (v.cols * v.ebits / 8)) + c * v.ebits
  else if v.layout = 1 then 8 * (c * roundUp64 ((h.nrows * v.ebits + 7) / 8)) + r * v.ebits
  else (r * v.cols / 32 + c / 32) * 32 * v.ebits + (c % 32) * v.ebits

/-- Virtual address of a block's state entry (R274). -/
def View.stateVa (v : View) (h : Shard) (row blk : Nat) : Nat :=
  h.sbase + 16 * ((row - h.firstRow) * v.cols / 32 + blk)

/-- Why an engine's access fails (R193, R287): its cause, or none where it waits for a unit under test (R327); the state that
its walk leaves; and the place of an uncorrectable error. -/
structure EMiss where
  cause : Option Cause
  s : State
  err : Option Nat := none
deriving DecidableEq, Repr

/-- Translate an engine's access in a partition (R287, R315, R322). -/
def State.engineGo (s : State) (part va n : Nat) (need : Need) : Except EMiss (Place × PageKind × State) :=
  if 2 ^ 56 ≤ va then .error ⟨some .xlate, s, none⟩
  else if va < 0x01000000 then .error ⟨some .access, s, none⟩
  else match s.walk part va with
    | .error (c, e) => .error ⟨c, s, e⟩
    | .ok (e, s') =>
      if !e.allows need then .error ⟨some .access, s', none⟩
      else match s'.resolve e va with
        | .error (c, e) => .error ⟨c, s', e⟩
        | .ok (.at pa) =>
          if assigned pa && assigned (pa + (n - 1)) && s'.served pa then .ok (.at pa, e.kind, s') else .error ⟨some .access, s', none⟩
        | .ok p => .ok (p, e.kind, s')
/-- An engine's access of n bytes; it waits while a unit under test serves the place (R223, R327). -/
def State.engineAt (s : State) (part va n : Nat) (need : Need) : Except EMiss (Place × PageKind × State) :=
  match s.engineGo part va n need with
  | .ok (.at pa, k, s') => if s'.underTest pa n then .error ⟨none, s', none⟩ else .ok (.at pa, k, s')
  | r => r

/-- Starts of the parts of a range on each 64 KiB page, with their lengths. -/
def pageParts : Nat → Nat → Nat → List (Nat × Nat)
  | 0, _, _ => []
  | fuel + 1, a, n =>
    if n = 0 then []
    else
      let k := Nat.min n (65536 - a % 65536)
      (a, k) :: pageParts fuel (a + k) (n - k)
def pagesIn (a n : Nat) : List (Nat × Nat) := pageParts (n / 65536 + 2) a n
def View.masterRanges (v : View) : List (Nat × Nat) :=
  (List.range v.rows).flatMap fun r => pagesIn (v.mbase + r * v.mpitch) (v.cols * v.esize)
/-- Where the master of a view lies is read again from the page tables (R288): the pieces of its pages that are MASTER now. -/
def View.refresh (v : View) (part : Nat) (s : State) : View :=
  { v with master := v.masterRanges.filterMap fun p =>
      match s.leafOf part p.1 with
      | some e => if e.kind = .master then some (p.1, p.2, e.frame + (p.1 - e.base)) else none
      | none => none }

/-- Physical address behind a view's storage, state area or table, where it translates. -/
def State.viewPa (s : State) (part va : Nat) : Option Nat :=
  match s.engineGo part va 1 {} with
  | .ok (.at pa, _, _) => some pa
  | _ => none

/-- A block's state entry (R274). -/
structure BlockState where
  vtag : Nat
  born : Bool
  faulted : Bool
  slot : Nat
  sc0 : Nat
  sc1 : Nat
deriving DecidableEq, Repr

def BlockState.ofWords (s0 s1 : Nat) : BlockState :=
  ⟨bitsOf s0 32 32, bitsOf s0 31 1 == 1, bitsOf s0 30 1 == 1, bitsOf s0 29 1, bitsOf s1 0 32, bitsOf s1 32 32⟩
def BlockState.words (b : BlockState) : Nat × Nat :=
  (b.vtag * 2 ^ 32 + bitIf b.born 31 + bitIf b.faulted 30 + b.slot * 2 ^ 29, b.sc1 * 2 ^ 32 + b.sc0)
/-- The scale of the active slot. -/
def BlockState.scale (b : BlockState) : Nat := if b.slot = 0 then b.sc0 else b.sc1

/-- Read a block's state entry. -/
def State.blockState (s : State) (part : Nat) (v : View) (row blk : Nat) : Option BlockState :=
  match shardOf row v.shards with
  | none => none
  | some h => (s.viewPa part (v.stateVa h row blk)).map fun pa => .ofWords (s.loadLE pa 8) (s.loadLE (pa + 8) 8)

/-- The physical bytes of a block: its master granules, its state entry, and its elements in both slots. -/
def View.places (v : View) (part row blk : Nat) (s : State) : List (Nat × Nat) :=
  (v.granules row blk).map ((·, 64)) ++ match shardOf row v.shards with
    | none => []
    | some h =>
      ((s.viewPa part (v.stateVa h row blk)).map ((·, 16))).toList
        ++ (List.range 64).filterMap fun k =>
          (s.viewPa part (h.vbase + k / 32 * v.slotBytes h + v.bitOffset h (row - h.firstRow) (32 * blk + k % 32) / 8)).map
            ((·, Nat.max 1 (v.ebits / 8)))

/-- Every view block over a granule is fresh or marked FAULTED (R268). -/
def State.published (s : State) (g : Nat) : Bool :=
  s.parts.all fun (p, q) => q.views.all fun (_, v) =>
    match v.blockOf g v.master with
    | none => true
    | some (row, blk) =>
      match s.blockState p v row blk with
      | none => true
      | some b => b.faulted || (b.born && reached b.vtag (s.blockSeq v row blk))

/-- What a derivation of a block gives (R279). -/
inductive Derived
  | fault
  | memErr
  | ok (scale : Nat) (codes : List Nat)
deriving DecidableEq, Repr

/-- The smallest S20 scale whose value is at least num/den, with E from 1 to 254 (R279). -/
def scaleFor (num den : Nat) : Option Nat :=
  let k := log2Frac num den
  -- ceiling of num/den · 2^(12 - k)
  let up (n d : Nat) := (n + d - 1) / d
  let q := if 12 - k ≥ 0 then up (num * 2 ^ (12 - k).toNat) den else up num (den * 2 ^ (k - 12).toNat)
  let (k, q) := if q ≥ 8192 then (k + 1, 4096) else (k, q)
  if k + 127 > 254 then none
  else if k + 127 < 1 then some 4096
  else some ((k + 127).toNat * 4096 + (q - 4096))

/-- ±m·2^e over a scale, rounded into a format (R279: the quotient is exact). -/
def quotRound (f : Ft) (x : FV) (sm : Nat) (se : Int) : Nat :=
  match x with
  | .fin n m e =>
    let d := e - se
    if d ≥ 0 then roundQ f false n (m * 2 ^ d.toNat) sm else roundQ f false n m (sm * 2 ^ (-d).toNat)
  | v => roundNE f v

/-- Largest finite magnitude of a codebook, as an exact value. -/
def cbMax (cb : List W16) : FV :=
  ((List.range 16).map fun c => (cbVal cb c).abs).foldl (fun a v => if v.nonFinite then a else FV.max a v) (.fin false 0 0)

/-- Qmax (R279). -/
def View.qmax (v : View) : FV :=
  if v.vf = 3 then .fin false 448 0 else if v.vf = 4 then .fin false 57344 0 else if v.vf = 7 then .fin false 127 0 else cbMax v.cb

/-- Derive a block from its 32 master elements (R279). -/
def View.deriveFrom (v : View) (xs : List FV) : Derived :=
  if xs.any FV.nonFinite then .fault
  else if v.vf = 1 ∨ v.vf = 2 then
    let q := xs.map (roundNE v.vft)
    if q.any fun c => (decodeEl v.vft c).nonFinite then .fault else .ok 0x7F000 q
  else
    match xs.foldl (fun a x => FV.max a x.abs) (.fin false 0 0), v.qmax with
    | .fin _ m e, .fin _ qm qe =>
      if m = 0 then .ok 0 (xs.map fun _ => 0)
      else
        let d := e - qe
        let sc := if d ≥ 0 then scaleFor (m * 2 ^ d.toNat) qm else scaleFor m (qm * 2 ^ (-d).toNat)
        match sc with
        | none => .fault
        | some w =>
          match decodeScale w with
          | .value sm se =>
            if v.vf = 8 then
              let vals := ((List.range 16).map fun c => (c, cbVal v.cb c)).filter fun p => !p.2.isNaN
              let vals := vals.map fun p => (p.1, FV.mul p.2 (.fin false sm se))
              .ok w (xs.map fun x => ((nearestCode x vals none).map (·.1)).getD 0)
            else .ok w (xs.map fun x => quotRound v.vft x sm se)
          | _ => .fault
    | _, _ => .fault

/-- Derive (R279), without publishing, from the bytes of a master block; none at a memory error. -/
def View.deriveBytes (v : View) (bytes : Option Nat) : Derived :=
  match bytes with
  | none => .memErr
  | some n => v.deriveFrom ((List.range 32).map fun k => decodeEl v.mf (n / 256 ^ (k * v.esize) % 256 ^ v.esize))

/-- The 4·E bytes of a block's codes packed as R107 and R274 order them. -/
def packCodes (ebits : Nat) : List Nat → Nat
  | [] => 0
  | c :: r => c % 2 ^ ebits + 2 ^ ebits * packCodes ebits r

end Sys2Proof.Machine
end

