-- ==== Sys2Proof/Machine/Homes.lean ====
section
/-! DEFINITION. Homes: path latencies (R174, R216, R303, R317), lock bits (R214, R217), and answers on their way back to
a task (R216, R219, R265). -/

namespace Sys2Proof.Machine

/-- Latency of an atomic at its home (R216). -/
def State.atomicLatency (s : State) (core pa : Nat) (local_ : Bool) : Nat :=
  (if local_ then 14 else s.pathLatency core pa) + (if isSram pa then 6 else 20)

/-- The home and the lock bit of an address (R214). -/
def lockKey (pa : Nat) : Nat × Nat :=
  if 0xF80000000000 ≤ pa then
    let o := (pa - 0xF80000000000) % 0x200000
    (pa / 0x200000, (bitsOf o 11 4).xor ((bitsOf o 15 4).xor (bitsOf o 19 2)))
  else if 0xF00000000000 ≤ pa then
    let o := (pa - 0xF00000000000) % 0x800000
    (pa / 0x800000 * 32 + bitsOf o 6 5, (bitsOf o 11 4).xor ((bitsOf o 15 4).xor (bitsOf o 19 4)))
  else (pseudoChannel pa, (bitsOf pa 10 4).xor ((bitsOf pa 14 4).xor (bitsOf pa 18 4)))

/-- The bit is set. -/
def State.lockHeld (s : State) (k : Nat × Nat) : Bool := s.locks.any fun l => l.1 == k.1 && l.2.1 == k.2
/-- The refused requests that a home has recorded for a bit, oldest first. -/
def State.refused (s : State) (k : Nat × Nat) : List Nat :=
  (s.lockQueue.filter fun l => l.1 == k.1 && l.2.1 == k.2).map (·.2.2)

/-- A lock request is granted (R214): the bit is clear, and not reserved for an older refused request. -/
def State.lockGrant (s : State) (k : Nat × Nat) (tid : Nat) : Bool :=
  !s.lockHeld k && (match s.refused k with | [] => true | o :: _ => o == tid)

/-- A refused request: recorded, up to 8 per bit; the core retries 8 cycles later (R214). -/
def lockRefuse (k : Nat × Nat) (s : State) : Out :=
  let q := s.refused k
  let s := if q.contains s.t.tid || decide (8 ≤ q.length) then s else { s with lockQueue := s.lockQueue ++ [(k.1, k.2, s.t.tid)] }
  stall (State.after { s with t := { s.t with lockWait := true } } (dieClk s.t.core) 8 (.lockRetry s.t.tid))

/-- The request has been served: its record goes. -/
def State.lockServed (s : State) (k : Nat × Nat) (tid : Nat) : State :=
  { s with lockQueue := s.lockQueue.filter fun l => !(l.1 == k.1 && l.2.1 == k.2 && l.2.2 == tid) }
/-- Set and clear a lock bit (R214). -/
def State.setLock (s : State) (k : Nat × Nat) (tid : Nat) : State := { s with locks := (k.1, k.2, tid) :: s.locks }
def State.clearLock (s : State) (k : Nat × Nat) : State :=
  { s with locks := s.locks.filter fun l => !(l.1 == k.1 && l.2.1 == k.2) }

/-- LOCK_RETRY (R214): the core tries the refused request again. -/
def execLockRetry (tid : Nat) (s : State) : Out := .next (s.modTask tid fun t => { t with lockWait := false })

/-- The home's step is done; its answer comes later, with the destination interlocked (R216, R265). -/
def answer (delay : Nat) (rd : Option Reg) (v : W64) (regs : List (Reg × VReg)) (s : State) (span : Nat × Nat := (0, 0)) : Out :=
  let c := dieClk s.t.core
  fin (State.after { s with t := { s.t with answers := s.t.answers ++ [Answer.mk c (s.reads c + delay) rd v regs span] } } c delay
    (.homeAnswer s.t.tid))

/-- An answer has come. -/
def State.come (s : State) (a : Answer) : Bool := decide (a.due ≤ s.reads a.clk)
/-- Take the answers that have come. -/
def State.takeAnswers (s : State) (t : Task) : Task :=
  { t.takeAll (t.answers.filter s.come) with answers := t.answers.filter fun a => !s.come a }

/-- HOME_ANSWER (R216, R219, R265): the answers that have come write their destinations. -/
def execHomeAnswer (tid : Nat) (s : State) : Out := .next (s.modTask tid s.takeAnswers)

end Sys2Proof.Machine
end

