-- ==== Sys2Proof/Machine/Control.lean ====
section
/-! DEFINITION. Control transfers (R54 to R59), TRAP, ERET, HALT and URET (R64, R75, R79). -/

namespace Sys2Proof.Machine

/-- Address of the unit that follows: the delay slot of a taken transfer (R55). -/
def Task.nextUnit (t : Task) : W64 := t.pc + BitVec.ofNat 64 t.len

/-- A taken transfer (R54, R55): the delay-slot word is fetched first, so its P bit fixes the return address; a
fetch that fails is raised by the transfer's own unit (R59). -/
def takeTransfer (T : W64) (link : Option Reg) (s : State) : Out :=
  orTrap (s.fetch s.t.nextUnit) fun (w, s') =>
    let L := s.t.nextUnit + (if w.getLsbD 31 then 8 else 4)
    let s' := match link with | some rd => s'.xw rd L | none => s'
    fin { s' with t := { s'.t with xfer := some T } }

/-- A conditional branch (R54). -/
def branch (i : Instr) (off : BitVec 14) (taken : Bool) (s : State) : Out :=
  gate i s fun s => if taken then takeTransfer (pcRel off s) none s else fin s

/-- A jump to a register (R54): a misaligned target raises ALIGN before any effect. -/
def jumpReg (i : Instr) (T : W64) (link : Option Reg) (s : State) : Out :=
  gate i s fun s => if T.toNat % 4 ≠ 0 then raise .align T s else takeTransfer T link s

/-- J (R54). -/
def execJ (off : BitVec 24) (s : State) : Out := gate (.j off) s fun s => takeTransfer (pcRel off s) none s
/-- JL (R54). -/
def execJl (off : BitVec 24) (s : State) : Out := gate (.jl off) s fun s => takeTransfer (pcRel off s) (some lk) s
/-- JR (R54). -/
def execJr (ra : Reg) (s : State) : Out := jumpReg (.jr ra) (s.xr ra) none s
/-- JLR (R54): xa is read before xd is written. -/
def execJlr (rd ra : Reg) (s : State) : Out := jumpReg (.jlr rd ra) (s.xr ra) (some rd) s
/-- BEQ (R54). -/
def execBeq (ra rb : Reg) (off : BitVec 14) (s : State) : Out :=
  branch (.beq ra rb off) off (s.xr ra == s.xr rb) s
/-- BNE (R54). -/
def execBne (ra rb : Reg) (off : BitVec 14) (s : State) : Out :=
  branch (.bne ra rb off) off (s.xr ra != s.xr rb) s
/-- BLT (R54). -/
def execBlt (ra rb : Reg) (off : BitVec 14) (s : State) : Out :=
  branch (.blt ra rb off) off ((s.xr ra).slt (s.xr rb)) s
/-- BGE (R54). -/
def execBge (ra rb : Reg) (off : BitVec 14) (s : State) : Out :=
  branch (.bge ra rb off) off (!(s.xr ra).slt (s.xr rb)) s
/-- BLTU (R54). -/
def execBltu (ra rb : Reg) (off : BitVec 14) (s : State) : Out :=
  branch (.bltu ra rb off) off ((s.xr ra).ult (s.xr rb)) s
/-- BGEU (R54). -/
def execBgeu (ra rb : Reg) (off : BitVec 14) (s : State) : Out :=
  branch (.bgeu ra rb off) off (!(s.xr ra).ult (s.xr rb)) s

/-- TRAP (R64, R72); in a delay slot its EPC is the branch's target and BTGT stays as it was (DEDUCED, log 69). -/
def execTrap (ra : Reg) (s : State) : Out := gate (.trap ra) s fun s => raiseTrapi (s.xr ra) s

/-- The task continues where a record says (R74, R75): the sequencer reloaded after a vector-precise trap, and
with DS the unit at EPC as the delay slot of a taken transfer to BTGT. -/
def Task.continueAt (t : Task) : Task :=
  let t := if t.cause.getLsbD 8 then { t with seq := { t.seq with items := t.replay.items }, replay := {} } else t
  let t := { t with pc := t.epc, xfer := none, last := .moved }
  if t.st.ds then { t with st := { t.st with ds := false }, slot := some t.btgt } else { t with slot := none }

/-- ERET (R75). A reload of the sequencer waits until the handler's own vector words have completed. -/
def execEret (s : State) : Out :=
  gate .eret s fun s =>
    if !s.t.st.s then raise .illegal s.tword s
    else if s.t.cause.getLsbD 8 && !s.t.seqEmpty then stallSeq s
    else
      let t := s.t.setHigh s.t.trapSave
      .next { s with t := { t with st := { t.st with s := t.st.ps, ps := false } }.continueAt }

/-- HALT (R64): parks until a RESUME names the task. -/
def execHalt (s : State) : Out :=
  gate .halt s fun s => match s.t.wake with
    | some _ => fin s
    | none => park .halt s

/-- URET (R79). -/
def execUret (s : State) : Out :=
  gate .uret s fun s =>
    if !s.t.st.uia then raise .illegal s.tword s
    else
      let t := s.t.setHigh s.t.uiShadow
      .next { s with t := { t with st := { t.st with uia := false }, pc := t.uiepc, last := .moved } }

end Sys2Proof.Machine
end

