-- ==== Sys2Proof/Machine/Waits.lean ====
section
/-! DEFINITION. What an access waits for: the task's own vector accesses (R176), acquires in the sequencer (R252), and
what a release covers (R249, R251, R253, R262). -/

namespace Sys2Proof.Machine

/-! ## Waiting for the task's own vector accesses (R176) -/

/-- Virtual ranges that a vector memory word touches (R182), whatever its predicate. -/
def Entry.spans (e : Entry) : List (W64 × Nat) :=
  match e.i with
  | .vld .. | .vst .. => [(e.a + e.b, 256)]
  | .vlds .. | .vsts .. => (List.range 8).map fun j => (e.a + BitVec.ofNat 64 j * e.b, 32)
  | .vldx .. | .vstx .. => (List.range 8).map fun j => (e.a + BitVec.ofNat 64 (32 * bitsOf e.b.toNat (8 * j) 8), 32)
  | _ => []

/-- The words still to execute in the sequencer, captured ones included where their loop has passes: on the last pass of a loop
those that remain of it (R132, R133). -/
def Seq.entries (q : Seq) : List Entry :=
  let ofUnit (u : SeqUnit) := u.c.toList ++ u.a.toList
  (q.items.flatMap fun i => match i with
    | .unit u => ofUnit u
    | .loop n p rest body _ => (if p + 1 < n then rest ++ body else rest).flatMap ofUnit)
    ++ ((q.cap.map fun c => if c.n = 0 then [] else c.got.flatMap ofUnit).getD [])

/-- How often the words still in the sequencer will execute (R133), each with its number of executions. -/
def Seq.runs (q : Seq) : List (Entry × Nat) :=
  let ofUnit (n : Nat) (u : SeqUnit) := (u.c.toList ++ u.a.toList).map ((·, n))
  (q.items.flatMap fun i => match i with
    | .unit u => ofUnit 1 u
    | .loop n p rest body _ => rest.flatMap (ofUnit 1) ++ body.flatMap (ofUnit (n - p - 1)))
    ++ ((q.cap.map fun c => c.got.flatMap (ofUnit c.n)).getD [])

/-- Address of block k of a walk (R184). -/
def StreamDesc.blockAddr (d : StreamDesc) (k : Nat) : W64 :=
  let i0 := k % d.count0
  let i1 := k / d.count0 % d.count1
  let i2 := k / (d.count0 * d.count1)
  let a := BitVec.ofNat 64 d.base + BitVec.ofNat 64 i0 * d.stride0 + BitVec.ofNat 64 i1 * d.stride1 + BitVec.ofNat 64 i2 * d.stride2
  BitVec.ofNat 64 (a.toNat % 2 ^ 56)
def StreamDesc.total (d : StreamDesc) : Nat := d.count0 * d.count1 * d.count2

/-- The registers that a word reaches as streams (R186). -/
def streamRegs (i : Instr) : List Nat :=
  (match i with | .vrrd .. => [] | _ => (regsOf i).vr) ++ (match i with | .vrwr .. => [] | _ => (regsOf i).vw)
/-- The blocks of a stream that the words in the sequencer will touch (R176, R186). -/
def Task.streamSpans (t : Task) (n : Nat) (b : Stream) : List (W64 × Nat) :=
  let uses := t.seq.runs.foldl (fun m e => if (streamRegs e.1.i).contains n then m + e.2 else m) 0
  if b.ended then []
  else if b.d.wrap then (List.range (Nat.min uses b.d.total)).map fun j => (b.d.blockAddr ((b.k + j) % b.d.total), 256)
  else (List.range (Nat.min uses (b.d.total - b.k))).map fun j => (b.d.blockAddr (b.k + j), 256)

/-- Two ranges of physical bytes overlap. -/
def overlap (a n b m : Nat) : Bool := decide (a < b + m ∧ b < a + n)

/-- Physical pieces of a virtual range, granule by granule; nothing where it does not translate. -/
def State.physSpan (s : State) (a : W64) (n : Nat) : List (Nat × Nat) :=
  (List.range ((n + 31) / 32)).filterMap fun k =>
    match s.locate (a + BitVec.ofNat 64 (32 * k)) 1 {} with
    | .ok (⟨.at pa, _⟩, _) => some (pa, Nat.min 32 n)
    | _ => none

/-- The physical bytes that a VLDV may read (R281): of each of its blocks the master, the state entry and the slots. -/
def State.vldvPlaces (s : State) (e : Entry) : List (Nat × Nat) :=
  match e.i, (s.part s.t.part).views.find e.a.toNat with
  | .vldv .., some v =>
    let row := e.b.toNat / 2 ^ 32
    let blk := e.b.toNat % 2 ^ 32 / 32
    (List.range (Nat.min v.nb (v.cols / 32 - blk))).flatMap fun j => v.places s.t.part row (blk + j) s
  | _, _ => []

/-- An acquire still in the sequencer holds every later access of the task (R252): a vector load or an in-stream block with an
ordering code. -/
def Task.acquires (t : Task) : Bool :=
  t.seq.entries.any fun e =>
    (match e.i with
      | .vld _ _ _ _ sc | .vlds _ _ _ _ sc | .vldx _ _ _ _ sc | .vldv _ _ _ _ sc _ => sc != .plain
      | _ => false)
      || (streamRegs e.i).any fun r => match t.streams.find r with | some b => !b.d.out && b.d.sc != .plain | none => false

/-- A scalar access of n bytes at pa must wait for the task's vector and stream accesses that touch those bytes and are still
in the sequencer or have not delivered (R176), for an acquire among them (R252), and for a row load that has not returned (R219). -/
def State.mustWait (s : State) (pa n : Nat) : Bool :=
  let hits (sp : W64 × Nat) := (s.physSpan sp.1 sp.2).any fun q => overlap pa n q.1 q.2
  s.t.acquires || (s.t.seq.entries.any fun e => e.spans.any hits || (s.vldvPlaces e).any fun q => overlap pa n q.1 q.2)
    || (s.t.streams.any fun b => (s.t.streamSpans b.1 b.2).any hits)
    || (s.t.seq.loads.any fun l => l.vas.any fun a => overlap pa n (windowPa s.t.core a) 1)
    || s.t.answers.any fun a => overlap pa n a.span.1 a.span.2

/-- A unit under test serves part of a posted write: it waits (R223, R313, R327). -/
def State.postedHeld (s : State) (p : Posted) : Bool := !s.pkg.units.isEmpty && p.cells.any fun c => s.underTest c.1 1

/-- A remote write of the task in focus waits for a unit under test: a release waits with it (R251). -/
def State.ownHeld (s : State) : Bool := s.posted.any fun p => p.tid == s.t.tid && s.postedHeld p

/-- Perform the task's posted writes that overlap a range, so that its own access sees them (R176). -/
def flushPosted (tid pa n : Nat) : List Posted → State → State × List Posted
  | [], s => (s, [])
  | p :: r, s =>
    if p.tid == tid && p.cells.any (fun c => decide (pa ≤ c.1 ∧ c.1 < pa + n)) then flushPosted tid pa n r (s.store p.cells)
    else let q := flushPosted tid pa n r s; (q.1, p :: q.2)
def State.flush (s : State) (pa n : Nat) : State :=
  match s.posted with
  | [] => s
  | l => let q := flushPosted s.t.tid pa n l s; { q.1 with posted := q.2 }

/-! ## Releases (R249, R253, R262) -/

/-- A vector word that accesses memory, itself or through a stream. -/
def Task.vecAccesses (t : Task) (e : Entry) : Bool :=
  (match e.i with
    | .vld .. | .vlds .. | .vldx .. | .vldv .. | .vst .. | .vsts .. | .vstx .. | .vstq .. => true
    | _ => false)
    || ((regsOf e.i).vr ++ (regsOf e.i).vw).any fun r => (t.streams.find r).isSome

/-- What the task has sent to homes and other cores is still on its way: KEEP and DROP, counter changes, messages (R254). -/
def State.underWay (s : State) : Bool := !s.t.handleOps.isEmpty || s.sends.any (·.tid == s.t.tid)
/-- A release waits for the accesses still in the sequencer and for what is on its way, and the task's remote writes are performed
before it (log 5), one that a unit under test serves once the test has ended. -/
def releaseAfter (onItsWay : Bool) (s : State) (k : State → Out) : Out :=
  if s.t.seq.entries.any s.t.vecAccesses then stallSeq s
  else if onItsWay || s.ownHeld then stall s else k (s.flush 0 (2 ^ 48))
/-- A release covers every earlier access of the task (R251). -/
def released (s : State) (k : State → Out) : Out := releaseAfter s.underWay s k
/-- A message is a release (R198); it follows the task's earlier messages on the way itself, so issue does not wait for those. -/
def releasedMail (s : State) (k : State → Out) : Out :=
  releaseAfter (!s.t.handleOps.isEmpty || s.sends.any fun f => f.tid == s.t.tid && f.msg.isNone) s k
/-- An access that follows an acquire waits while that stands in the sequencer (R252). -/
def acquired (s : State) (k : State → Out) : Out := if s.t.acquires then stallSeq s else k s
/-- A write with an ordering code is a release (R175). -/
def ordered (sc : Sc) (s : State) (k : State → Out) : Out := if sc = .plain then k s else released s k

end Sys2Proof.Machine
end

