-- ==== Sys2Proof/Machine/Loads.lean ====
section
/-! DEFINITION. Scalar loads and stores (R173, R175 to R181). -/

namespace Sys2Proof.Machine

/-- Bytes of the local window of R173, whatever of it a core's storage fills (R303). -/
def windowSpan : Nat := 0x800000
/-- A compute-phase access is refused (R179): an ordering code, or a byte outside the local window. What an optimiser core's
scratch does not fill of the window is refused by R303, as in PHASE.n. -/
def computeBad (a : W64) (n : Nat) (sc : Sc) (s : State) : Bool :=
  s.t.st.ph = .c && (sc != .plain || decide (windowSpan < a.toNat + n))

/-- LD.d of the untranslated registers (R173): none where the table allows no access. -/
def untransLoad (a : Nat) (s : State) : Option W64 :=
  let k := s.core s.t.core
  let cl := s.cluster (clusterOf s.t.core)
  if 0x800040 ≤ a ∧ a < 0x800080 then
    (if s.t.st.s then some (s.t.trapSave.get (Fin.ofNat 8 ((a - 0x800040) / 8))) else none)
  else if 0x800080 ≤ a ∧ a < 0x8000A0 then
    (if isOpt s.t.core then none
     else some ([cl.offered, cl.converted, cl.fizzled, cl.overflow].getD ((a - 0x800080) / 8) 0))
  else if a = 0x8000A0 then some k.badscale
  else if 0x8000C0 ≤ a ∧ a < 0x8000E0 then
    (if s.t.st.s then some (s.t.nfRec.get (Fin.ofNat 4 ((a - 0x8000C0) / 8))) else none)
  else if a = 0x800100 then (if isOpt s.t.core then none else some cl.imctl)
  else none

/-- A value IMCTL accepts (R168). -/
def imctlOk (v : W64) : Bool :=
  let n := v.toNat
  let b := bitsOf n 16 7 * 65536
  let c := bitsOf n 0 12
  decide (n / 2 ^ 23 = 0 ∧ bitsOf n 12 4 = 0 ∧ c % 16 = 0 ∧ c ≤ 2048 ∧ b + 1024 * c ≤ 0x800000)

/-- ST.d of the untranslated registers (R73, R168, R173): none where it is refused. -/
def untransStore (a : Nat) (v : W64) (s : State) : Option State :=
  if 0x800040 ≤ a ∧ a < 0x800080 then
    (if s.t.st.s then
      some { s with t := { s.t with trapSave := s.t.trapSave.set ((a - 0x800040) / 8 % 8) v (Nat.mod_lt _ (by decide)) } }
     else none)
  else if a = 0x800100 then
    (if s.t.st.s && !isOpt s.t.core && imctlOk v then
      some (s.setCluster (clusterOf s.t.core) { s.cluster (clusterOf s.t.core) with imctl := v })
     else none)
  else none

/-- What a scalar load returns at a located place (R177, R263, R266, R293). -/
def loadAt (a : W64) (n : Nat) (l : Located) (s : State) : Except Miss (Nat × State) :=
  match l.place with
  | .absent c e => .ok (0, s.meetAbsent [(c, e)])
  | .evicted => .ok (0, s)
  | .at pa =>
    let s := s.flush pa n
    if l.kind = .versioned && n != 8 then s.refuse .access a
    else (s.granuleOk a pa n).map fun s => (if l.kind = .versioned then ((s.verOf pa).value (s.verOf pa).l).toNat else s.loadLE pa n, s)

/-- Value of a load of `sz` bytes: zero- or sign-extended (R175). -/
def extend (signed : Bool) (sz : Sz) (v : Nat) : W64 :=
  if signed then
    match sz with
    | .b => sext 8 (BitVec.ofNat 8 v) | .h => sext 16 (BitVec.ofNat 16 v)
    | .w => sext 32 (BitVec.ofNat 32 v) | .d => BitVec.ofNat 64 v
  else BitVec.ofNat 64 v

/-- A located access of n bytes waits for the task's vector accesses (R176, R252). -/
def Located.wait (l : Located) (n : Nat) (s : State) : Bool :=
  match l.place with
  | .at pa => s.mustWait pa n
  | _ => s.t.acquires

/-- An access at row scope on a MASTER page (R267 to R269): a release completes, and what follows an acquire goes on, only
when every view block over these granules is published. -/
def State.rowHold (s : State) (sc : Sc) (k : PageKind) (gs : List Nat) : State :=
  if sc = .row && k = .master then { s with t := { s.t with rowWait := s.t.rowWait ++ gs } } else s
/-- The row of an access that is no row instruction's: the granules of n bytes at a place (R267). -/
def Located.granules (l : Located) (n : Nat) : List Nat :=
  match l.place with | .at pa => granulesOf (leCells pa n 0) | _ => []

/-- LD and LDS (R175): in a compute phase the value is delivered before the 14th unit (R180). -/
def loadScalar (i : Instr) (signed : Bool) (rd : Reg) (a : W64) (sz : Sz) (sc : Sc) (s : State) : Out :=
  gate i s fun s =>
    let n := sz.bytes
    if highAddr a then raise .xlate a s
    else if a.toNat % n ≠ 0 then raise .align a s
    else if computeBad a n sc s then raise .phase a s
    else if 0x800000 ≤ a.toNat ∧ a.toNat < 0x01000000 then
      if sz = .d && !signed then
        match untransLoad a.toNat s with
        | some v => finX rd v s
        | none => raise .access a s
      else raise .access a s
    else orTrap (s.locate a n { r := true }) fun (l, s') =>
      if l.wait n s' then stallSeq s'
      else orTrap (loadAt a n l s') fun (v, s'') =>
        if s.t.st.ph = .c then
          fin { s'' with t := { s''.t with loads := s''.t.loads ++ [{ left := 14, rd := rd, value := extend signed sz v, va := a.toNat, n := n, signed := signed }] } }
        else finX rd (extend signed sz v) (s''.rowHold sc l.kind (l.granules n))

/-- Where and what a plain store writes once located: its cells, none where it is refused or waits. -/
def storeAt (a : W64) (n : Nat) (v : W64) (sc : Sc) (l : Located) (s : State) : Out :=
  match l.place with
  | .absent _ _ => raise .access a s
  | .evicted => raise .access a s
  | .at pa =>
    let s := s.flush pa n
    if l.kind = .view then raise .access a s
    else if l.kind = .versioned then
      if n != 8 then raise .access a s
      else match s.newVersion s.t.tid pa v with
        | some (_, s') => fin s'
        | none => parkOn a (.room pa v) s
    else fin ((s.store (leCells pa n v.toNat)).rowHold sc l.kind (l.granules n))

/-- ST (R175). -/
def execSt (rd ra : Reg) (sz : Sz) (sc : Sc) (imm : BitVec 9) (s : State) : Out :=
  gate (.st rd ra sz sc imm) s fun s => onWake s (fun _ => fin s) <| ordered sc s fun s =>
    let a := addrM ra sz imm s
    let n := sz.bytes
    let v := s.xr rd
    if highAddr a then raise .xlate a s
    else if a.toNat % n ≠ 0 then raise .align a s
    else if computeBad a n sc s then raise .phase a s
    else if 0x800000 ≤ a.toNat ∧ a.toNat < 0x01000000 then
      if sz = .d then
        match untransStore a.toNat v s with
        | some s' => fin s'
        | none => raise .access a s
      else raise .access a s
    else orTrap (s.locate a n { w := true }) fun (l, s') =>
      if l.wait n s' then stallSeq s' else storeAt a n v sc l s'

/-- LD (R175). -/
def execLd (rd ra : Reg) (sz : Sz) (sc : Sc) (imm : BitVec 9) (s : State) : Out :=
  loadScalar (.ld rd ra sz sc imm) false rd (addrM ra sz imm s) sz sc s
/-- LDS (R175). -/
def execLds (rd ra : Reg) (sz : Sz) (sc : Sc) (imm : BitVec 9) (s : State) : Out :=
  loadScalar (.lds rd ra sz sc imm) true rd (addrM ra sz imm s) sz sc s

/-- LOAD_DELIVERY (R180): the loads whose count of issue cycles has run out write their destinations. -/
def execLoadDelivery (s : State) : Out :=
  let due := s.t.loads.filter fun l => l.left = 0
  let t := due.foldl (fun t l => t.xw l.rd l.value) s.t
  .next { s with t := { t with loads := t.loads.filter fun l => l.left ≠ 0 } }

/-- IMCTL_WRITE (R168): an ST.d at S level to IMCTL; a refused value leaves it unchanged. -/
def execImctlWrite (v : W64) (s : State) : Out :=
  match untransStore 0x800100 v s with
  | some s' => fin s'
  | none => raise .access 0x800100 s

end Sys2Proof.Machine
end

