-- ==== Sys2Proof/Machine/Versioned.lean ====
section
/-! DEFINITION. Versioned and full-empty memory (R257 to R266). -/

namespace Sys2Proof.Machine

/-- CheckKind (R259): the checks shared by the instructions of one page kind; the word's physical address. -/
def checkKind (a : W64) (k : PageKind) (need : Need) (s : State) (f : Nat → State → Out) : Out :=
  if highAddr a then raise .xlate a s
  else if a.toNat % 8 ≠ 0 then raise .align a s
  else if s.t.st.ph = .c then raise .phase a s
  else if a.toNat < 0x01000000 then raise .access a s
  else orTrap (s.locate a 8 need) fun (l, s) =>
    if l.kind ≠ k then raise .access a s
    else match l.place with
      | .at pa => if l.wait 8 s then stallSeq s else f pa (s.flush pa 8)
      | _ => raise .access a s

/-- A load of the word meets no uncorrectable error (R177). -/
def orMemErr (a : W64) (pa n : Nat) (s : State) (k : State → Out) : Out := orTrap (s.granuleOk a pa n) k

/-- LDV (R265). -/
def execLdv (rd ra rb : Reg) (sc : Sc) (s : State) : Out :=
  gate (.ldv rd ra rb sc) s fun s => onWake s (fun x => finX rd x s) <|
    let a := s.xr ra
    checkKind a .versioned { r := true } s fun pa s =>
      let v : W16 := (s.xr rb).setWidth 16
      let w := s.verOf pa
      if ahead v w.l then parkOn a (.version pa v) s
      else if ahead w.f v then raise .version a s
      else orMemErr a pa 8 s fun s => answer (s.atomicLatency s.t.core pa false) (some rd) (w.value v) [] s

/-- LDVL (R265). -/
def execLdvl (rd ra : Reg) (sc : Sc) (s : State) : Out :=
  gate (.ldvl rd ra sc) s fun s =>
    let a := s.xr ra
    checkKind a .versioned { r := true } s fun pa s =>
      let w := s.verOf pa
      orMemErr a pa 8 s fun s => answer (s.atomicLatency s.t.core pa false) (some rd) (w.value w.l) [] s

/-- STV (R265): parks while four versions are held. -/
def execStv (rd ra rb : Reg) (sc : Sc) (s : State) : Out :=
  gate (.stv rd ra rb sc) s fun s => onWake s (fun x => finX rd x s) <| ordered sc s fun s =>
    let a := s.xr ra
    checkKind a .versioned { w := true } s fun pa s =>
      match s.newVersion s.t.tid pa (s.xr rb) with
      | some (l, s') => answer (s.atomicLatency s.t.core pa false) (some rd) (l.setWidth 64) [] s'
      | none => parkOn a (.room pa (s.xr rb)) s

/-- STVs parked on a word proceed in the order in which they parked while there is room (R265). -/
def admitStores (pa : Nat) : Nat → State → State
  | 0, s => s
  | fuel + 1, s =>
    match oldest (fun t => match t.run with | .parked (.room p _) => p == pa | _ => false) s.allTasks with
    | none => s
    | some t =>
      match t.run with
      | .parked (.room _ x) =>
        match s.newVersion t.tid pa x with
        | some (l, s') => admitStores pa fuel (s'.wakeTask t.tid (.value (l.setWidth 64)))
        | none => s
      | _ => s

/-- RECLAIM (R265). -/
def execReclaim (rd ra rb : Reg) (sc : Sc) (s : State) : Out :=
  gate (.reclaim rd ra rb sc) s fun s => ordered sc s fun s =>
    checkKind (s.xr ra) .versioned { w := true } s fun pa s =>
      let v : W16 := (s.xr rb).setWidth 16
      let w := s.verOf pa
      let v := if ahead v w.l then w.l else v
      let f := if ahead v w.f then v else w.f
      let s := { s with versions := s.versions.put pa ⟨f, w.l, w.vals.drop (f - w.f).toNat⟩ }
      answer (s.atomicLatency s.t.core pa false) (some rd) (f.setWidth 64) [] (admitStores pa 4 s)

/-- LDF (R259). -/
def execLdf (rd ra : Reg) (sc : Sc) (s : State) : Out :=
  gate (.ldf rd ra sc) s fun s => onWake s (fun x => finX rd x s) <|
    let a := s.xr ra
    checkKind a .fe { r := true } s fun pa s =>
      if s.isFull pa then orMemErr a pa 8 s fun s => finX rd (BitVec.ofNat 64 (s.loadLE pa 8)) s
      else parkOn a (.full pa false) s

/-- LDFE (R259): with an ordering code its read-modify-write is a release too (R35, R251). -/
def execLdfe (rd ra : Reg) (sc : Sc) (s : State) : Out :=
  gate (.ldfe rd ra sc) s fun s => onWake s (fun x => finX rd x s) <| ordered sc s fun s =>
    let a := s.xr ra
    checkKind a .fe { r := true, w := true } s fun pa s =>
      if s.isFull pa then
        orMemErr a pa 8 s fun s =>
          finX rd (BitVec.ofNat 64 (s.loadLE pa 8)) { s with fullBits := s.fullBits.put pa false }
      else parkOn a (.full pa true) s

/-- STF (R259, R260): a word that its home does not take stays as it is, and so does its full bit (R255, R322, R326). -/
def execStf (ra rb : Reg) (sc : Sc) (s : State) : Out :=
  gate (.stf ra rb sc) s fun s => ordered sc s fun s =>
    checkKind (s.xr ra) .fe { w := true } s fun pa s =>
      let cells := leCells pa 8 (s.xr rb).toNat
      fin (if s.takes cells then (s.store cells).setFull pa else s.store cells)

/-- STE (R259): at a home that is not served it is discarded and recorded (R255, R322). -/
def execSte (ra : Reg) (sc : Sc) (s : State) : Out :=
  gate (.ste ra sc) s fun s => ordered sc s fun s =>
    checkKind (s.xr ra) .fe { w := true } s fun pa s =>
      fin (if s.served pa then { s with fullBits := s.fullBits.put pa false } else { s with t := s.t.fail false })

end Sys2Proof.Machine
end

