-- ==== Sys2Proof/Machine/Atomics.lean ====
section
/-! DEFINITION. Atomics, locks and row atomics (R214 to R220). -/

namespace Sys2Proof.Machine

/-- Bytes of an atomic. -/
def atomBytes (dbl : Bool) : Nat := if dbl then 8 else 4

/-- The checks of R216, up to the page: the word's physical address and page kind, and whether it lies in the
local window. -/
def atomicPlace (a : W64) (n span : Nat) (need : Need) (s : State) (f : Nat → PageKind → State → Out) : Out :=
  if highAddr a then raise .xlate a s
  else if a.toNat % n ≠ 0 then raise .align a s
  else if s.t.st.ph = .c then raise .phase a s
  else orTrap (s.locate a span need) fun (l, s) =>
    if l.kind = .view ∨ l.kind = .versioned ∨ l.kind = .kv then raise .access a s
    else match l.place with
      | .at pa => if isHost pa then raise .access a s else f pa l.kind s
      | _ => raise .access a s

/-- Sext(old, 8N) (R216). -/
def sextN (n v : Nat) : W64 := if n = 4 then sext 32 (BitVec.ofNat 32 v) else BitVec.ofNat 64 v

/-- An A* atomic (R215 to R217): `f` gives the new value, none to write nothing. -/
def atomicOp (i : Instr) (rd ra : Reg) (dbl : Bool) (sc : Sc) (f : Nat → Option Nat) (s : State) : Out :=
  gate i s fun s => ordered sc s fun s =>
    let a := s.xr ra
    let n := atomBytes dbl
    atomicPlace a n n { r := true, w := true } s fun pa kind s =>
      if s.t.lock.isSome then raise .illegal a s
      else if s.mustWait pa n then stallSeq s
      else
        let s := s.flush pa n
        let key := lockKey pa
        if !s.lockGrant key s.t.tid then lockRefuse key s
        else orMemErr a pa n s fun s =>
          let old := s.loadLE pa n
          let s := s.lockServed key s.t.tid
          let s := match f old with
            | some v => s.store (leCells pa n v)
            | none => s
          let s := s.rowHold sc kind (granulesOf (leCells pa n 0))
          answer (s.atomicLatency s.t.core pa (decide (a.toNat < 0x01000000))) (some rd) (sextN n old) [] s

/-- An operand of N bytes. -/
def operandN (dbl : Bool) (v : W64) : Nat := v.toNat % 256 ^ atomBytes dbl

/-- Signed order of two N-byte values. -/
def sltN (dbl : Bool) (a b : Nat) : Bool := decide (toSigned (8 * atomBytes dbl) a < toSigned (8 * atomBytes dbl) b)

/-- AADD (R215). -/
def execAadd (rd ra rb : Reg) (dbl : Bool) (sc : Sc) (s : State) : Out :=
  atomicOp (.aadd rd ra rb dbl sc) rd ra dbl sc (fun o => some ((o + operandN dbl (s.xr rb)) % 256 ^ atomBytes dbl)) s
/-- AAND (R215). -/
def execAand (rd ra rb : Reg) (dbl : Bool) (sc : Sc) (s : State) : Out :=
  atomicOp (.aand rd ra rb dbl sc) rd ra dbl sc (fun o => some (o &&& operandN dbl (s.xr rb))) s
/-- AOR (R215). -/
def execAor (rd ra rb : Reg) (dbl : Bool) (sc : Sc) (s : State) : Out :=
  atomicOp (.aor rd ra rb dbl sc) rd ra dbl sc (fun o => some (o ||| operandN dbl (s.xr rb))) s
/-- AXOR (R215). -/
def execAxor (rd ra rb : Reg) (dbl : Bool) (sc : Sc) (s : State) : Out :=
  atomicOp (.axor rd ra rb dbl sc) rd ra dbl sc (fun o => some (o ^^^ operandN dbl (s.xr rb))) s
/-- AMIN (R215). -/
def execAmin (rd ra rb : Reg) (dbl : Bool) (sc : Sc) (s : State) : Out :=
  atomicOp (.amin rd ra rb dbl sc) rd ra dbl sc
    (fun o => let b := operandN dbl (s.xr rb); some (if sltN dbl b o then b else o)) s
/-- AMAX (R215). -/
def execAmax (rd ra rb : Reg) (dbl : Bool) (sc : Sc) (s : State) : Out :=
  atomicOp (.amax rd ra rb dbl sc) rd ra dbl sc
    (fun o => let b := operandN dbl (s.xr rb); some (if sltN dbl o b then b else o)) s
/-- ASWAP (R215). -/
def execAswap (rd ra rb : Reg) (dbl : Bool) (sc : Sc) (s : State) : Out :=
  atomicOp (.aswap rd ra rb dbl sc) rd ra dbl sc (fun _ => some (operandN dbl (s.xr rb))) s
/-- ACAS (R215): the compare value is xd; a compare that fails writes nothing (R270). -/
def execAcas (rd ra rb : Reg) (dbl : Bool) (sc : Sc) (s : State) : Out :=
  atomicOp (.acas rd ra rb dbl sc) rd ra dbl sc
    (fun o => if o = operandN dbl (s.xr rd) then some (operandN dbl (s.xr rb)) else none) s

/-- LDLK (R215, R217): loads and sets the lock bit. -/
def execLdlk (rd ra : Reg) (dbl : Bool) (sc : Sc) (s : State) : Out :=
  gate (.ldlk rd ra dbl sc) s fun s =>
    let a := s.xr ra
    let n := atomBytes dbl
    atomicPlace a n n { r := true, w := true } s fun pa kind s =>
      if s.t.lock.isSome then raise .illegal a s
      else if s.mustWait pa n then stallSeq s
      else
        let s := s.flush pa n
        let key := lockKey pa
        if !s.lockGrant key s.t.tid then lockRefuse key s
        else orMemErr a pa n s fun s =>
          let old := s.loadLE pa n
          let s := (s.lockServed key s.t.tid).setLock key s.t.tid
          let s := { s with t := { s.t with lock := some (a, n, pa) } }.rowHold sc kind (granulesOf (leCells pa n 0))
          answer (s.atomicLatency s.t.core pa (decide (a.toNat < 0x01000000))) (some rd) (sextN n old) [] s

/-- STUL (R215, R217): stores and clears the lock bit. -/
def execStul (rd ra : Reg) (dbl : Bool) (sc : Sc) (s : State) : Out :=
  gate (.stul rd ra dbl sc) s fun s => ordered sc s fun s =>
    let a := s.xr ra
    let n := atomBytes dbl
    atomicPlace a n n { r := true, w := true } s fun pa kind s =>
      match s.t.lock with
      | some (la, ln, lpa) =>
        if la ≠ a ∨ ln ≠ n then raise .illegal a s
        else if s.mustWait pa n then stallSeq s
        else
          let cells := leCells pa n (s.xr rd).toNat
          let s := ((s.flush pa n).store cells).rowHold sc kind (granulesOf cells)
          fin { s.clearLock (lockKey lpa) with t := { s.t with lock := none } }
      | none => raise .illegal a s

/-! ## Row atomics (R218 to R220) -/

/-- The control word of a row instruction (R218). -/
structure RowCtl where
  ft : Nat
  log : Nat
  n : Nat
  first : Nat
deriving DecidableEq, Repr

def RowCtl.of (q : W64) : RowCtl :=
  ⟨bitsOf q.toNat 13 3, bitsOf q.toNat 10 3, bitsOf q.toNat 8 2 + 1, bitsOf q.toNat 0 5⟩
def RowCtl.len (c : RowCtl) : Nat := 256 * 2 ^ c.log

/-- The control word is legal (R219). -/
def rowOk (q : W64) (vd : Nat) (noFt : Bool) : Bool :=
  let c := RowCtl.of q
  decide (q.toNat / 2 ^ 16 = 0 ∧ bitsOf q.toNat 5 3 = 0 ∧ c.log ≤ 5 ∧ c.first + c.n ≤ c.len / 256)
    && (!noFt || decide (c.ft = 0)) && decide (vd + c.n ≤ 32)

/-- Names of the run that lie in no older vector word of the task (R132, R219). -/
def seqNames (s : State) (regs : List Nat) : Bool :=
  s.t.seq.entries.any fun e => ((regsOf e.i).vr ++ (regsOf e.i).vw).any fun r => regs.contains r

/-- Places of the granules of the named segments, or the first refusal. -/
def rowGranules (s : State) (a : W64) (need : Need) : List Nat → Except Miss (List Place × State)
  | [] => .ok ([], s)
  | k :: r =>
    match s.locate (a + BitVec.ofNat 64 (64 * k)) 64 need with
    | .error e => .error e
    | .ok (l, s') => match rowGranules s' a need r with
      | .error e => .error e
      | .ok (ps, s'') => .ok (l.place :: ps, s'')

/-- The checks of R219: the control word, the allotment, the address; then the places of the granules of the
segments, and the row as R267 and R269 take it: all its granules, on the page of its base. A load may meet absent granules
(R293), a write may not. -/
def rowPlace (i : Instr) (vd ra rb : Reg) (need : Need) (noFt : Bool) (rel : Sc) (s : State)
    (f : RowCtl → List Place → PageKind → List Nat → State → Out) : Out :=
  gate i s fun s => ordered rel s fun s =>
    let a := s.xr ra
    let q := s.xr rb
    let c := RowCtl.of q
    let regs := (List.range c.n).map (vd.val + ·)
    if !rowOk q vd.val noFt then raise .illegal q s
    else match firstOver s.rd.allotn regs with
      | some r => raise .allot (BitVec.ofNat 64 r) s
      | none =>
        if highAddr a then raise .xlate a s
        else if a.toNat % c.len ≠ 0 then raise .align a s
        else if s.t.st.ph = .c then raise .phase a s
        else orTrap (s.locate a 64 need) fun (l, s) =>
          if l.kind = .view ∨ l.kind = .versioned ∨ l.kind = .kv then raise .access a s
          else orTrap (rowGranules s a need ((List.range (4 * c.n)).map (4 * c.first + ·))) fun (ps, s) =>
            let bad := ps.any fun p => match p with
              | .at pa => isHost pa
              | _ => need.w
            if bad then raise .access a s
            else if s.t.lock.isSome then raise .illegal a s
            else if seqNames s regs || s.t.acquires then stallSeq s
            else if ps.any fun p => (match p with | .at pa => s.mustWait pa 64 | _ => false) then stallSeq s
            else
              let s := ps.foldl (fun s p => match p with | .at pa => s.flush pa 64 | _ => s) s
              match l.place with
              | .at pa =>
                let key := lockKey pa
                let row := (List.range (c.len / 64)).map fun k => pa / 64 * 64 + 64 * k
                if !s.lockGrant key s.t.tid then lockRefuse key s else f c ps l.kind row (s.lockServed key s.t.tid)
              | _ => f c ps l.kind [] s

/-- The granules that a row instruction loads hold no uncorrectable error (R177, R219). -/
def rowOkay (s : State) (a : W64) : List Place → Nat → Except Miss State
  | [], _ => .ok s
  | .at pa :: r, k =>
    match s.granuleOk (a + BitVec.ofNat 64 (64 * k)) pa 64 with
    | .error m => .error m
    | .ok _ => rowOkay s a r (k + 1)
  | _ :: r, k => rowOkay s a r (k + 1)

/-- The granules' contents, the first lowest; zero where absent (R293). -/
def rowValue (s : State) : List Place → Nat
  | [] => 0
  | .at pa :: r => s.loadLE pa 64 + 2 ^ 512 * rowValue s r
  | _ :: r => 2 ^ 512 * rowValue s r

/-- Combine two strings of elements, element by element. -/
def combine (f : Nat → Nat → Nat) (w : Nat) : Nat → Nat → Nat → Nat
  | 0, _, _ => 0
  | n + 1, x, y => f (x % 256 ^ w) (y % 256 ^ w) + 256 ^ w * combine f w n (x / 256 ^ w) (y / 256 ^ w)

/-- The registers of a run as one number, the first lowest. -/
def runValue (s : State) (vd : Nat) : Nat → Nat
  | 0 => 0
  | n + 1 => (s.vr (Fin.ofNat 32 vd)).toNat + 2 ^ 2048 * runValue s (vd + 1) n

/-- The cells of a value laid over granules. -/
def rowCells : List Place → Nat → List (Nat × Byte)
  | [], _ => []
  | .at pa :: r, v => leCells pa 64 v ++ rowCells r (v / 2 ^ 512)
  | _ :: r, v => rowCells r (v / 2 ^ 512)

/-- Store over the granules of a row as one step at the home, then end. -/
def rowStore (sc : Sc) (v : Nat) (ps : List Place) (kind : PageKind) (row : List Nat) (s : State) : Out :=
  fin ((s.store (rowCells ps v)).rowHold sc kind row)

/-- A row read-modify-write (R218): element i becomes f(old, register's). -/
def rowRmw (sc : Sc) (vd ra : Reg) (f : Ft → Nat → Nat → Nat) (c : RowCtl) (ps : List Place) (kind : PageKind) (row : List Nat)
    (s : State) : Out :=
  orTrap (rowOkay s (s.xr ra) ps (4 * c.first)) fun s =>
    let ft := Ft.ofCode c.ft
    rowStore sc (combine (f ft) ft.width (256 * c.n / ft.width) (rowValue s ps) (runValue s vd.val c.n)) ps kind row s

/-- ROWADD (R218, R219). -/
def execRowadd (rd ra rb : Reg) (sc : Sc) (s : State) : Out :=
  rowPlace (.rowadd rd ra rb sc) rd ra rb { r := true, w := true } false sc s (rowRmw sc rd ra addSat)
/-- ROWMAX (R218, R219). -/
def execRowmax (rd ra rb : Reg) (sc : Sc) (s : State) : Out :=
  rowPlace (.rowmax rd ra rb sc) rd ra rb { r := true, w := true } false sc s (rowRmw sc rd ra maxEl)
/-- ROWST (R218, R219). -/
def execRowst (rd ra rb : Reg) (sc : Sc) (s : State) : Out :=
  rowPlace (.rowst rd ra rb sc) rd ra rb { w := true } true sc s fun c ps kind row s =>
    rowStore sc (runValue s rd.val c.n) ps kind row s
/-- ROWLD (R218, R219): its registers are written when the home's answer comes; absent granules read as zero (R293). -/
def execRowld (rd ra rb : Reg) (sc : Sc) (s : State) : Out :=
  rowPlace (.rowld rd ra rb sc) rd ra rb { r := true } true .plain s fun c ps kind row s =>
    orTrap (rowOkay s (s.xr ra) ps (4 * c.first)) fun s =>
      let v := rowValue s ps
      let regs := (List.range c.n).map fun j => (Fin.ofNat 32 (rd.val + j), BitVec.ofNat 2048 (v / 2 ^ (2048 * j)))
      let s := (s.meetAbsent (absents ps)).rowHold sc kind row
      let pa := match ps with | .at pa :: _ => pa | _ => 0
      let path := if (s.xr ra).toNat < 0x01000000 then 14 else s.pathLatency s.t.core pa
      answer (path + (if isSram pa then 4 else 8) * c.n) none 0 regs s (pa, 256 * c.n)

/-! ## FENCE (R254, R255) -/

/-- The failure record as FENCE writes it (R255). -/
def Task.failRecord (t : Task) : W64 := BitVec.ofNat 64 (t.failCount * 2 ^ 8 + bitIf t.failRefused 1 + bitIf t.failDead 0)

/-- Every earlier access of the task has been performed (R254). -/
def State.settled (s : State) : Bool :=
  s.t.answers.isEmpty && s.t.loads.isEmpty && s.t.handleOps.isEmpty && !s.sends.any (·.tid == s.t.tid)
    && !s.posted.any fun p => p.tid == s.t.tid

/-- FENCE (R90, R254): waits for every earlier access, then writes and clears the failure record. -/
def execFence (rd : Reg) (sc : Sc) (s : State) : Out :=
  gate (.fence rd sc) s fun s => noCompute 0 s fun s => drained s fun s =>
    if !s.settled then stall s
    else if sc = .row && !s.t.rowWrites.all s.published then stall s
    else
      (fun k => if sc = .dev || sc = .sys || sc = .row then takeHandle s k else k s) fun s =>
      let t := { s.t with failCount := 0, failRefused := false, failDead := false,
                          rowWrites := if sc = .row then [] else s.t.rowWrites }
      finX rd s.t.failRecord { s with t := t }

end Sys2Proof.Machine
end

