-- ==== Sys2Proof/Machine/Engines.lean ====
section
/-! DEFINITION. Memory as an engine reaches it (R190, R193, R262, R266, R287, R293): addresses cut into pieces
within granules, each located; bytes read and written; the engine fault ring; the counting totals (R98). -/

namespace Sys2Proof.Machine

/-! ## Counting totals (R98) -/

def State.countSent (s : State) (c : Nat) : State := let k := s.core c; s.setCore c { k with sent := k.sent + 1 }
def State.countRecv (s : State) (c : Nat) : State := let k := s.core c; s.setCore c { k with recv := k.recv + 1 }
/-- A completion counted at the core that issued the command: for one that has left the partition, in the partition's own sum
(R98, log 21). -/
def State.countEnd (s : State) (part c : Nat) : State :=
  if s.inPart part c then s.countRecv c else s.setPart part { s.part part with leftRecv := (s.part part).leftRecv + 1 }
/-- A message to a core on a command's behalf: a core that has left the partition refuses it, which is marked in the failure record of
the command's task (R255, R351). -/
def State.deliverFor (s : State) (task part c : Nat) (m : W64) : State := if s.inPart part c then s.deliver c m else s.failTask task false

/-! ## Pieces -/

/-- One piece of an engine access: address, bytes, and where it resolves; none where the walk met an
uncorrectable error (R287). -/
structure EPiece where
  va : Nat
  n : Nat
  place : Option (Place × PageKind)
deriving DecidableEq, Repr

/-- Cut a list of byte addresses into runs within one granule. -/
def runsOf : List Nat → List (Nat × Nat)
  | [] => []
  | a :: r =>
    match runsOf r with
    | (b, n) :: l => if b = a + 1 ∧ b % 64 ≠ 0 then (a, n + 1) :: l else (a, 1) :: (b, n) :: l
    | [] => [(a, 1)]
/-- The byte addresses of a range. -/
def bytesFrom (a n : Nat) : List Nat := (List.range n).map (a + ·)

/-- Why an engine's access stops: its cause and address, or no cause where it waits for a unit under test (R327); with the
state that its walks leave and the place of an uncorrectable error that they met. -/
structure EFault where
  cause : Option Cause
  va : Nat
  s : State
  err : Option Nat := none
deriving DecidableEq, Repr

/-- Locate the pieces of an engine access; the first refusal stops it (R193). -/
def State.engPieces (s : State) (part : Nat) (need : Need) : List (Nat × Nat) → Except EFault (List EPiece × State)
  | [] => .ok ([], s)
  | (va, n) :: r =>
    match s.engineAt part va n need with
    | .error m =>
      if m.cause = some .memerr then
        match State.engPieces (m.s.metError m.err) part need r with
        | .error e => .error e
        | .ok (ps, s') => .ok (⟨va, n, none⟩ :: ps, s')
      else .error ⟨m.cause, va, m.s, m.err⟩
    | .ok (pl, k, s1) =>
      if need.w && (k = .view || (match pl with | .at _ => false | _ => true)) then .error ⟨some .access, va, s1, none⟩
      else match State.engPieces s1 part need r with
        | .error e => .error e
        | .ok (ps, s') => .ok (⟨va, n, some (pl, k)⟩ :: ps, s')

/-- A byte of a versioned word's latest version (R266). -/
def State.latestByte (s : State) (pa : Nat) : Byte :=
  let w := s.verOf (pa / 8 * 8)
  byteOf (w.value w.l).toNat (pa % 8)

/-- The bytes of a piece; none at an uncorrectable error (R194). -/
def State.engBytes (s : State) (p : EPiece) : Option (List Byte) :=
  match p.place with
  | none => none
  | some (.at pa, k) =>
    if (badIn s.bad pa p.n).isSome then none
    else some ((List.range p.n).map fun j => if k = .versioned then s.latestByte (pa + j) else s.byteAt (pa + j))
  | some _ => some (List.replicate p.n 0)

/-- The errors that a read of the pieces meets, each once (R314), start the tests of their units (R326, R328). -/
def State.engMet (s : State) (ps : List EPiece) : State :=
  (ps.filterMap fun p => match p.place with | some (.at pa, _) => badIn s.bad pa p.n | _ => none).eraseDups.foldl (fun s g => s.metError (some g)) s

/-- Address and byte of everything the pieces cover; none for bytes under an error. -/
def State.engRead (s : State) (ps : List EPiece) : List (Nat × Option Byte) :=
  ps.flatMap fun p => match s.engBytes p with
    | some l => l.zipIdx.map fun b => (p.va + b.2, some b.1)
    | none => (List.range p.n).map fun j => (p.va + j, none)

/-- Absent rows or blocks that the pieces met, each counted once per engine row (R293). -/
def engAbsents (ps : List EPiece) : List (Nat × Nat) :=
  (ps.filterMap fun p => match p.place with | some (.absent c e, _) => some (c, e) | _ => none).eraseDups

/-- The byte that a list of addresses and bytes holds at an address. -/
def byteIn (l : List (Nat × Byte)) (a : Nat) : Option Byte := (l.find? fun c => c.1 == a).map (·.2)

/-- Physical cells of the bytes under the pieces that lie on pages of the kind. -/
def engCells (keep : PageKind → Bool) (ps : List EPiece) (bytes : List (Nat × Byte)) : List (Nat × Byte) :=
  ps.flatMap fun p => match p.place with
    | some (.at pa, k) => if keep k then (List.range p.n).filterMap fun j => (byteIn bytes (p.va + j)).map fun b => (pa + j, b) else []
    | _ => []

/-- The versioned words of a list of cells, each with its new value (R266). -/
def State.newWords (s : State) (cells : List (Nat × Byte)) : List (Nat × W64) :=
  ((cells.map fun c => c.1 / 8 * 8).eraseDups).map fun w =>
    (w, BitVec.ofNat 64 (ofBytes ((List.range 8).map fun j => (byteIn cells (w + j)).getD (s.latestByte (w + j)))))

/-- One STV of a command's task for each versioned word, and whether one was refused; none while a word holds four versions. -/
def putVersions (task : Nat) : List (Nat × W64) → State → Option (State × Bool)
  | [], s => some (s, false)
  | (pa, x) :: r, s =>
    if s.takes (leCells pa 8 x.toNat) then
      match s.newVersion task pa x with
      | some (_, s') => putVersions task r s'
      | none => none
    else (putVersions task r s).map fun q => (q.1, true)

/-- The result of an engine write: the state; whether a failing word or granule has refused part of it (R326); whether part of
it has no place, because its walk met an uncorrectable error (R287). -/
structure Written where
  s : State
  refused : Bool
  lost : Bool

/-- An engine write of bytes (address, byte) over located pieces for a task (R262, R266, R326); the words of FE pages are set
full in the same step (R257). None while a versioned word has no free slot. -/
def State.engWrite (s : State) (task : Nat) (ps : List EPiece) (bytes : List (Nat × Byte)) : Option Written :=
  match putVersions task (s.newWords (engCells (· == .versioned) ps bytes)) s with
  | none => none
  | some (s1, refused) =>
    let r := s1.storeCells (engCells (· != .versioned) ps bytes)
    let fe := engCells (· == .fe) ps bytes
    let full := ((fe.map fun c => c.1 / 8 * 8).eraseDups).filter fun w => s1.takes (fe.filter fun c => c.1 / 8 * 8 == w)
    some ⟨full.foldl (fun s w => s.setFull w) r.1, refused || r.2, ps.any fun p => p.place.isNone⟩

/-- Store a signal word as an engine does (R191): none while it has to wait. -/
def State.engSignal (s : State) (task part va : Nat) (v : W64) : Except EFault (Option Written) :=
  match s.engPieces part { w := true } [(va, 8)] with
  | .error e => .error e
  | .ok (ps, s1) => .ok (s1.engWrite task ps ((leBytes 8 v.toNat).zipIdx.map fun b => (va + b.2, b.1)))

/-! ## The engine fault ring (R193) -/

/-- The lowest free slot of a partition's ring. -/
def Part.freeSlot (p : Part) : Option Nat := (List.range 256).find? fun n => !p.ringSlots.contains n

/-- The record of an engine fault (R193). -/
def faultRecord (write : Bool) (kind va core tag task : Nat) : List Nat :=
  [bitIf write 63 + kind * 2 ^ 59 + va % 2 ^ 56, core * 2 ^ 32 + tag, task % 2 ^ 32, 0]

/-- Cells of doublewords from an address. -/
def wordCells (a : Nat) : List Nat → List (Nat × Byte)
  | [] => []
  | w :: r => leCells a 8 w ++ wordCells (a + 8) r

/-- A message of a die's engines (R195, R381): source 128 times the die number. -/
def dieMsg (die kind : Nat) (payload : BitVec 48) : W64 := mkMsg 0 (128 * die) kind payload

/-- Take a ring slot, write the record and send FAULT to SUPCORE; none while all slots are taken (R193). -/
def State.ringFault (s : State) (die part kind core tag task : Nat) (write : Bool) (va : Nat) (c : Cause) : Option (Nat × State) :=
  let p := s.part part
  match p.freeSlot with
  | none => none
  | some n =>
    let s := s.setPart part { p with ringSlots := n :: p.ringSlots }
    let s := { s with mem := s.mem.setBytes (wordCells (p.fring + 32 * n) (faultRecord write kind va core tag task)) }
    some (n, s.deliverFor task part p.supcore (dieMsg die 6 (faultPayload c.code n core tag)))

/-- The supervisor's verdict on a slot: ABANDON; and the slot becomes free (R194). -/
def State.ringTake (s : State) (part n : Nat) : Bool × State :=
  let p := s.part part
  (bitsOf (s.loadLE (p.fring + 32 * n + 8) 8) 63 1 == 1, s.setPart part { p with ringSlots := p.ringSlots.filter (· != n) })

/-- An engine's FAULT for an uncorrectable error (R194, R326), on behalf of a task: no record. -/
def State.engineMemErr (s : State) (die part core tag task : Nat) : State :=
  s.deliverFor task part (s.part part).supcore (dieMsg die 6 (faultPayload 0x0D 0xFF core tag))

/-- What a command reports of its write: a refused part is marked in its task's failure record and reported by a FAULT with the
command's tag (R255, R326); one whose walk met an error by a FAULT (R287). -/
def Written.report (w : Written) (die part core tag task : Nat) : State :=
  let s := if w.refused then w.s.failTask task false else w.s
  if w.refused || w.lost then s.engineMemErr die part core tag task else s

end Sys2Proof.Machine
end

