-- ==== Sys2Proof/Machine/Granules.lean ====
section
/-! DEFINITION. Accesses of several pieces (R167, R182, R293): each piece is located in ascending order, and the
first refusal decides. -/

namespace Sys2Proof.Machine

/-- One located piece: its address, where it resolves, its page kind. -/
structure Piece where
  va : W64
  place : Place
  kind : PageKind
deriving DecidableEq, Repr

/-- Locate pieces of n bytes at the given addresses (R182): alignment, phase, region and page checks of each. A VERSIONED
page is refused, as for a load or store that R266 does not name (log 53). -/
def State.locatePieces (s : State) (n align : Nat) (need : Need) (sc : Sc) : List W64 → Except Miss (List Piece × State)
  | [] => .ok ([], s)
  | a :: r =>
    if highAddr a then s.refuse .xlate a
    else if a.toNat % align ≠ 0 then s.refuse .align a
    else if computeBad a n sc s then s.refuse .phase a
    else match s.locate a n need with
      | .error e => .error e
      | .ok (l, s') =>
        if l.kind = .versioned || (need.w && (l.kind = .view || (match l.place with | .at _ => false | _ => true)))
        then s'.refuse .access a
        else match State.locatePieces s' n align need sc r with
          | .error e => .error e
          | .ok (ps, s'') => .ok (⟨a, l.place, l.kind⟩ :: ps, s'')

/-- A load of pieces of n bytes meets no uncorrectable error; else MEMERR with the granule of the first that fails (R177). -/
def State.piecesOk (s : State) (n : Nat) : List Piece → Except Miss State
  | [] => .ok s
  | p :: r =>
    match p.place with
    | .at pa => match s.granuleOk p.va pa n with
      | .ok _ => State.piecesOk s n r
      | .error m => .error m
    | _ => State.piecesOk s n r

/-- Contents of a piece; zero where absent or evicted (R293, R296). -/
def State.pieceValue (s : State) (n : Nat) (p : Piece) : Nat :=
  match p.place with
  | .at pa => s.loadLE pa n
  | _ => 0

/-- Contents of consecutive pieces, the first lowest. -/
def State.piecesValue (s : State) (n : Nat) : List Piece → Nat
  | [] => 0
  | p :: r => s.pieceValue n p + 256 ^ n * State.piecesValue s n r

/-- Cells of a value laid over pieces. -/
def piecesCells (n : Nat) : List Piece → Nat → List (Nat × Byte)
  | [], _ => []
  | p :: r, v =>
    (match p.place with | .at pa => leCells pa n v | _ => []) ++ piecesCells n r (v / 256 ^ n)

/-- Pieces at row scope on MASTER pages (R268). -/
def piecesRow (sc : Sc) (n : Nat) (ps : List Piece) (s : State) : State :=
  ps.foldl (fun s p => s.rowHold sc p.kind ((Located.mk p.place p.kind).granules n)) s

/-- Perform the task's posted writes under the pieces (R176). -/
def flushPieces (n : Nat) (ps : List Piece) (s : State) : State :=
  ps.foldl (fun s p => match p.place with | .at pa => s.flush pa n | _ => s) s

/-- A scalar-side access over the pieces waits for a vector access in the sequencer (R176, R252). -/
def piecesWait (n : Nat) (ps : List Piece) (s : State) : Bool :=
  s.t.acquires || ps.any fun p => match p.place with | .at pa => s.mustWait pa n | _ => false

end Sys2Proof.Machine
end

