-- ==== Sys2Proof/Machine/SpecFun.lean ====
section
/-! DEFINITION. The special functions (R122, R147). An exact result is held as an enclosure between two fractions,
computed with 320 fractional bits; EXACT rounds it, the other modes take a free value inside the bound of R122. -/

namespace Sys2Proof.Machine

/-- Which special function. -/
inductive SF | exp2 | log2 | rcp | rsq | exp | tanh | silu
deriving DecidableEq, Repr

def SF.code : SF → Nat
  | .exp2 => 0 | .log2 => 1 | .rcp => 2 | .rsq => 3 | .exp => 4 | .tanh => 5 | .silu => 6

/-- Fractional bits of the enclosures. -/
def fxBits : Nat := 320
def fxOne : Nat := 2 ^ fxBits

/-- Sum of r^k/k!, each term cut down, from term `t` of index `k`: a lower bound of the exponential's series. -/
def expTerms : Nat → Nat → Nat → Nat → Nat
  | 0, _, _, _ => 0
  | fuel + 1, r, t, k => t + expTerms fuel r (t * r / fxOne / (k + 1)) (k + 1)
/-- Lower bound of e^(r/2^320), for r below 2^320; the exact value lies less than 1024 above. -/
def expFx (r : Nat) : Nat := expTerms 90 r fxOne 0

/-- Sum of z^(2j+1)/(2j+1), each term cut down. -/
def atanhTerms : Nat → Nat → Nat → Nat → Nat
  | 0, _, _, _ => 0
  | fuel + 1, z2, p, j => p / (2 * j + 1) + atanhTerms fuel z2 (p * z2 / fxOne) (j + 1)
/-- Lower bound of ln(num/den), for 1 ≤ num/den < 2; the exact value lies less than 2048 above. -/
def lnFx (num den : Nat) : Nat :=
  let z := (num - den) * fxOne / (num + den)
  2 * atanhTerms 110 (z * z / fxOne) z 0
/-- Lower bound of ln 2. -/
def ln2Fx : Nat := lnFx 2 1

/-- An enclosure: sign, a lower and an upper fraction of the magnitude over one denominator. -/
structure Encl where
  neg : Bool
  lo : Nat
  hi : Nat
  den : Nat
deriving DecidableEq, Repr

/-- Enclosure of e^(±x/2^320) for a magnitude between xlo and xhi, as lo/den .. hi/den with den = 2^(320 + s). -/
def expEncl (neg : Bool) (xlo xhi : Nat) : Nat × Nat × Int :=
  let l := ln2Fx
  if neg then
    -- e^-x = 2^-(n+1) · e^((n+1)·ln2 − x)
    let n := xhi / l + 1
    let rlo := n * l - xhi
    let rhi := n * (l + 2048) - xlo
    (expFx rlo, expFx rhi + 1024, -(n : Int))
  else
    let n := xlo / (l + 2048)
    let rlo := xlo - n * (l + 2048)
    let rhi := xhi - n * l
    (expFx rlo, expFx rhi + 1024, (n : Int))

/-- The pair (lo, hi) · 2^k / 2^320 as an enclosure. -/
def mkEncl (neg : Bool) (lo hi : Nat) (k : Int) : Encl :=
  if k ≥ 0 then ⟨neg, lo * 2 ^ k.toNat, hi * 2 ^ k.toNat, fxOne⟩ else ⟨neg, lo, hi, fxOne * 2 ^ (-k).toNat⟩

/-- x · 2^320 cut down, of m·2^e, with m·2^e below 2^12. -/
def toFx (m : Nat) (e : Int) : Nat :=
  let s := e + (fxBits : Int)
  if s ≥ 0 then m * 2 ^ s.toNat else m / 2 ^ (-s).toNat

/-- m·2^e ≥ 2^k. -/
def atLeast (m : Nat) (e k : Int) : Bool := decide (m ≠ 0 ∧ (m.log2 : Int) + e ≥ k)

/-- Integer square root by digits: the largest s below 2^k with s² ≤ n. -/
def isqrtGo : Nat → Nat → Nat → Nat
  | 0, _, s => s
  | k + 1, n, s => isqrtGo k n (if (s + 2 ^ k) * (s + 2 ^ k) ≤ n then s + 2 ^ k else s)

/-- Enclosure of f at the finite nonzero value ±m·2^e, for inputs whose result is not special. -/
def SF.encl (f : SF) (neg : Bool) (m : Nat) (e : Int) : Encl :=
  let x := toFx m e
  let xh := x + 1
  match f with
  | .rcp => if e ≥ 0 then ⟨neg, 1, 1, m * 2 ^ e.toNat⟩ else ⟨neg, 2 ^ (-e).toNat, 2 ^ (-e).toNat, m⟩
  | .rsq =>
    -- 1/sqrt(m·2^e): with e made even, sqrt(2^(2·400) / m) · 2^(-e/2) / 2^400
    let odd := e % 2 = 1
    let m' := if odd then 2 * m else m
    let e' := if odd then e - 1 else e
    let n := 2 ^ 1000 / m'
    let s := isqrtGo 501 n 0
    let exact := decide (s * s * m' = 2 ^ 1000)
    let k : Int := -(e' / 2)
    let hi := if exact then s else s + 1
    if k ≥ 0 then ⟨false, s * 2 ^ k.toNat, hi * 2 ^ k.toNat, 2 ^ 500⟩ else ⟨false, s, hi, 2 ^ (500 + (-k).toNat)⟩
  | .exp2 =>
    if atLeast m e 12 then (if neg then ⟨false, 1, 1, 2 ^ 4000⟩ else ⟨false, 2 ^ 4000, 2 ^ 4000, 1⟩)
    else
      -- x = n + r
      let n := x / fxOne
      let r := x % fxOne
      if r = 0 ∧ m * 2 ^ (e + fxBits).toNat = x then
        (if neg then ⟨false, 1, 1, 2 ^ n⟩ else ⟨false, 2 ^ n, 2 ^ n, 1⟩)
      else
        let l := ln2Fx
        let alo := r * l / fxOne
        let ahi := (r + 1) * (l + 2048) / fxOne + 1
        let (lo, hi, k) := expEncl neg alo ahi
        mkEncl false lo hi (k + (if neg then -(n : Int) else n))
  | .exp =>
    if atLeast m e 12 then (if neg then ⟨false, 1, 1, 2 ^ 4000⟩ else ⟨false, 2 ^ 4000, 2 ^ 4000, 1⟩)
    else
      let (lo, hi, k) := expEncl neg x xh
      mkEncl false lo hi k
  | .log2 =>
    -- x = q·2^k with 1 ≤ q < 2; log2 x = k + ln q / ln 2
    let k := (m.log2 : Int) + e
    let den := 2 ^ m.log2
    if m = den then ⟨decide (k < 0), k.natAbs, k.natAbs, 1⟩
    else
      let lo := lnFx m den * fxOne / (ln2Fx + 2048)
      let hi := (lnFx m den + 2048) * fxOne / ln2Fx + 1
      if k ≥ 0 then ⟨false, k.toNat * fxOne + lo, k.toNat * fxOne + hi, fxOne⟩
      else ⟨true, (-k).toNat * fxOne - hi, (-k).toNat * fxOne - lo, fxOne⟩
  | .tanh =>
    if !atLeast m e (-20) then
      -- x − x³/3 ≤ tanh x ≤ x
      let d := (-e).toNat
      ⟨neg, 3 * m * 2 ^ (2 * d) - m * m * m, 3 * m * 2 ^ (2 * d), 3 * 2 ^ (3 * d)⟩
    else if atLeast m e 7 then ⟨neg, fxOne - 1, fxOne, fxOne⟩
    else
      let (lo, hi, k) := expEncl true (2 * x) (2 * xh)
      let q := mkEncl false lo hi k
      ⟨neg, (q.den - q.hi) * fxOne / (q.den + q.hi), (q.den - q.lo) * fxOne / (q.den + q.lo) + 1, fxOne⟩
  | .silu =>
    if !atLeast m e (-20) then
      -- x/2 + x²/4 − x⁴/48 ≤ silu x ≤ x/2 + x²/4, as a magnitude
      let d := (-e).toNat
      let a := 24 * m * 2 ^ (3 * d)
      let b := 12 * m * m * 2 ^ (2 * d)
      let c := m * m * m * m
      if neg then ⟨true, a - b, a - b + c, 48 * 2 ^ (4 * d)⟩ else ⟨false, a + b - c, a + b, 48 * 2 ^ (4 * d)⟩
    else if atLeast m e 12 then
      (if neg then ⟨true, 1, 1, 2 ^ 4000⟩
       else if e ≥ 0 then ⟨false, m * 2 ^ e.toNat * 2 ^ 400 - 1, m * 2 ^ e.toNat * 2 ^ 400, 2 ^ 400⟩
       else ⟨false, m * 2 ^ 400 - 1, m * 2 ^ 400, 2 ^ (-e).toNat * 2 ^ 400⟩)
    else
      -- |x| / (1 + e^∓|x|)
      let (lo, hi, k) := expEncl (!neg) x xh
      let q := mkEncl false lo hi k
      ⟨neg, x * q.den / (q.den + q.hi), xh * q.den / (q.den + q.lo) + 1, fxOne⟩

/-- The results fixed in every mode (R147): special inputs. `none` for an input whose result R122 bounds. -/
def SF.special (f : SF) (v : FV) : Option FV :=
  match f, v with
  | _, .nan => some .nan
  | .exp2, .inf n => some (if n then .fin false 0 0 else .inf false)
  | .exp, .inf n => some (if n then .fin false 0 0 else .inf false)
  | .log2, .inf n => some (if n then .nan else .inf false)
  | .rcp, .inf n => some (.fin n 0 0)
  | .rsq, .inf n => some (if n then .nan else .fin false 0 0)
  | .tanh, .inf n => some (.fin n 1 0)
  | .silu, .inf n => some (if n then .fin true 0 0 else .inf false)
  | f, .fin neg 0 _ =>
    match f with
    | .exp2 => some (.fin false 1 0)
    | .exp => some (.fin false 1 0)
    | .log2 => some (.inf true)
    | .rcp => some (.inf neg)
    | .rsq => some (.inf neg)
    | .tanh => some (.fin neg 0 0)
    | .silu => some (.fin neg 0 0)
  | .log2, .fin true _ _ => some .nan
  | .rsq, .fin true _ _ => some .nan
  | _, _ => none

/-- Inputs whose result is exact in every mode (R147): 2 to an integer, log2, 1/x and 1/√x of powers. -/
def SF.exactInput (f : SF) (en : Encl) (m : Nat) : Bool :=
  match f with
  | .exp2 => en.lo == en.hi
  | .log2 => m == 2 ^ m.log2
  | .rcp => m == 2 ^ m.log2
  | .rsq => en.lo == en.hi
  | _ => false

/-- The correctly rounded result of an enclosure. -/
def Encl.ne (en : Encl) (d : Ft) : Nat := roundQ d false en.neg en.lo en.den

/-- The magnitude encoding of the grid at or below the exact value. -/
def Encl.below (en : Encl) (d : Ft) : Nat := gridEnc d true en.lo en.den
/-- The magnitude encoding of the grid at or above the exact value. -/
def Encl.above (en : Encl) (d : Ft) : Nat :=
  let b := gridEnc d true en.hi en.den
  match decodeEl d b with
  | .fin _ m e =>
    if (if e ≥ 0 then m * 2 ^ e.toNat * en.den = en.hi else m * en.den = en.hi * 2 ^ (-e).toNat) then b else b + 1
  | _ => b + 1

/-- How many magnitude encodings of either sign lie within the bound of APX (R122): the lowest and highest of
the exact value's own sign, and the count of the opposite sign (VLOG2 near 1 only). -/
def Encl.apxRange (en : Encl) (d : Ft) (absolute : Bool) : Nat × Nat × Nat :=
  let tol := if absolute then en.den / 2048 else en.lo / 2048
  if en.lo < tol then (0, gridEnc d true (en.lo + tol) en.den, gridEnc d true (tol - en.lo) en.den + 1)
  else (gridEnc d true (en.lo - tol) en.den + 1, gridEnc d true (en.lo + tol) en.den, 0)

/-- A special function's result in format d (R122, R147). -/
def SF.eval (f : SF) (d : Ft) (exact apx : Bool) (input : Nat) (v : FV) : Nat :=
  match f.special v with
  | some r => roundNE d r
  | none =>
    match v with
    | .fin neg m e =>
      let en := f.encl neg m e
      let ne := en.ne d
      let nem := ne % signBit d
      if exact || f.exactInput en m then ne
      else if nem > maxEnc d then ne
      else
        let pick := Config.specPick f.code d.code input apx
        let sgn (neg : Bool) (mag : Nat) := if neg then signBit d + mag else mag
        if apx then
          let r := en.apxRange d (f == .log2 && decide (en.hi < en.den))
          let lo := Nat.min r.1 nem
          let hi := Nat.min (Nat.max r.2.1 nem) (maxEnc d)
          let i := pick % (hi - lo + 1 + r.2.2)
          if i ≤ hi - lo then sgn en.neg (lo + i) else sgn (!en.neg) (i - (hi - lo) - 1)
        else
          let lo := en.below d
          let hi := Nat.min (en.above d) (maxEnc d)
          sgn en.neg (lo + pick % (hi - lo + 1))
    | _ => canonNaN d

end Sys2Proof.Machine
end

