-- ==== Sys2Proof/Machine/VecOps.lean ====
section
/-! DEFINITION. The vector sequencer's operations (R126 to R138): issue of a vector word, its run with streams (R186),
element-wise evaluation under a predicate, and the non-finite record (R118 to R120). -/

namespace Sys2Proof.Machine

/-- How the execution of a vector word ends: done; a trap, which leaves nothing of the word, but with what its walks and an
error that it met have done; or a wait. -/
inductive VRes
  | ok (s : State)
  | trap (c : Cause) (tval : W64) (rec : Option (Vector W64 4)) (m : Option Miss := none)
  | wait (s : State)
/-- An access of a vector word is not made: its trap, or the wait for a unit under test (R223). -/
def VRes.miss (m : Miss) : VRes :=
  match m.trap with
  | some (c, tv) => .trap c tv none (some m)
  | none => .wait m.s

/-! ## Elements and predicates -/

/-- Elements of a register (R126). -/
def nElems (ft : Ft) : Nat := 256 / ft.width
/-- Element e of width w of a register as a number. -/
def elemAt (w : Nat) (v : VReg) (e : Nat) : Nat := v.toNat / 256 ^ (w * e) % 256 ^ w

/-- Element-wise evaluation (R127): element e of the result is f e A[e] B[e] where active, else D[e]. The
registers are walked as numbers, lowest element first. -/
def lanesGo (w : Nat) (f : Nat → Nat → Nat → Nat → Nat) : Nat → Nat → Nat → Nat → Nat → Nat → Nat
  | 0, _, _, _, _, _ => 0
  | n + 1, e, p, a, b, d =>
    let m := 256 ^ w
    (if p % 2 = 1 then f e (a % m) (b % m) (d % m) else d % m) + m * lanesGo w f n (e + 1) (p / 2 ^ w) (a / m) (b / m) (d / m)
def lanes (w : Nat) (f : Nat → Nat → Nat → Nat → Nat) (p : PReg) (a b d : VReg) : VReg :=
  BitVec.ofNat 2048 (lanesGo w f (256 / w) 0 p.toNat a.toNat b.toNat d.toNat)

/-- A predicate from element tests: all w bits of an active element take the result, the others are 0 (R142). -/
def predGo (w : Nat) (f : Nat → Nat → Bool) : Nat → Nat → Nat → Nat → Nat
  | 0, _, _, _ => 0
  | n + 1, p, a, b =>
    let m := 256 ^ w
    (if p % 2 = 1 && f (a % m) (b % m) then 2 ^ w - 1 else 0) + 2 ^ w * predGo w f n (p / 2 ^ w) (a / m) (b / m)
def predOf (w : Nat) (f : Nat → Nat → Bool) (p : PReg) (a b : VReg) : PReg :=
  BitVec.ofNat 256 (predGo w f (256 / w) p.toNat a.toNat b.toNat)

/-- Every element = the low bits of x (R139, .x). -/
def splat (w : Nat) (x : W64) : VReg :=
  BitVec.ofNat 2048 ((x.toNat % 256 ^ w) * ((256 ^ 256 - 1) / (256 ^ w - 1)))

/-- Elements of a register, lowest first. -/
def elemList (w : Nat) : Nat → Nat → List Nat
  | 0, _ => []
  | n + 1, v => v % 256 ^ w :: elemList w n (v / 256 ^ w)
def elems (w : Nat) (v : VReg) : List Nat := elemList w (256 / w) v.toNat
/-- Whether each element is active, lowest first. -/
def activeList (w : Nat) : Nat → Nat → List Bool
  | 0, _ => []
  | n + 1, p => (p % 2 == 1) :: activeList w n (p / 2 ^ w)
def actives (w : Nat) (p : PReg) : List Bool := activeList w (256 / w) p.toNat

/-- A register from its elements, lowest first. -/
def packElems (w : Nat) : List Nat → Nat
  | [] => 0
  | x :: r => x % 256 ^ w + 256 ^ w * packElems w r

/-! ## Non-finite results (R118 to R120) -/

/-- KIND of a non-finite value (R120). -/
def nfKind : FV → Nat
  | .nan => 0
  | .inf false => 1
  | .inf true => 2
  | .fin _ _ _ => 0

/-- Element index and value of the first active non-finite element. -/
def firstNF (ft : Ft) (e : Nat) : List Nat → List Bool → Option (Nat × FV)
  | x :: xs, true :: ps => let v := decodeEl ft x; if v.nonFinite then some (e, v) else firstNF ft (e + 1) xs ps
  | _ :: xs, false :: ps => firstNF ft (e + 1) xs ps
  | _, _ => none

/-- The record of R120. -/
def nfRecord (src whereAt : Nat) (t : Task) (fa fb : Nat) (v : FV) (lane row col iter : Nat) : Vector W64 4 :=
  #v[BitVec.ofNat 64 (src * 2 ^ 62 + whereAt % 2 ^ 56),
     BitVec.ofNat 64 (t.tilez.toNat * 2 ^ 32 + t.tiley.toNat * 2 ^ 16 + t.tilex.toNat),
     BitVec.ofNat 64 (fa * 2 ^ 60 + fb * 2 ^ 56 + nfKind v * 2 ^ 54 + lane * 2 ^ 16 + row * 2 ^ 8 + col),
     BitVec.ofNat 64 iter]

/-- Pass of the running loop, 0 outside a loop (R76). -/
def Task.passNow (t : Task) : Nat :=
  match t.seq.items with
  | .loop _ p _ _ _ :: _ => p
  | _ => 0

/-- NONFINITE of a vector word (R119, R120). -/
def nfTrap (e : Entry) (fa fb : Nat) (v : FV) (lane : Nat) (s : State) : VRes :=
  let r := nfRecord 0 e.addr.toNat s.t fa fb v lane 0 0 (s.t.passNow % 2 ^ 32)
  .trap .nonfinite r[0] (some r)

/-- Write a vector result unless, with NFT, an element of it is non-finite (R119). -/
def writeNF (e : Entry) (ft : Ft) (fa fb : Nat) (rd : Reg) (p : PReg) (r : VReg) (s : State) : VRes :=
  if e.nft && ft.isFloat then
    match firstNF ft 0 (elems ft.width r) (actives ft.width p) with
    | some (k, v) => nfTrap e fa fb v (ft.width * k) s
    | none => .ok (s.vw rd r)
  else .ok (s.vw rd r)

/-- Write a floating scalar result unless, with NFT, it is non-finite (R145, R119). -/
def scalarNF (e : Entry) (fa : Nat) (v : FV) (s : State) (done : State) : VRes :=
  if e.nft && v.nonFinite then nfTrap e fa fa v 0 s else .ok done

/-! ## Streams (R184 to R187) -/

/-- The walk after one block (R186): WRAP restarts, else END. -/
def Stream.next (b : Stream) : Stream :=
  let k := b.k + 1
  if k ≥ b.d.total then
    (if b.d.wrap then { b with k := 0, moved := b.moved + 1 } else { b with k := k, moved := b.moved + 1, ended := true })
  else { b with k := k, moved := b.moved + 1 }

def State.setStream (s : State) (n : Nat) (b : Stream) : State := { s with t := { s.t with streams := s.t.streams.put n b } }

/-- A failed block: XLATE and ACCESS report the block's address (R186). -/
def blockMiss (a : W64) (m : Miss) : Miss :=
  { m with trap := match m.trap with
      | some (.xlate, _) => some (.xlate, a)
      | some (.access, _) => some (.access, a)
      | x => x }

/-- Read a block (R186): its 256 bytes, absent granules zero. -/
def State.readBlock (s : State) (d : StreamDesc) (k : Nat) : Except Miss (VReg × State) :=
  let a := d.blockAddr k
  match s.locatePieces 64 64 { r := true } .plain ((List.range 4).map fun j => a + BitVec.ofNat 64 (64 * j)) with
  | .error m => .error (blockMiss a m)
  | .ok (ps, s) =>
    (s.piecesOk 64 ps).map fun s =>
      let s := piecesRow d.sc 64 ps (flushPieces 64 ps s)
      (BitVec.ofNat 2048 (s.piecesValue 64 ps), s.meetAbsent (absents (ps.map (·.place))))

/-- A block whose ordering code is not plain, or which lies outside the window, is refused in a compute phase
(R179, R186). -/
def StreamDesc.phaseBad (d : StreamDesc) (k : Nat) (s : State) : Bool :=
  s.t.st.ph = .c && (d.sc != .plain || decide (windowSpan < (d.blockAddr k).toNat + 256))

/-- Consume block k of an in-stream into its register (R186). -/
def State.consume (s : State) (n : Reg) (b : Stream) : Except Miss State :=
  if b.ended then .ok (s.vw n 0)
  else if b.d.phaseBad b.k s then s.refuse .phase (b.d.blockAddr b.k)
  else match b.ahead with
    | v :: r => .ok ((s.setStream n.val { b.next with ahead := r }).vw n v)
    | [] =>
      match s.readBlock b.d b.k with
      | .error t => .error t
      | .ok (v, s') => .ok ((s'.setStream n.val b.next).vw n v)

/-- Source and destination registers that a word reaches as streams: not the window of VRRD and VRWR (R186). -/
def streamSrc (i : Instr) : List Nat := match i with | .vrrd .. => [] | _ => (regsOf i).vr.eraseDups
def streamDst (i : Instr) : List Nat := match i with | .vrwr .. => [] | _ => (regsOf i).vw

/-- Consume the blocks of every in-stream source, one each (R137). -/
def consumeAll : List Nat → State → Except Miss State
  | [], s => .ok s
  | n :: r, s =>
    match s.t.streams.find n with
    | some b =>
      if b.d.out then consumeAll r s
      else match s.consume (Fin.ofNat 32 n) b with
        | .error t => .error t
        | .ok s' => consumeAll r s'
    | none => consumeAll r s

/-- Width of the elements that a word's predicate governs; 1 for a byte predicate (R127, R129). -/
def predWidth : Instr → Nat
  | .vadd _ _ _ _ ft | .vsub _ _ _ _ ft | .vmul _ _ _ _ ft | .vmulz _ _ _ _ ft | .vmin _ _ _ _ ft | .vmax _ _ _ _ ft
  | .vfma _ _ _ _ ft | .vfmaz _ _ _ _ ft | .vaddX _ _ _ _ ft | .vsubX _ _ _ _ ft | .vmulX _ _ _ _ ft
  | .vmulzX _ _ _ _ ft | .vminX _ _ _ _ ft | .vmaxX _ _ _ _ ft | .vfmaX _ _ _ _ ft | .vfmazX _ _ _ _ ft
  | .vand _ _ _ _ ft | .vor _ _ _ _ ft | .vxor _ _ _ _ ft | .vandn _ _ _ _ ft | .vshl _ _ _ _ ft | .vshr _ _ _ _ ft
  | .vsar _ _ _ _ ft | .vrotl _ _ _ _ ft | .vshuf _ _ _ _ ft | .vrotr _ _ _ _ ft | .vslup _ _ _ _ ft
  | .vsldn _ _ _ _ ft | .vzip _ _ _ _ ft | .vunzip _ _ _ _ ft | .vbcast _ _ _ ft | .vexp2 _ _ _ ft | .vlog2 _ _ _ ft
  | .vrcp _ _ _ ft | .vrsq _ _ _ ft | .vexp _ _ _ ft | .vtanh _ _ _ ft | .vsilu _ _ _ ft | .viota _ _ ft => ft.width
  | .vsmx .. => 4
  | .vcvt _ _ _ fd _ _ => fd.width
  | _ => 1

/-- Bytes that a word's predicate makes active (R127): each element's bytes take its lowest bit. Those of VSMX are the bytes of its fp32
score elements in every format (DESIGN CHOICE, log 71). -/
def activeBytes (i : Instr) (s : State) : PReg :=
  match (regsOf i).pr with
  | [g] => match i with
    | .vsel .. => BitVec.allOnes 256
    | _ => predOf (predWidth i) (fun _ _ => true) (s.pr (Fin.ofNat 8 g)) 0 0
  | _ => BitVec.allOnes 256

/-- Cells of the active bytes of a value laid over pieces of n bytes. -/
def maskedCells (n : Nat) : List Piece → Nat → Nat → List (Nat × Byte)
  | [], _, _ => []
  | p :: r, v, m =>
    (match p.place with
      | .at pa => ((leCells pa n v).zipIdx.filter fun c => m / 2 ^ c.2 % 2 = 1).map (·.1)
      | _ => []) ++ maskedCells n r (v / 256 ^ n) (m / 2 ^ n)

/-- A store with an ordering code is a release: the task's posted writes are performed first (R251). -/
def State.releases (s : State) (sc : Sc) : State := if sc = .plain then s else s.flush 0 (2 ^ 48)

/-- A register with the compute-phase loads that are still to deliver into it: what a load into an out-stream register stores
(R180, R186). -/
def Task.loaded (t : Task) (n : Reg) : VReg :=
  (t.seq.loads.filter (·.vr == n)).foldl (fun v l => vSetBytes v l.bytes) (t.vr n)

/-- Store the block of an out-stream after its register has been written (R186). -/
def State.emit (s : State) (n : Nat) (b : Stream) (mask : PReg) : Except Miss State :=
  if b.ended then .ok s
  else
    let a := b.d.blockAddr b.k
    if b.d.phaseBad b.k s then s.refuse .phase a
    else
      let act := (List.range 4).filter fun j => mask.toNat / 2 ^ (64 * j) % 2 ^ 64 ≠ 0
      match s.locatePieces 64 64 { w := true } .plain (act.map fun j => a + BitVec.ofNat 64 (64 * j)) with
      | .error m => .error (blockMiss a m)
      | .ok (ps, s) =>
        let v := (s.t.loaded (Fin.ofNat 32 n)).toNat
        let cells := (ps.zip act).flatMap fun q => maskedCells 64 [q.1] (v / 256 ^ (64 * q.2)) (mask.toNat / 2 ^ (64 * q.2))
        if b.d.sc ≠ .plain ∧ s.ownHeld = true then .error ⟨none, s, none⟩
        else .ok (piecesRow b.d.sc 64 ps (((flushPieces 64 ps (s.releases b.d.sc)).store cells).setStream n b.next))

/-- Store the blocks of every out-stream destination. -/
def emitAll (mask : PReg) : List Nat → State → Except Miss State
  | [], s => .ok s
  | n :: r, s =>
    match s.t.streams.find n with
    | some b =>
      if !b.d.out then emitAll mask r s
      else match s.emit n b mask with
        | .error t => .error t
        | .ok s' => emitAll mask r s'
    | none => emitAll mask r s

/-- A register is bound as an in-stream. -/
def Task.inStream (t : Task) (n : Nat) : Bool := match t.streams.find n with | some b => !b.d.out | none => false

/-- A destination is a bound in-stream register (R186). -/
def writesInStream (i : Instr) (s : State) : Bool :=
  (streamDst i).any s.t.inStream

/-- The blocks that an A word has consumed, in the registers it reads. -/
def takeBlocks (src : List Nat) (t o : Task) : Task :=
  { o with v := Vector.ofFn fun r => if src.contains r.val && t.inStream r.val then t.v[r] else o.v[r] }

/-! ## Cycles (R136) -/

/-- Occupancy and latency of a word (R136). The memory words are given no occupancy, for which the model takes 1 (log 5); the
latency of a load is that of its path (R174, R182), which the load itself adds. -/
def occLat : Instr → Nat × Nat
  | .vexp2 .. | .vlog2 .. | .vrcp .. | .vrsq .. | .vexp .. | .vtanh .. | .vsilu .. => (4, 12)
  | .vrsum .. | .vrmax .. | .vrmin .. | .vramax .. | .vrssq .. | .vext .. => (1, 8)
  | .vstats .. => (2, 10)
  | .vsmx .. => (4, 14)
  | .vlse .. => (4, 16)
  | .sbget .. | .sbset .. => (1, 4)
  | .vnrd .. => (2, 4)
  | .vld .. | .vst .. | .vlds .. | .vsts .. | .vldx .. | .vstx .. | .vstq .. | .vldv .. => (1, 1)
  | _ => (1, 3)

/-- The result of a word depends on what its destination held: the fused words read vd (R139), VINS keeps all but one element
(R148), and a word under a predicate keeps vd where it is not active (R127); VSEL takes both sides from its sources. -/
def readsDest (i : Instr) : Bool :=
  match i with
  | .vfma .. | .vfmaz .. | .vfmaX .. | .vfmazX .. | .vins .. => true
  | .vsel .. => false
  | _ => (regsOf i).pr.any (· != 0)
/-- Keys of the registers a word reads, and of those it writes, in `Seq.ready`. -/
def readKeys (i : Instr) : List Nat :=
  (regsOf i).vr ++ (regsOf i).pr.map (32 + ·) ++ if readsDest i then (regsOf i).vw else []
def writeKeys (i : Instr) : List Nat := (regsOf i).vw ++ (regsOf i).pw.map (32 + ·) ++ (regsOf i).xw.map (64 + ·)

/-- Results of the keys are ready no earlier than cycle c. -/
def readyAt (c : Nat) (l : List Nat) (m : NMap Nat) : NMap Nat := l.foldl (fun m k => m.put k (Nat.max c (m.getD k 0))) m

/-- The cycle in which a word may begin to execute: the unit is free and its operands are ready. -/
def Seq.begin (q : Seq) (now : Nat) (i : Instr) : Nat :=
  (readKeys i).foldl (fun c k => Nat.max c (q.ready.getD k 0)) (Nat.max now q.time)

/-- The sequencer after a word that began in cycle c. -/
def Seq.after (q : Seq) (c : Nat) (i : Instr) : Seq :=
  { q with time := c + (occLat i).1, ready := readyAt (c + (occLat i).2) (writeKeys i) q.ready, busy := decide (1 < (occLat i).1) }
/-- The unit is free again in cycle n. -/
def Seq.settle (q : Seq) (n : Nat) : Seq := if q.busy && decide (q.time ≤ n) then { q with busy := false } else q

/-- Compute-phase loads due by cycle c write their destinations (R180). -/
def Task.dueVLoads (t : Task) (c : Nat) : Task :=
  let due := t.seq.loads.filter fun l => decide (l.due ≤ c)
  let u := due.foldl (fun u l => u.vw l.vr (vSetBytes (u.vr l.vr) l.bytes)) t
  { u with seq := { u.seq with loads := t.seq.loads.filter fun l => !decide (l.due ≤ c) } }

/-- The registers that a word has written as out-streams: none where a neighbour read has brought nothing (R150). -/
def streamOut (i : Instr) (t : Task) : List Nat :=
  match i with
  | .vnrd .. => if (t.seq.wait.bind (·.got)).isSome then streamDst i else []
  | _ => streamDst i

/-- Execute a vector word with its streams (R128, R137, R186): in-stream blocks are consumed, the word's own part
runs, out-stream blocks are stored; a trap leaves nothing changed. A word that waits (R150, R281) has consumed its blocks
when its wait began, and keeps the streams of before for an abandoned wait (R138). -/
def runStreams (i : Instr) (run : Entry → State → VRes) (e : Entry) (s : State) : VRes :=
  if s.t.streams.isEmpty then run e s
  else if writesInStream i s then .trap .illegal (e.word.setWidth 64) none
  else match (if s.t.seq.wait.isSome then .ok s else consumeAll (streamSrc i) s) with
    | .error m => .miss m
    | .ok s1 =>
      let s1 := { s1 with old := s1.old.map (takeBlocks (streamSrc i) s1.t) }
      match run e s1 with
      | .ok s2 => match emitAll (activeBytes i s1) (streamOut i s.t) s2 with
        | .error m => .miss m
        | .ok s3 => .ok s3
      | .wait s2 =>
        match s2.t.seq.wait with
        | none => .wait s
        | some w =>
          .wait (if s.t.seq.wait.isSome then s2
                 else { s2 with t := { s2.t with seq := { s2.t.seq with wait := some { w with before := s.t.streams } } } })
      | r => r

/-- Execute a vector word in this cycle, the compute-phase loads due by then delivered first. -/
def runWord (i : Instr) (run : Entry → State → VRes) (e : Entry) (s : State) : VRes :=
  let c := s.tissued
  match runStreams i run e (if s.t.seq.loads.isEmpty then s else { s with t := s.t.dueVLoads c }) with
  | .ok s' => .ok { s' with t := { s'.t with seq := s'.t.seq.after c i } }
  | r => r

/-! ## Issue (R130, R131, R133, R134) -/

/-- Words in a unit, and occupied entries (R130, R135). -/
def SeqUnit.words (u : SeqUnit) : Nat := u.c.toList.length + u.a.toList.length
def SeqItem.occ : SeqItem → Nat
  | .unit u => u.words
  | .loop _ _ _ _ len => len
def Seq.occ (q : Seq) : Nat := q.items.foldl (fun n i => n + i.occ) 0 + (q.cap.map (·.len)).getD 0 + (if q.busy then 1 else 0)
/-- Entries of the sequencer (R130). -/
def seqSize : Nat := 16

/-- The registers that answers on their way will write (R219). -/
def Task.answerRegs (t : Task) : List Nat := t.answers.flatMap fun a => a.regs.map (·.1.val)
/-- The A word's operands that its pair's C word has already changed, or that an answer to it will (R32, R130, R219). -/
def snapOf (i : Instr) (old new : Task) : VSnap :=
  { v := ((regsOf i).vr ++ (regsOf i).vw).filterMap fun n =>
      let r : Reg := Fin.ofNat 32 n
      if old.v[r] = new.v[r] ∧ !(new.answerRegs.contains n && !old.answerRegs.contains n) then none else some (r, old.v[r])
    p := (regsOf i).pr.filterMap fun n =>
      let r : Pg := Fin.ofNat 8 n
      if old.p[r] = new.p[r] then none else some (r, old.p[r]) }
/-- The task as an A word reads it. -/
def VSnap.over (q : VSnap) (t : Task) : Task :=
  { t with v := q.v.foldl (fun v p => v.set p.1 p.2) t.v, p := q.p.foldl (fun v p => v.set p.1 p.2) t.p }

/-- Add a word to the unit that its pair's C word began, or begin one. -/
def joinUnit (e : Entry) (inA : Bool) (snap : VSnap) (us : List SeqUnit) : List SeqUnit :=
  if inA then
    match us.getLast? with
    | some u => if (u.c.map (·.addr + 4)) == some e.addr && u.a.isNone then us.dropLast ++ [{ u with a := some e, snap := snap }]
                else us ++ [{ a := some e, snap := snap }]
    | none => us ++ [{ a := some e, snap := snap }]
  else us ++ [{ c := some e }]

/-- Enter a word at the end of the sequencer. -/
def Seq.enter (q : Seq) (e : Entry) (inA : Bool) (snap : VSnap) : Seq :=
  match q.items.getLast? with
  | some (.unit u) =>
    { q with items := q.items.dropLast ++ (joinUnit e inA snap [u]).map .unit }
  | _ => { q with items := q.items ++ (joinUnit e inA snap []).map .unit }

/-- Add a word to the open capture; when it is full the loop closes (R133, R134). With count 0 the captured words
are discarded. -/
def Seq.captured (q : Seq) (c : Capture) (e : Entry) (inA : Bool) (snap : VSnap) : Seq :=
  let got := joinUnit e inA snap c.got
  if (got.foldl (fun n u => n + u.words) 0) < c.len then { q with cap := some { c with got := got } }
  else if c.n = 0 then { q with cap := none }
  else { q with cap := none, items := q.items ++ [.loop c.n 0 got got c.len] }

/-- One of the registers is one that an answer on its way will write. -/
def Task.awaitsAny (t : Task) (l : List Nat) : Bool := t.answerRegs.any l.contains
/-- A vector word names a register that an answer on its way will write: it waits in the sequencer (R132, R219). An A word reads what
its pair has left in its snapshot (R32). -/
def Task.awaits (t : Task) (i : Instr) (snap : VSnap) : Bool :=
  t.awaitsAny (((regsOf i).vr ++ (regsOf i).vw).filter fun n => !snap.v.any (·.1.val == n))

/-- A word may begin to execute in this cycle (R132, R136). -/
def State.begins (s : State) (i : Instr) (snap : VSnap) : Bool :=
  !s.t.seq.busy && !s.t.awaits i snap && decide (s.t.seq.begin s.tissued i ≤ s.tissued)
/-- Issue of a vector word (R130, R131): it is captured by an open VLOOP; it runs at once when the sequencer holds
nothing and it may begin; otherwise it enters, and the scalar side stalls when no entry is free. A word that would trap or wait
enters too, so that its trap is delivered as R76 says. -/
def issueV (i : Instr) (a b : W64) (run : Entry → State → VRes) (s : State) : Out :=
  gate i s fun s =>
    let e : Entry := ⟨i, s.t.wordAddr, s.t.word, a, b, s.rd.st.exact, s.rd.st.apx, s.rd.st.nft⟩
    let snap := match s.old with | some o => snapOf i o s.t | none => {}
    let enter : Out :=
      if s.t.seq.occ < seqSize then fin { s with t := { s.t with seq := s.t.seq.enter e s.t.inA snap } } else stallSeq s
    match s.t.seq.cap with
    | some c => fin { s with t := { s.t with seq := s.t.seq.captured c e s.t.inA snap } }
    | none =>
      if s.t.seq.items.isEmpty && s.begins i snap then
        match runWord i run e s with
        | .ok s' => fin s'
        | _ => enter
      else enter

/-! ## The word at the head (R130, R133) -/

/-- The unit at the head of the sequencer. -/
def Seq.head (q : Seq) : Option SeqUnit :=
  match q.items with
  | .unit u :: _ => some u
  | .loop _ _ (u :: _) _ _ :: _ => some u
  | _ => none
/-- The executing word, and whether it is the A word of its pair. -/
def SeqUnit.word? (u : SeqUnit) : Option (Entry × Bool) :=
  match u.c with
  | some e => some (e, false)
  | none => u.a.map (·, true)
/-- Put another unit at the head. -/
def Seq.setHead (q : Seq) (u : SeqUnit) : Seq :=
  match q.items with
  | .unit _ :: r => { q with items := .unit u :: r }
  | .loop n p (_ :: rest) body len :: r => { q with items := .loop n p (u :: rest) body len :: r }
  | _ => q
/-- The head unit has completed: the next one of the pass, the next pass, or the next item (R133). -/
def Seq.dropHead (q : Seq) : Seq :=
  match q.items with
  | .unit _ :: r => { q with items := r }
  | .loop n p (_ :: u :: rest) body len :: r => { q with items := .loop n p (u :: rest) body len :: r }
  | .loop n p _ body len :: r =>
    { q with items := if p + 1 < n then .loop n (p + 1) body body len :: r else r }
  | [] => q

/-- The executing word has completed; `old` is the task before it executed. -/
def Task.wordDone (old t : Task) : Task :=
  let q := { t.seq with wait := none }
  match q.head with
  | some u =>
    match u.c, u.a with
    | some _, some e => { t with seq := q.setHead { c := none, a := some e, snap := snapOf e.i old t } }
    | _, _ => { t with seq := q.dropHead }
  | none => { t with seq := q }

end Sys2Proof.Machine
end

