-- ==== Sys2Proof/Machine/Streams.lean ====
section
/-! DEFINITION. Descriptors in memory, and the stream instructions (R184 to R187). -/

namespace Sys2Proof.Machine

/-- The eight doublewords of a 64-byte number. -/
def words64 (n : Nat) : List Nat := (List.range 8).map fun k => bitsOf n (64 * k) 64

/-- Load n-byte pieces for the task as a scalar access does: the address checks, the wait of R176 and the errors of R177; what
they hold, absent ones zero (R293). -/
def loadPieces (n : Nat) (as : List W64) (s : State) (k : Nat → State → Out) : Out :=
  orTrap (s.locatePieces n n { r := true } .plain as) fun (ps, s) =>
    if piecesWait n ps s then stallSeq s
    else orTrap (s.piecesOk n ps) fun s =>
      let s := flushPieces n ps s
      k (s.piecesValue n ps) (s.meetAbsent (absents (ps.map (·.place))))
/-- Load a 64-byte descriptor for the task (R185, R189). -/
def loadDesc (a : W64) (s : State) (k : Nat → State → Out) : Out :=
  if a.toNat % 64 ≠ 0 then raise .align a s else loadPieces 64 [a] s k

/-- The descriptor is legal (R185). -/
def streamOk (n : Nat) : Bool :=
  let d := words64 n
  let w (k : Nat) := d.getD k 0
  decide (w 0 / 2 ^ 56 = 0 ∧ w 0 % 64 = 0 ∧ w 1 % 64 = 0 ∧ w 2 % 64 = 0 ∧ w 3 % 64 = 0 ∧ bitsOf (w 4) 32 32 ≠ 0
    ∧ bitsOf (w 4) 0 32 ≠ 0 ∧ bitsOf (w 5) 62 2 ≤ 1 ∧ bitsOf (w 5) 58 3 ≠ 7 ∧ bitsOf (w 5) 32 26 = 0
    ∧ bitsOf (w 5) 0 32 ≠ 0 ∧ w 6 = 0 ∧ w 7 = 0)

/-- The walk of a descriptor (R184). -/
def StreamDesc.of (n : Nat) : StreamDesc :=
  let d := words64 n
  let w (k : Nat) := d.getD k 0
  { base := w 0, stride0 := BitVec.ofNat 64 (w 1), stride1 := BitVec.ofNat 64 (w 2), stride2 := BitVec.ofNat 64 (w 3),
    count0 := bitsOf (w 4) 0 32, count1 := bitsOf (w 4) 32 32, count2 := bitsOf (w 5) 0 32,
    out := bitsOf (w 5) 62 1 == 1, wrap := bitsOf (w 5) 61 1 == 1, sc := (Sc.ofCode? (bitsOf (w 5) 58 3)).getD .plain }

/-- The stream instructions wait as VSYNC does and check the register for ALLOT (R185). -/
def streamGate (i : Instr) (rb : Reg) (s : State) (k : State → Out) : Out :=
  gate i s fun s => drained s fun s =>
    if s.t.allotn ≤ rb.val then raise .allot (BitVec.ofNat 64 rb.val) s else k s

/-- STRM (R185). -/
def execStrm (ra rb : Reg) (s : State) : Out :=
  streamGate (.strm ra rb) rb s fun s =>
    let a := s.xr ra
    noCompute a s fun s => loadDesc a s fun n s' =>
      if streamOk n then fin (s'.setStream rb.val { d := StreamDesc.of n }) else raiseAfter .illegal a s s'
/-- STRMOFF (R185). -/
def execStrmoff (rb : Reg) (s : State) : Out :=
  streamGate (.strmoff rb) rb s fun s => fin { s with t := { s.t with streams := s.t.streams.del rb.val } }
/-- The state that STRMQ writes (R185). -/
def Stream.pack (b : Stream) : W64 := BitVec.ofNat 64 (b.moved.toNat * 2 ^ 32 + bitIf b.ended 2 + bitIf b.d.out 1 + 1)
/-- STRMQ (R185). -/
def execStrmq (rd rb : Reg) (s : State) : Out :=
  streamGate (.strmq rd rb) rb s fun s =>
    finX rd (match s.t.streams.find rb.val with | some b => b.pack | none => 0) s

/-- The block that follows those read ahead, if any. -/
def Stream.nextAhead (b : Stream) : Option Nat :=
  let k := b.k + b.ahead.length
  if b.ended then none else if b.d.wrap then some (k % b.d.total) else if k < b.d.total then some k else none

/-- STREAM_BLOCK_READ (R186): the next block is read ahead of its consumption, at most four blocks ahead; a block
that fails is left to the word that consumes it. -/
def execStreamBlockRead (n : Reg) (s : State) : Out :=
  match s.t.streams.find n.val with
  | none => .next s
  | some b =>
    if b.d.out || decide (4 ≤ b.ahead.length) then .next s
    else match b.nextAhead with
      | none => .next s
      | some k =>
        if b.d.phaseBad k s then .next s
        else match s.readBlock b.d k with
          | .ok (v, s') => .next (s'.setStream n.val { b with ahead := b.ahead ++ [v] })
          | .error _ => .next s

end Sys2Proof.Machine
end

