-- ==== Sys2Proof/Machine/Copy.lean ====
section
/-! DEFINITION. The copy engines (R188 to R194). -/

namespace Sys2Proof.Machine

/-- Command slots of a core's port (R188). -/
def portSlots : Nat := 8

/-- A descriptor as a command (R188), kind 1 copy, 2 gather, 3 scatter. -/
def CopyCmd.of (kind : Nat) (mode : ScatMode) (n part task : Nat) : CopyCmd :=
  let d := words64 n
  let w (k : Nat) := d.getD k 0
  { kind := kind, mode := mode, src := w 0, dst := w 1, rows := bitsOf (w 2) 32 32, rowBytes := bitsOf (w 2) 0 32,
    spitch := BitVec.ofNat 64 (w 3), dpitch := BitVec.ofNat 64 (w 4), iw := bitsOf (w 5) 62 2,
    efmt := Ft.ofCode (bitsOf (w 5) 59 3), idx := bitsOf (w 5) 0 56, sig := bitsOf (w 6) 63 1 == 1,
    msg := bitsOf (w 6) 62 1 == 1, sigAddr := bitsOf (w 6) 0 56, sigVal := BitVec.ofNat 64 (w 7), part := part, task := task }

/-- SCATTER in a mode that computes (R188). -/
def CopyCmd.computes (c : CopyCmd) : Bool := c.kind == 3 && (c.mode == .add || c.mode == .max)

/-- The descriptor is legal (R188, R189). The range checks of IDX and SIGADDR apply where the command uses them
(log 14). -/
def copyOk (c : CopyCmd) (n : Nat) : Bool :=
  let d := words64 n
  let w (k : Nat) := d.getD k 0
  let iwBytes := 2 * 2 ^ c.iw
  decide (w 0 / 2 ^ 56 = 0 ∧ w 1 / 2 ^ 56 = 0 ∧ bitsOf (w 5) 56 3 = 0 ∧ bitsOf (w 6) 56 6 = 0)
    && decide (1 ≤ c.rows ∧ c.rows ≤ (if c.kind = 1 then 16777216 else 65536) ∧ 1 ≤ c.rowBytes ∧ c.rowBytes ≤ 16777216)
    && decide (c.iw ≤ 1) && (c.computes || decide (bitsOf (w 5) 59 3 = 0))
    && decide (0x01000000 ≤ c.src ∧ 0x01000000 ≤ c.dst)
    && (if c.kind = 1 then c.idx == 0 else decide (0x01000000 ≤ c.idx) && c.idx % iwBytes == 0)
    && (!c.sig || decide (0x01000000 ≤ c.sigAddr)) && c.sigAddr % 8 == 0
    && (!c.computes || (c.rowBytes % c.efmt.width == 0 && c.dst % c.efmt.width == 0 && c.dpitch.toNat % c.efmt.width == 0))

/-- The tag after t (R189). -/
def nextTagOf (t : Nat) : Nat := if t ≥ 65535 then 1 else t + 1

/-- COPY, GATHER and SCATTER (R189): every check at issue; then a tag, and the command goes to the engine. -/
def copyIssue (i : Instr) (kind : Nat) (mode : ScatMode) (rd ra : Reg) (s : State) : Out :=
  gate i s fun s =>
    let a := s.xr ra
    noCompute a s fun s => loadDesc a s fun n s' =>
      let c := CopyCmd.of kind mode n s.t.part s.t.tid
      if !copyOk c n then raiseAfter .illegal a s s'
      else released s' fun s' =>
        let k := s'.core s'.t.core
        if portSlots ≤ k.copies.length then stall s
        else
          let t := k.nextTag
          let k := { k with copies := k.copies.put t c, nextTag := nextTagOf t, tagLog := ((t, 1, 0) :: k.tagLog).take 64 }
          let s' := ((s'.setCore s'.t.core k).countSent s'.t.core).at_ 1 (.engineRowMove s'.t.core t)
          finX rd (BitVec.ofNat 64 t) s'

/-- COPY (R189). -/
def execCopy (rd ra : Reg) (s : State) : Out := copyIssue (.copy rd ra) 1 .last rd ra s
/-- GATHER (R189). -/
def execGather (rd ra : Reg) (s : State) : Out := copyIssue (.gather rd ra) 2 .last rd ra s
/-- SCATTER (R189). -/
def execScatter (rd ra : Reg) (mode : ScatMode) (s : State) : Out := copyIssue (.scatter rd ra mode) 3 mode rd ra s

/-- CSTAT (R192). -/
def execCstat (rd ra : Reg) (s : State) : Out :=
  gate (.cstat rd ra) s fun s => noCompute 0 s fun s =>
    let t := bitsOf (s.xr ra).toNat 0 16
    let k := s.core s.t.core
    let v := match k.tagLog.find? fun e => e.1 == t with
      | none => 0
      | some e => match k.copies.find t with
        | some c => c.done * 2 ^ 32 + c.state
        | none => e.2.2 * 2 ^ 32 + e.2.1
    finX rd (BitVec.ofNat 64 v) s

/-! ## Rows (R190, R191) -/

def CopyCmd.idxAt (c : CopyCmd) (r : Nat) : Nat := (c.idxs.getD []).getD r 0
/-- Source and destination address of row r. -/
def CopyCmd.srcOf (c : CopyCmd) (r : Nat) : Nat :=
  (BitVec.ofNat 64 c.src + BitVec.ofNat 64 (if c.kind = 2 then c.idxAt r else r) * c.spitch).toNat
def CopyCmd.dstOf (c : CopyCmd) (r : Nat) : Nat :=
  (BitVec.ofNat 64 c.dst + BitVec.ofNat 64 (if c.kind = 3 then c.idxAt r else r) * c.dpitch).toNat

/-- A value no index has: the entry could not be read (R194), and its row is not moved. -/
def badIdx : Nat := 2 ^ 32
/-- Rows that can be moved. -/
def CopyCmd.live (c : CopyCmd) : List Nat := (List.range c.rows).filter fun r => c.idxAt r != badIdx
/-- Rows that cover a destination byte, ascending; rows that touch an aligned word. -/
def CopyCmd.covering (c : CopyCmd) (b : Nat) : List Nat :=
  c.live.filter fun r => decide (c.dstOf r ≤ b ∧ b < c.dstOf r + c.rowBytes)
def CopyCmd.touching (c : CopyCmd) (w : Nat) : List Nat :=
  c.live.filter fun r => decide (c.dstOf r < w + 8 ∧ w < c.dstOf r + c.rowBytes)

/-- The row whose byte a destination byte ends as (R190). -/
def CopyCmd.winner (c : CopyCmd) (b : Nat) : Option Nat :=
  if c.kind = 3 ∧ c.mode = .first then (c.covering b).head? else (c.covering b).getLast?

/-- Destination bytes that row r writes, with the source address of each: the words that no later row touches, each
wholly final (R191). In the modes that compute, every byte of the row. -/
def CopyCmd.moves (c : CopyCmd) (r : Nat) : List (Nat × Nat) :=
  let d := c.dstOf r
  if c.idxAt r = badIdx then []
  else if c.computes then (List.range c.rowBytes).map fun j => (d + j, c.srcOf r + j)
  else
    let words := ((List.range c.rowBytes).map fun j => (d + j) / 8 * 8).eraseDups
    (words.filter fun w => (c.touching w).getLast? == some r).flatMap fun w =>
      (List.range 8).filterMap fun j => (c.winner (w + j)).map fun q => (w + j, c.srcOf q + (w + j - c.dstOf q))

/-- The source addresses of the bytes of row r that a later row's move will write. -/
def CopyCmd.deferred (c : CopyCmd) (r : Nat) : List Nat :=
  if c.computes || c.idxAt r == badIdx then []
  else ((List.range c.rowBytes).filter fun j => (c.touching ((c.dstOf r + j) / 8 * 8)).getLast? != some r).map (c.srcOf r + ·)
/-- The aligned source words that row r reads and that a later row may need again: those it does not cover whole, and those with
deferred bytes. They are read once, so that each is read wholly old or wholly new (R262). -/
def CopyCmd.sharedWords (c : CopyCmd) (r : Nat) (mv : List (Nat × Nat)) : List Nat :=
  ((mv.map (·.2 / 8 * 8)).eraseDups.filter fun w => !decide (c.srcOf r ≤ w ∧ w + 8 ≤ c.srcOf r + c.rowBytes))
    ++ ((c.deferred r).map (· / 8 * 8)).eraseDups

/-- A source byte lies in the command's destination (R190): its value is unspecified. -/
def CopyCmd.selfOverlap (c : CopyCmd) (a : Nat) : Bool := !(c.covering a).isEmpty

/-- Use a free value. -/
def freeBytes : List Nat → State → List (Nat × Byte) × State
  | [], s => ([], s)
  | a :: r, s =>
    let q := freeBytes r { s with free := s.free + 1 }
    ((a, Config.freeByte s.free) :: q.1, q.2)

/-- New bytes of a row of a computing scatter: element by element from the old bytes (R190). -/
def computeRow (add : Bool) (f : Ft) : List Byte → List Byte → List Byte
  | old, new =>
    let w := f.width
    let m := old.length / w
    let op := if add then addSat f else maxEl f
    (List.range m).flatMap fun e =>
      leBytes w (op (ofBytes ((old.drop (w * e)).take w)) (ofBytes ((new.drop (w * e)).take w)))

/-- How the move of one row ends. -/
inductive RowMove
  | fault (write : Bool) (f : EFault)
  | later
  | done (s : State) (held : List (Nat × Option Byte)) (err : Bool)

/-- Write the moved bytes (destination, source) from what has been read of their sources (R190, R194): a granule with a byte
under an error stays unchanged. -/
def CopyCmd.put (c : CopyCmd) (core tag : Nat) (mv : List (Nat × Nat)) (src old : List (Nat × Option Byte)) (dp : List EPiece)
    (s : State) : Option (State × Bool) :=
  let bad (m : Nat × Nat) : Bool :=
    (match src.find? fun x => x.1 == m.2 with | some (_, none) => true | _ => false)
      || (match old.find? fun x => x.1 == m.1 with | some (_, none) => true | _ => false)
  let badG := ((mv.filter bad).map fun m => m.1 / 64 * 64).eraseDups
  let get (l : List (Nat × Option Byte)) (a : Nat) : Byte := match l.find? fun x => x.1 == a with | some (_, some b) => b | _ => 0
  let fresh := mv.map fun m => get src m.2
  let vals := if c.computes then computeRow (c.mode == .add) c.efmt (mv.map fun m => get old m.1) fresh else fresh
  let free := freeBytes ((mv.filter fun m => c.selfOverlap m.2).map (·.1)) s
  let bytes := (((mv.map (·.1)).zip vals).filter fun b => !badG.contains (b.1 / 64 * 64)).map fun b =>
    (b.1, (byteIn free.1 b.1).getD b.2)
  (free.2.engWrite c.task dp bytes).map fun w =>
    let err := !badG.isEmpty || w.lost
    ({ w with lost := err }.report (dieOf core) c.part core tag c.task, err)

/-- Move one row (R190, R194, R293). -/
def CopyCmd.moveRow (c : CopyCmd) (core tag r : Nat) (s : State) : RowMove :=
  let mv := c.moves r
  let keep := (c.sharedWords r mv).filter fun w => !c.held.any (·.1 == w)
  let addrs := ((mv.map (·.2)) ++ keep.flatMap fun w => bytesFrom w 8).filter fun a => !c.held.any (·.1 == a)
  match s.engPieces c.part { r := true } (runsOf (addrs.eraseDups)) with
  | .error f => .fault false f
  | .ok (sp, s1) =>
    match s1.engPieces c.part { r := c.computes, w := true } (runsOf (mv.map (·.1))) with
    | .error f => .fault true f
    | .ok (dp, s2) =>
      let read := s2.engRead sp
      let old := if c.computes then s2.engRead dp else []
      let s3 := s2.engMet (sp ++ (if c.computes then dp else []))
      match c.put core tag mv (c.held ++ read) old dp s3 with
      | none => .later
      | some (s4, err) => .done (countAbsents (engAbsents sp) s4) (c.held ++ read.filter fun b => keep.contains (b.1 / 8 * 8)) err

/-- The bytes of finished rows that wait for a row which never moves (R193): they arrive when the command is abandoned. -/
def CopyCmd.leftover (c : CopyCmd) : List (Nat × Nat) :=
  let cut : CopyCmd := { c with rows := c.done }
  ((List.range c.done).flatMap cut.moves).filter fun m => match (c.touching (m.1 / 8 * 8)).getLast? with
    | some r => decide (c.done ≤ r)
    | none => false
/-- An abandoned command writes them, where their places still take them. -/
def CopyCmd.settle (c : CopyCmd) (core tag : Nat) (s : State) : State :=
  if c.computes || c.idxs.isNone then s
  else match s.engPieces c.part { w := true } (runsOf (c.leftover.map (·.1))) with
    | .error _ => s
    | .ok (dp, s1) => match c.put core tag c.leftover c.held [] dp s1 with
      | none => s
      | some (s2, _) => s2

/-- Put a command back. -/
def State.setCopy (s : State) (core tag : Nat) (c : CopyCmd) : State :=
  s.setCore core { s.core core with copies := (s.core core).copies.put tag c }

/-- An access of a command is not made: it waits for a unit under test, or the command stops until the fault has its ring slot
(R193, R327). -/
def State.copyFault (s : State) (core tag : Nat) (c : CopyCmd) (write : Bool) (f : EFault) (again : Event) : State :=
  match f.cause with
  | none => (f.s.setCopy core tag c).at_ 16 again
  | some k =>
    (f.s.setCopy core tag { c with state := 3 }).at_ 0 (.engineFault core tag write (BitVec.ofNat 64 f.va) (BitVec.ofNat 8 k.code))

/-- Read the index list (R190); absent granules read as zero and are counted (R293). -/
def CopyCmd.loadIdx (c : CopyCmd) (s : State) : Except EFault (List Nat × Bool × State) :=
  if c.kind = 1 then .ok ([], false, s)
  else
    let w := 2 * 2 ^ c.iw
    match s.engPieces c.part { r := true } (runsOf (bytesFrom c.idx (w * c.rows))) with
    | .error e => .error e
    | .ok (ps, s1) =>
      let bs := s1.engRead ps
      let entry (r : Nat) : Nat :=
        let e := ((bs.drop (w * r)).take w).map (·.2)
        if e.any Option.isNone then badIdx else ofBytes (e.map (·.getD 0))
      .ok ((List.range c.rows).map entry, bs.any fun b => b.2.isNone, countAbsents (engAbsents ps) (s1.engMet ps))

/-- ENGINE_ROW_MOVE (R190): a queued command starts, a running one moves its next row; after the last one the
completion follows. -/
def execEngineRowMove (core tag : Nat) (s : State) : Out :=
  match (s.core core).copies.find tag with
  | none => .next s
  | some c =>
    if c.state = 1 ∨ (c.state = 2 ∧ c.idxs.isNone) then
      match c.loadIdx s with
      | .error f => .next (s.copyFault core tag c false f (.engineRowMove core tag))
      | .ok (l, err, s1) =>
        let s1 := if err then s1.engineMemErr (dieOf core) c.part core tag c.task else s1
        let c := { c with idxs := some l, state := 2, status := if err then 2 else c.status }
        .next ((s1.setCopy core tag c).at_ 1 (.engineRowMove core tag))
    else if c.state = 2 then
      if c.rows ≤ c.done then .next (s.at_ 0 (.copyCompletion core tag))
      else match c.moveRow core tag c.done s with
        | .fault w f => .next (s.copyFault core tag c w f (.engineRowMove core tag))
        | .later => .next (s.at_ 16 (.engineRowMove core tag))
        | .done s1 held err =>
          let c := { c with done := c.done + 1, held := held, status := if err then 2 else c.status }
          .next ((s1.setCopy core tag c).at_ 1 (if c.rows ≤ c.done then .copyCompletion core tag else .engineRowMove core tag))
    else .next s

/-- ENGINE_FAULT (R193): the lowest free ring slot, the record, FAULT to SUPCORE; while all slots are taken it waits. -/
def execEngineFault (core tag : Nat) (write : Bool) (va : W64) (cause : BitVec 8) (s : State) : Out :=
  match (s.core core).copies.find tag with
  | none => .next s
  | some c =>
    if c.state ≠ 3 ∨ c.fault.isSome then .next s
    else
      let k : Cause := if cause = 0x04 then .xlate else .access
      match s.ringFault (dieOf core) c.part c.kind core tag c.task write va.toNat k with
      | none => .next (s.at_ 16 (.engineFault core tag write va cause))
      | some (n, s1) => .next (s1.setCopy core tag { c with fault := some n })

/-- The completion's steps past the signal (R191): COPYDONE goes out, which the engine holds while the mailbox is full; once it and the
command's FAULT have been accepted (R197), the slot is free and the completion counted. -/
def CopyCmd.finish (c : CopyCmd) (core tag : Nat) (s : State) : State :=
  let m := dieMsg (dieOf core) 1 (BitVec.ofNat 48 (c.status * 2 ^ 40 + tag))
  let s := if c.msg && !c.told then s.deliverFor c.task c.part core m else s
  if (c.msg && s.holds core m) || s.holds (s.part c.part).supcore (dieMsg (dieOf core) 6 (faultPayload 0x0D 0xFF core tag)) then
    (s.setCopy core tag { c with signalled := true, told := true }).at_ 16 (.copyCompletion core tag)
  else
    let k := s.core core
    let fin_ := if c.status = 0 then 4 else 5
    let k := { k with copies := k.copies.del tag,
                      tagLog := k.tagLog.map fun e => if e.1 = tag then (tag, fin_, c.done) else e }
    (s.setCore core k).countEnd c.part core

/-- COPY_COMPLETION (R191): the writes are visible and their FE words full, the signal is stored, then COPYDONE and the slot. -/
def execCopyCompletion (core tag : Nat) (s : State) : Out :=
  match (s.core core).copies.find tag with
  | none => .next s
  | some c =>
    if c.state ≠ 2 ∧ c.state ≠ 5 then .next s
    else if c.state = 2 ∧ c.done < c.rows then .next s
    else if c.sig && !c.signalled then
      match s.engSignal c.task c.part c.sigAddr c.sigVal with
      | .error f => .next (s.copyFault core tag c true f (.copyCompletion core tag))
      | .ok none => .next ((s.setCopy core tag c).at_ 16 (.copyCompletion core tag))
      | .ok (some w) => .next ({ c with signalled := true }.finish core tag (w.report (dieOf core) c.part core tag c.task))
    else .next (c.finish core tag s)

/-- The command's signal is what failed: its rows are done, or it has been abandoned before. -/
def CopyCmd.atSignal (c : CopyCmd) : Bool := c.status == 1 || (c.idxs.isSome && decide (c.rows ≤ c.done))
/-- A RESUME reaches a faulted copy command (R194): it retries the failing access, or with ABANDON completes with status 1, its
signal too left out where that is what failed. -/
def State.resumeCopy (s : State) (core tag : Nat) : Option State :=
  match (s.core core).copies.find tag with
  | none => none
  | some c =>
    match c.state, c.fault with
    | 3, some n =>
      let r := s.ringTake c.part n
      if r.1 then
        some (((c.settle core tag r.2).setCopy core tag
          { c with state := 5, status := 1, fault := none, signalled := c.signalled || c.atSignal }).at_ 0 (.copyCompletion core tag))
      else some ((r.2.setCopy core tag { c with state := if c.status = 1 then 5 else 2, fault := none }).at_ 0
        (if c.atSignal then .copyCompletion core tag else .engineRowMove core tag))
    | _, _ => none

end Sys2Proof.Machine
end

