-- ==== Sys2Proof/Machine/VecArith.lean ====
section
/-! DEFINITION. Vector arithmetic, logic, compares, moves, conversion, reductions, permutes and special functions
(R139 to R147). -/

namespace Sys2Proof.Machine

/-! ## Arithmetic (R139, R140) -/

/-- The function of an arithmetic word. -/
inductive VFn | add | sub | mul | mulz | min | max | fma | fmaz
deriving DecidableEq, Repr

/-- One element of an arithmetic word (R139): x, y from the operands, z from the destination. -/
def VFn.el (f : VFn) (ft : Ft) (a b d : Nat) : Nat :=
  if ft.isFloat then
    let x := decodeEl ft a
    let y := decodeEl ft b
    match f with
    | .add => roundNE ft (FV.add x y)
    | .sub => roundNE ft (FV.sub x y)
    | .mul => roundNE ft (FV.mul x y)
    | .mulz => roundNE ft (FV.mulz x y)
    | .min => minEl ft a b
    | .max => maxEl ft a b
    | .fma => roundNE ft (FV.add (FV.mul x y) (decodeEl ft d))
    | .fmaz => roundNE ft (FV.add (FV.mulz x y) (decodeEl ft d))
  else
    let x := toSigned (fBits ft) a
    let y := toSigned (fBits ft) b
    match f with
    | .add => wrapInt ft (x + y)
    | .sub => wrapInt ft (x - y)
    | .mul | .mulz => wrapInt ft (x * y)
    | .min => if y < x then b else a
    | .max => if x < y then b else a
    | .fma | .fmaz => wrapInt ft (x * y + toSigned (fBits ft) d)

/-- An arithmetic word with its second operand given (R139). -/
def arith (f : VFn) (rd ra : Reg) (B : VReg) (pg : Pg) (ft : Ft) (e : Entry) (s : State) : VRes :=
  writeNF e ft ft.code ft.code rd (s.pr pg) (lanes ft.width (fun _ => f.el ft) (s.pr pg) (s.vr ra) B (s.vr rd)) s
/-- Major 0x10. -/
def runArith (f : VFn) (rd ra rb : Reg) (pg : Pg) (ft : Ft) (e : Entry) (s : State) : VRes :=
  arith f rd ra (s.vr rb) pg ft e s
/-- Major 0x11: every element of the second operand is the scalar read at issue. -/
def runArithX (f : VFn) (rd ra : Reg) (pg : Pg) (ft : Ft) (e : Entry) (s : State) : VRes :=
  arith f rd ra (splat ft.width e.b) pg ft e s

/-- VADD (R139). -/
def execVadd (rd ra rb : Reg) (pg : Pg) (ft : Ft) (s : State) : Out :=
  issueV (.vadd rd ra rb pg ft) 0 0 (runArith .add rd ra rb pg ft) s
/-- VSUB (R139). -/
def execVsub (rd ra rb : Reg) (pg : Pg) (ft : Ft) (s : State) : Out :=
  issueV (.vsub rd ra rb pg ft) 0 0 (runArith .sub rd ra rb pg ft) s
/-- VMUL (R139). -/
def execVmul (rd ra rb : Reg) (pg : Pg) (ft : Ft) (s : State) : Out :=
  issueV (.vmul rd ra rb pg ft) 0 0 (runArith .mul rd ra rb pg ft) s
/-- VMULZ (R139, R113). -/
def execVmulz (rd ra rb : Reg) (pg : Pg) (ft : Ft) (s : State) : Out :=
  issueV (.vmulz rd ra rb pg ft) 0 0 (runArith .mulz rd ra rb pg ft) s
/-- VMIN (R139, R140). -/
def execVmin (rd ra rb : Reg) (pg : Pg) (ft : Ft) (s : State) : Out :=
  issueV (.vmin rd ra rb pg ft) 0 0 (runArith .min rd ra rb pg ft) s
/-- VMAX (R139, R140). -/
def execVmax (rd ra rb : Reg) (pg : Pg) (ft : Ft) (s : State) : Out :=
  issueV (.vmax rd ra rb pg ft) 0 0 (runArith .max rd ra rb pg ft) s
/-- VFMA (R139, R114). -/
def execVfma (rd ra rb : Reg) (pg : Pg) (ft : Ft) (s : State) : Out :=
  issueV (.vfma rd ra rb pg ft) 0 0 (runArith .fma rd ra rb pg ft) s
/-- VFMAZ (R139, R113). -/
def execVfmaz (rd ra rb : Reg) (pg : Pg) (ft : Ft) (s : State) : Out :=
  issueV (.vfmaz rd ra rb pg ft) 0 0 (runArith .fmaz rd ra rb pg ft) s
/-- VADD.x (R139). -/
def execVaddX (rd ra rb : Reg) (pg : Pg) (ft : Ft) (s : State) : Out :=
  issueV (.vaddX rd ra rb pg ft) 0 (s.xr rb) (runArithX .add rd ra pg ft) s
/-- VSUB.x (R139). -/
def execVsubX (rd ra rb : Reg) (pg : Pg) (ft : Ft) (s : State) : Out :=
  issueV (.vsubX rd ra rb pg ft) 0 (s.xr rb) (runArithX .sub rd ra pg ft) s
/-- VMUL.x (R139). -/
def execVmulX (rd ra rb : Reg) (pg : Pg) (ft : Ft) (s : State) : Out :=
  issueV (.vmulX rd ra rb pg ft) 0 (s.xr rb) (runArithX .mul rd ra pg ft) s
/-- VMULZ.x (R139, R113). -/
def execVmulzX (rd ra rb : Reg) (pg : Pg) (ft : Ft) (s : State) : Out :=
  issueV (.vmulzX rd ra rb pg ft) 0 (s.xr rb) (runArithX .mulz rd ra pg ft) s
/-- VMIN.x (R139, R140). -/
def execVminX (rd ra rb : Reg) (pg : Pg) (ft : Ft) (s : State) : Out :=
  issueV (.vminX rd ra rb pg ft) 0 (s.xr rb) (runArithX .min rd ra pg ft) s
/-- VMAX.x (R139, R140). -/
def execVmaxX (rd ra rb : Reg) (pg : Pg) (ft : Ft) (s : State) : Out :=
  issueV (.vmaxX rd ra rb pg ft) 0 (s.xr rb) (runArithX .max rd ra pg ft) s
/-- VFMA.x (R139, R114). -/
def execVfmaX (rd ra rb : Reg) (pg : Pg) (ft : Ft) (s : State) : Out :=
  issueV (.vfmaX rd ra rb pg ft) 0 (s.xr rb) (runArithX .fma rd ra pg ft) s
/-- VFMAZ.x (R139, R113). -/
def execVfmazX (rd ra rb : Reg) (pg : Pg) (ft : Ft) (s : State) : Out :=
  issueV (.vfmazX rd ra rb pg ft) 0 (s.xr rb) (runArithX .fmaz rd ra pg ft) s

/-! ## Logic and shifts (R141) -/

/-- Shift count: the low log2 of the width's bits of b. -/
def shCount (ft : Ft) (b : Nat) : Nat := b % fBits ft

/-- A logic word. -/
def runLogic (f : Ft → Nat → Nat → Nat) (rd ra rb : Reg) (pg : Pg) (ft : Ft) (_ : Entry) (s : State) : VRes :=
  .ok (s.vw rd (lanes ft.width (fun _ a b _ => f ft a b) (s.pr pg) (s.vr ra) (s.vr rb) (s.vr rd)))

def elShl (ft : Ft) (a b : Nat) : Nat := (a * 2 ^ shCount ft b) % 2 ^ fBits ft
def elShr (ft : Ft) (a b : Nat) : Nat := a / 2 ^ shCount ft b
def elSar (ft : Ft) (a b : Nat) : Nat := ofSigned (fBits ft) (toSigned (fBits ft) a / (2 ^ shCount ft b : Nat))
def elRotl (ft : Ft) (a b : Nat) : Nat := (a * 2 ^ shCount ft b) % 2 ^ fBits ft + a / 2 ^ (fBits ft - shCount ft b)

/-- VAND (R141). -/
def execVand (rd ra rb : Reg) (pg : Pg) (ft : Ft) (s : State) : Out :=
  issueV (.vand rd ra rb pg ft) 0 0 (runLogic (fun _ a b => a &&& b) rd ra rb pg ft) s
/-- VOR (R141). -/
def execVor (rd ra rb : Reg) (pg : Pg) (ft : Ft) (s : State) : Out :=
  issueV (.vor rd ra rb pg ft) 0 0 (runLogic (fun _ a b => a ||| b) rd ra rb pg ft) s
/-- VXOR (R141). -/
def execVxor (rd ra rb : Reg) (pg : Pg) (ft : Ft) (s : State) : Out :=
  issueV (.vxor rd ra rb pg ft) 0 0 (runLogic (fun _ a b => a ^^^ b) rd ra rb pg ft) s
/-- a & ~b. -/
def elAndn (ft : Ft) (a b : Nat) : Nat := a &&& (2 ^ fBits ft - 1 - b)
/-- VANDN (R141). -/
def execVandn (rd ra rb : Reg) (pg : Pg) (ft : Ft) (s : State) : Out :=
  issueV (.vandn rd ra rb pg ft) 0 0 (runLogic elAndn rd ra rb pg ft) s
/-- VSHL (R141). -/
def execVshl (rd ra rb : Reg) (pg : Pg) (ft : Ft) (s : State) : Out :=
  issueV (.vshl rd ra rb pg ft) 0 0 (runLogic elShl rd ra rb pg ft) s
/-- VSHR (R141). -/
def execVshr (rd ra rb : Reg) (pg : Pg) (ft : Ft) (s : State) : Out :=
  issueV (.vshr rd ra rb pg ft) 0 0 (runLogic elShr rd ra rb pg ft) s
/-- VSAR (R141). -/
def execVsar (rd ra rb : Reg) (pg : Pg) (ft : Ft) (s : State) : Out :=
  issueV (.vsar rd ra rb pg ft) 0 0 (runLogic elSar rd ra rb pg ft) s
/-- VROTL (R141). -/
def execVrotl (rd ra rb : Reg) (pg : Pg) (ft : Ft) (s : State) : Out :=
  issueV (.vrotl rd ra rb pg ft) 0 0 (runLogic elRotl rd ra rb pg ft) s

/-! ## Compares (R142) -/

/-- Test of a compare on decoded values; NaN fails all but inequality. -/
def cmpEq (x y : FV) : Bool := FV.eq x y
def cmpNe (x y : FV) : Bool := !FV.eq x y
def cmpLt (x y : FV) : Bool := FV.lt x y
def cmpLe (x y : FV) : Bool := FV.lt x y || FV.eq x y
def cmpGt (x y : FV) : Bool := FV.lt y x
def cmpGe (x y : FV) : Bool := FV.lt y x || FV.eq x y

/-- A compare of two registers. -/
def runCmp (f : FV → FV → Bool) (rd : Pg) (ra rb : Reg) (pg : Pg) (ft : Ft) (_ : Entry) (s : State) : VRes :=
  .ok (s.pw rd (predOf ft.width (fun a b => f (decodeEl ft a) (decodeEl ft b)) (s.pr pg) (s.vr ra) (s.vr rb)))
/-- A test of one register. -/
def runTest (f : FV → Bool) (rd : Pg) (ra : Reg) (pg : Pg) (ft : Ft) (_ : Entry) (s : State) : VRes :=
  .ok (s.pw rd (predOf ft.width (fun a _ => f (decodeEl ft a)) (s.pr pg) (s.vr ra) 0))

/-- VCEQ (R142). -/
def execVceq (rd : Pg) (ra rb : Reg) (pg : Pg) (ft : Ft) (s : State) : Out :=
  issueV (.vceq rd ra rb pg ft) 0 0 (runCmp cmpEq rd ra rb pg ft) s
/-- VCNE (R142). -/
def execVcne (rd : Pg) (ra rb : Reg) (pg : Pg) (ft : Ft) (s : State) : Out :=
  issueV (.vcne rd ra rb pg ft) 0 0 (runCmp cmpNe rd ra rb pg ft) s
/-- VCLT (R142). -/
def execVclt (rd : Pg) (ra rb : Reg) (pg : Pg) (ft : Ft) (s : State) : Out :=
  issueV (.vclt rd ra rb pg ft) 0 0 (runCmp cmpLt rd ra rb pg ft) s
/-- VCLE (R142). -/
def execVcle (rd : Pg) (ra rb : Reg) (pg : Pg) (ft : Ft) (s : State) : Out :=
  issueV (.vcle rd ra rb pg ft) 0 0 (runCmp cmpLe rd ra rb pg ft) s
/-- VCGT (R142). -/
def execVcgt (rd : Pg) (ra rb : Reg) (pg : Pg) (ft : Ft) (s : State) : Out :=
  issueV (.vcgt rd ra rb pg ft) 0 0 (runCmp cmpGt rd ra rb pg ft) s
/-- VCGE (R142). -/
def execVcge (rd : Pg) (ra rb : Reg) (pg : Pg) (ft : Ft) (s : State) : Out :=
  issueV (.vcge rd ra rb pg ft) 0 0 (runCmp cmpGe rd ra rb pg ft) s
/-- VCNAN (R142). -/
def execVcnan (rd : Pg) (ra : Reg) (pg : Pg) (ft : Ft) (s : State) : Out :=
  issueV (.vcnan rd ra pg ft) 0 0 (runTest FV.isNaN rd ra pg ft) s
/-- VCINF (R142). -/
def execVcinf (rd : Pg) (ra : Reg) (pg : Pg) (ft : Ft) (s : State) : Out :=
  issueV (.vcinf rd ra pg ft) 0 0 (runTest FV.isInf rd ra pg ft) s

/-! ## Moves and predicates (R143) -/

/-- Elements of r where active, else of d. -/
def merge (w : Nat) (p : PReg) (r d : VReg) : VReg := lanes w (fun _ a _ _ => a) p r 0 d

def runVmov (rd ra : Reg) (pg : Pg) (_ : Entry) (s : State) : VRes := .ok (s.vw rd (merge 1 (s.pr pg) (s.vr ra) (s.vr rd)))
def runVsel (rd ra rb : Reg) (pg : Pg) (_ : Entry) (s : State) : VRes :=
  .ok (s.vw rd (merge 1 (s.pr pg) (s.vr ra) (s.vr rb)))
def runVbcast (rd : Reg) (pg : Pg) (ft : Ft) (e : Entry) (s : State) : VRes :=
  .ok (s.vw rd (merge ft.width (s.pr pg) (splat ft.width e.b) (s.vr rd)))
/-- A predicate operation over all 256 bits. -/
def runPred (f : PReg → PReg → PReg) (rd ra rb : Pg) (_ : Entry) (s : State) : VRes := .ok (s.pw rd (f (s.pr ra) (s.pr rb)))

/-- VMOV (R143). -/
def execVmov (rd ra : Reg) (pg : Pg) (s : State) : Out := issueV (.vmov rd ra pg) 0 0 (runVmov rd ra pg) s
/-- VSEL (R143). -/
def execVsel (rd ra rb : Reg) (pg : Pg) (s : State) : Out := issueV (.vsel rd ra rb pg) 0 0 (runVsel rd ra rb pg) s
/-- VBCAST (R143). -/
def execVbcast (rd rb : Reg) (pg : Pg) (ft : Ft) (s : State) : Out :=
  issueV (.vbcast rd rb pg ft) 0 (s.xr rb) (runVbcast rd pg ft) s
/-- PAND (R143). -/
def execPand (rd ra rb : Pg) (s : State) : Out := issueV (.pand rd ra rb) 0 0 (runPred (· &&& ·) rd ra rb) s
/-- POR (R143). -/
def execPor (rd ra rb : Pg) (s : State) : Out := issueV (.por rd ra rb) 0 0 (runPred (· ||| ·) rd ra rb) s
/-- PXOR (R143). -/
def execPxor (rd ra rb : Pg) (s : State) : Out := issueV (.pxor rd ra rb) 0 0 (runPred (· ^^^ ·) rd ra rb) s
/-- PNOT (R143). -/
def execPnot (rd ra : Pg) (s : State) : Out := issueV (.pnot rd ra) 0 0 (runPred (fun a _ => ~~~ a) rd ra ra) s

/-! ## Conversion (R144) -/

/-- The elements of a conversion: active ones converted, the others the destination's. -/
def cvtGo (src dst : Ft) (rtz : Bool) : Nat → Nat → Nat → Nat → List Nat
  | 0, _, _, _ => []
  | n + 1, p, a, d =>
    let ms := 256 ^ src.width
    let md := 256 ^ dst.width
    (if p % 2 = 1 then convertEl src dst rtz (a % ms) else d % md) :: cvtGo src dst rtz n (p / 2 ^ dst.width) (a / ms) (d / md)

/-- The result of VCVT: elements past the narrower count are zero. -/
def cvt (src dst : Ft) (rtz : Bool) (p : PReg) (a d : VReg) : VReg :=
  BitVec.ofNat 2048 (packElems dst.width (cvtGo src dst rtz (256 / Nat.max src.width dst.width) p.toNat a.toNat d.toNat))

def runVcvt (rd ra : Reg) (rtz : Bool) (fd : Ft) (pg : Pg) (ft : Ft) (e : Entry) (s : State) : VRes :=
  writeNF e fd ft.code fd.code rd (s.pr pg) (cvt ft fd rtz (s.pr pg) (s.vr ra) (s.vr rd)) s
/-- VCVT (R144). -/
def execVcvt (rd ra : Reg) (rtz : Bool) (fd : Ft) (pg : Pg) (ft : Ft) (s : State) : Out :=
  issueV (.vcvt rd ra rtz fd pg ft) 0 0 (runVcvt rd ra rtz fd pg ft) s

/-! ## Reductions (R145) -/

/-- One level of a reduction tree. -/
def pairUp {α : Type} (op : α → α → α) : List α → List α
  | a :: b :: r => op a b :: pairUp op r
  | l => l
/-- Reduce a list whose length is a power of two, by `fuel` levels. -/
def treeGo {α : Type} (op : α → α → α) : Nat → List α → List α
  | 0, l => l
  | n + 1, l => treeGo op n (pairUp op l)
def tree {α : Type} (op : α → α → α) (z : α) (l : List α) : α := (treeGo op 8 l).headD z

/-- The five reductions. -/
inductive Red | sum | max | min | amax | ssq
deriving DecidableEq, Repr

/-- Identity for an inactive element, floating formats. -/
def Red.idF : Red → FV
  | .max => .inf true
  | .min => .inf false
  | _ => .fin false 0 0
/-- Identity for an inactive element, integer formats. -/
def Red.idI (ft : Ft) : Red → Int
  | .max => -(maxEnc ft : Int) - 1
  | .min => maxEnc ft
  | _ => 0
/-- What an active element contributes. -/
def Red.inF : Red → FV → FV
  | .ssq, x => rnd32 (FV.mul x x)
  | .amax, x => x.abs
  | _, x => x
def Red.inI : Red → Int → Int
  | .ssq, x => x * x
  | .amax, x => x.natAbs
  | _, x => x
def Red.opF : Red → FV → FV → FV
  | .sum, a, b | .ssq, a, b => rnd32 (FV.add a b)
  | .min, a, b => FV.min a b
  | _, a, b => FV.max a b
def Red.opI : Red → Int → Int → Int
  | .sum, a, b | .ssq, a, b => a + b
  | .min, a, b => if b < a then b else a
  | _, a, b => if a < b then b else a

/-- A reduction over floating elements, as a value of fp32. -/
def Red.float (f : Red) (ft : Ft) (p : PReg) (a : VReg) : FV :=
  tree f.opF f.idF (((elems ft.width a).zip (actives ft.width p)).map fun q => if q.2 then f.inF (decodeEl ft q.1) else f.idF)
/-- A reduction over integer elements; sums of squares saturate. -/
def Red.int (f : Red) (ft : Ft) (p : PReg) (a : VReg) : Int :=
  let v := tree f.opI 0 (((elems ft.width a).zip (actives ft.width p)).map fun q =>
    if q.2 then f.inI (toSigned (fBits ft) q.1) else f.idI ft)
  if f = .ssq ∧ v > 2 ^ 63 - 1 then 2 ^ 63 - 1 else v

/-- A reduction (R145, R118). -/
def runRed (f : Red) (rd ra : Reg) (pg : Pg) (ft : Ft) (e : Entry) (s : State) : VRes :=
  if ft.isFloat then
    let v := f.float ft (s.pr pg) (s.vr ra)
    scalarNF e ft.code v s (s.xw rd (BitVec.ofNat 64 (roundNE .fp32 v)))
  else .ok (s.xw rd (BitVec.ofInt 64 (f.int ft (s.pr pg) (s.vr ra))))

/-- VRSUM (R145). -/
def execVrsum (rd ra : Reg) (pg : Pg) (ft : Ft) (s : State) : Out := issueV (.vrsum rd ra pg ft) 0 0 (runRed .sum rd ra pg ft) s
/-- VRMAX (R145). -/
def execVrmax (rd ra : Reg) (pg : Pg) (ft : Ft) (s : State) : Out := issueV (.vrmax rd ra pg ft) 0 0 (runRed .max rd ra pg ft) s
/-- VRMIN (R145). -/
def execVrmin (rd ra : Reg) (pg : Pg) (ft : Ft) (s : State) : Out := issueV (.vrmin rd ra pg ft) 0 0 (runRed .min rd ra pg ft) s
/-- VRAMAX (R145). -/
def execVramax (rd ra : Reg) (pg : Pg) (ft : Ft) (s : State) : Out := issueV (.vramax rd ra pg ft) 0 0 (runRed .amax rd ra pg ft) s
/-- VRSSQ (R145). -/
def execVrssq (rd ra : Reg) (pg : Pg) (ft : Ft) (s : State) : Out := issueV (.vrssq rd ra pg ft) 0 0 (runRed .ssq rd ra pg ft) s

/-! ## Permutes (R146) -/

/-- A register permuted: element e of the result is g e. -/
def permute (ft : Ft) (rd : Reg) (pg : Pg) (g : Nat → Nat) (s : State) : VRes :=
  .ok (s.vw rd (merge ft.width (s.pr pg) (BitVec.ofNat 2048 (packElems ft.width ((List.range (nElems ft)).map g))) (s.vr rd)))

def runVshuf (rd ra rb : Reg) (pg : Pg) (ft : Ft) (_ : Entry) (s : State) : VRes :=
  permute ft rd pg (fun e => elemAt ft.width (s.vr ra) (elemAt ft.width (s.vr rb) e % nElems ft)) s
def runVrotr (rd ra : Reg) (pg : Pg) (ft : Ft) (e : Entry) (s : State) : VRes :=
  permute ft rd pg (fun j => elemAt ft.width (s.vr ra) ((j + e.b.toNat) % nElems ft)) s
def runVslup (rd ra : Reg) (pg : Pg) (ft : Ft) (e : Entry) (s : State) : VRes :=
  permute ft rd pg (fun j => if e.b.toNat ≤ j then elemAt ft.width (s.vr ra) (j - e.b.toNat) else 0) s
def runVsldn (rd ra : Reg) (pg : Pg) (ft : Ft) (e : Entry) (s : State) : VRes :=
  permute ft rd pg (fun j => if j + e.b.toNat < nElems ft then elemAt ft.width (s.vr ra) (j + e.b.toNat) else 0) s
def runVzip (rd ra rb : Reg) (pg : Pg) (ft : Ft) (_ : Entry) (s : State) : VRes :=
  permute ft rd pg (fun j => elemAt ft.width (if j % 2 = 0 then s.vr ra else s.vr rb) (j / 2)) s
def runVunzip (rd ra rb : Reg) (pg : Pg) (ft : Ft) (_ : Entry) (s : State) : VRes :=
  permute ft rd pg (fun j => let h := nElems ft / 2
    if j < h then elemAt ft.width (s.vr ra) (2 * j) else elemAt ft.width (s.vr rb) (2 * (j - h))) s

/-- VSHUF (R146). -/
def execVshuf (rd ra rb : Reg) (pg : Pg) (ft : Ft) (s : State) : Out :=
  issueV (.vshuf rd ra rb pg ft) 0 0 (runVshuf rd ra rb pg ft) s
/-- VROTR (R146). -/
def execVrotr (rd ra rb : Reg) (pg : Pg) (ft : Ft) (s : State) : Out :=
  issueV (.vrotr rd ra rb pg ft) 0 (s.xr rb) (runVrotr rd ra pg ft) s
/-- VSLUP (R146). -/
def execVslup (rd ra rb : Reg) (pg : Pg) (ft : Ft) (s : State) : Out :=
  issueV (.vslup rd ra rb pg ft) 0 (s.xr rb) (runVslup rd ra pg ft) s
/-- VSLDN (R146). -/
def execVsldn (rd ra rb : Reg) (pg : Pg) (ft : Ft) (s : State) : Out :=
  issueV (.vsldn rd ra rb pg ft) 0 (s.xr rb) (runVsldn rd ra pg ft) s
/-- VZIP (R146). -/
def execVzip (rd ra rb : Reg) (pg : Pg) (ft : Ft) (s : State) : Out :=
  issueV (.vzip rd ra rb pg ft) 0 0 (runVzip rd ra rb pg ft) s
/-- VUNZIP (R146). -/
def execVunzip (rd ra rb : Reg) (pg : Pg) (ft : Ft) (s : State) : Out :=
  issueV (.vunzip rd ra rb pg ft) 0 0 (runVunzip rd ra rb pg ft) s

/-! ## Special functions (R147, R122) -/

/-- A special function over the active elements. -/
def runSF (f : SF) (rd ra : Reg) (pg : Pg) (ft : Ft) (e : Entry) (s : State) : VRes :=
  writeNF e ft ft.code ft.code rd (s.pr pg)
    (lanes ft.width (fun _ a _ _ => f.eval ft e.exact e.apx a (decodeEl ft a)) (s.pr pg) (s.vr ra) 0 (s.vr rd)) s

/-- VEXP2 (R147). -/
def execVexp2 (rd ra : Reg) (pg : Pg) (ft : Ft) (s : State) : Out := issueV (.vexp2 rd ra pg ft) 0 0 (runSF .exp2 rd ra pg ft) s
/-- VLOG2 (R147). -/
def execVlog2 (rd ra : Reg) (pg : Pg) (ft : Ft) (s : State) : Out := issueV (.vlog2 rd ra pg ft) 0 0 (runSF .log2 rd ra pg ft) s
/-- VRCP (R147). -/
def execVrcp (rd ra : Reg) (pg : Pg) (ft : Ft) (s : State) : Out := issueV (.vrcp rd ra pg ft) 0 0 (runSF .rcp rd ra pg ft) s
/-- VRSQ (R147). -/
def execVrsq (rd ra : Reg) (pg : Pg) (ft : Ft) (s : State) : Out := issueV (.vrsq rd ra pg ft) 0 0 (runSF .rsq rd ra pg ft) s
/-- VEXP (R147). -/
def execVexp (rd ra : Reg) (pg : Pg) (ft : Ft) (s : State) : Out := issueV (.vexp rd ra pg ft) 0 0 (runSF .exp rd ra pg ft) s
/-- VTANH (R147). -/
def execVtanh (rd ra : Reg) (pg : Pg) (ft : Ft) (s : State) : Out := issueV (.vtanh rd ra pg ft) 0 0 (runSF .tanh rd ra pg ft) s
/-- VSILU (R147). -/
def execVsilu (rd ra : Reg) (pg : Pg) (ft : Ft) (s : State) : Out := issueV (.vsilu rd ra pg ft) 0 0 (runSF .silu rd ra pg ft) s

end Sys2Proof.Machine
end

