-- ==== Sys2Proof/Machine/VecStat.lean ====
section
/-! DEFINITION. Lane access, relative registers, neighbour reads, sequencer control and the statistics buffer
(R133 to R135, R148 to R155). -/

namespace Sys2Proof.Machine

/-! ## Lane access (R148) -/

/-- Element number of a lane word. -/
def laneOf (ft : Ft) (e : Entry) : Nat := e.b.toNat % nElems ft

def runVext (rd ra : Reg) (ft : Ft) (e : Entry) (s : State) : VRes :=
  let v := elemAt ft.width (s.vr ra) (laneOf ft e)
  .ok (s.xw rd (if ft.isFloat then BitVec.ofNat 64 v else BitVec.ofInt 64 (toSigned (fBits ft) v)))
/-- VEXT (R148). -/
def execVext (rd ra rb : Reg) (ft : Ft) (s : State) : Out :=
  issueV (.vext rd ra rb ft) 0 (s.xr rb) (runVext rd ra ft) s

def runVins (rd : Reg) (ft : Ft) (e : Entry) (s : State) : VRes :=
  let k := ft.width * laneOf ft e
  .ok (s.vw rd (vSetBytes (s.vr rd) ((leBytes ft.width e.a.toNat).zipIdx.map fun q => (k + q.2, q.1))))
/-- VINS (R148). -/
def execVins (rd ra rb : Reg) (ft : Ft) (s : State) : Out :=
  issueV (.vins rd ra rb ft) (s.xr ra) (s.xr rb) (runVins rd ft) s

/-- The number of active elements below each element. -/
def iota : Nat → List Bool → List Nat
  | _, [] => []
  | n, b :: r => n :: iota (if b then n + 1 else n) r
def runViota (rd : Reg) (pg : Pg) (ft : Ft) (_ : Entry) (s : State) : VRes :=
  .ok (s.vw rd (merge ft.width (s.pr pg) (BitVec.ofNat 2048 (packElems ft.width (iota 0 (actives ft.width (s.pr pg))))) (s.vr rd)))
/-- VIOTA (R148). -/
def execViota (rd : Reg) (pg : Pg) (ft : Ft) (s : State) : Out := issueV (.viota rd pg ft) 0 0 (runViota rd pg ft) s

/-! ## Relative register access (R149) -/

/-- The register that the index names, if it lies in the window. -/
def windowReg (base : Reg) (len : Nat) (i : W64) : Option Reg :=
  if i.toNat < len then some (Fin.ofNat 32 (base.val + i.toNat)) else none

def runVrrd (rd ra : Reg) (pg : Pg) (len : Fin 8) (e : Entry) (s : State) : VRes :=
  match windowReg ra (len.val + 1) e.b with
  | some r => .ok (s.vw rd (merge 1 (s.pr pg) (s.vr r) (s.vr rd)))
  | none => .trap .window e.b none
/-- VRRD (R149). -/
def execVrrd (rd ra rb : Reg) (pg : Pg) (len : Fin 8) (s : State) : Out :=
  issueV (.vrrd rd ra rb pg len) 0 (s.xr rb) (runVrrd rd ra pg len) s

def runVrwr (rd ra : Reg) (pg : Pg) (len : Fin 8) (e : Entry) (s : State) : VRes :=
  match windowReg rd (len.val + 1) e.b with
  | some r => .ok (s.vw r (merge 1 (s.pr pg) (s.vr ra) (s.vr r)))
  | none => .trap .window e.b none
/-- VRWR (R149). -/
def execVrwr (rd ra rb : Reg) (pg : Pg) (len : Fin 8) (s : State) : Out :=
  issueV (.vrwr rd ra rb pg len) 0 (s.xr rb) (runVrwr rd ra pg len) s

/-! ## Neighbour reads (R150) -/

/-- The neighbouring core in a direction; none where it leaves the grid, and on an optimiser core (R304). -/
def neighbour (core : Nat) (k : Dir) : Option Nat :=
  if isOpt core then none
  else
    let col := core % 4
    let row := core % 8 / 4
    match k with
    | .west => if col = 0 then none else some (core - 1)
    | .east => if col = 3 then none else some (core + 1)
    | .north => if row = 0 then none else some (core - 4)
    | .south => if row = 1 then none else some (core + 4)

/-- The neighbour read that a task's sequencer is waiting in. -/
def Task.vnrdNow (t : Task) : Option (Reg × Reg × Pg × Pg × Dir) :=
  match t.seq.wait, t.seq.head.bind (·.word?) with
  | some w, some (e, _) => match e.i with
    | .vnrd rd ra pd pg k => if w.got.isNone then some (rd, ra, pd, pg, k) else none
    | _ => none
  | _, _ => none

/-- The task on a core that waits in the opposite direction. -/
def State.vnrdPartner (s : State) (core : Nat) (k : Dir) : Option Task :=
  s.allTasks.find? fun t => t.core == core && (match t.vnrdNow with | some q => q.2.2.2.2 == k.opp | none => false)

/-- VNRD at execution: off the grid it ends at once with pd clear; otherwise it begins to wait, for the NTMO of this moment (log
54), and a partner that waits already matches in this cycle. -/
def runVnrd (rd ra : Reg) (pd pg : Pg) (k : Dir) (_ : Entry) (s : State) : VRes :=
  match neighbour s.t.core k with
  | none => .ok (s.pw pd 0)
  | some c =>
    match s.t.seq.wait with
    | some w => match w.got with
      | some v => .ok ((s.vw rd v).pw pd (BitVec.allOnes 256))
      | none => .wait s
    | none =>
      let s := { s with t := { s.t with seq := { s.t.seq with wait := some { since := s.tclock, last := s.tclock + s.t.ntmo.toNat } } } }
      match s.vnrdPartner c k with
      | some u => .wait (s.at_ 0 (.vnrdMatch s.t.tid u.tid))
      | none => .wait (s.after (dieClk s.t.core) (s.t.ntmo.toNat + 1) (.vnrdTimeout s.t.tid))
/-- VNRD (R150). -/
def execVnrd (rd ra : Reg) (pd pg : Pg) (k : Dir) (s : State) : Out :=
  issueV (.vnrd rd ra pd pg k) 0 0 (runVnrd rd ra pd pg k) s

/-- A register as the waiting word reads it (R32). -/
def Task.vnrdView (t : Task) : Task :=
  match t.seq.head with
  | some u => if u.c.isNone then u.snap.over t else t
  | none => t

/-- A neighbour read ends in issue cycle c: the vector unit is held for 2 cycles from there (R136). -/
def Task.vnrdDone (t u : Task) (c : Nat) : Task :=
  let u := Task.wordDone t u
  match t.seq.head.bind (·.word?) with
  | some (e, _) => { u with seq := u.seq.after c e.i }
  | none => u

/-- One side of a match in issue cycle c: the partner's register in the active bytes, pd all ones. Where vd is bound as an out-stream the
word completes in its sequencer, which stores the block (R186). -/
def Task.vnrdTake (t : Task) (q : Reg × Reg × Pg × Pg × Dir) (v : VReg) (c : Nat) : Task :=
  let r := t.vnrdView
  let d := merge 1 (r.pr q.2.2.2.1) v (r.vr q.1)
  match t.streams.find q.1.val, t.seq.wait with
  | some _, some w => { t with seq := { t.seq with wait := some { w with got := some d } } }
  | _, _ => t.vnrdDone ((t.vw q.1 d).pw q.2.2.1 (BitVec.allOnes 256)) c

/-- VNRD_MATCH (R150): one event at both cores. Nothing where one of the two no longer waits. -/
def execVnrdMatch (a b : Nat) (s : State) : Out :=
  match s.task a, s.task b with
  | some t, some u =>
    match t.vnrdNow, u.vnrdNow with
    | some q, some r =>
      if neighbour t.core q.2.2.2.2 = some u.core ∧ r.2.2.2.2 = q.2.2.2.2.opp then
        .next ((s.setTask (t.vnrdTake q (u.vnrdView.vr r.2.1) (s.issued t.core))).setTask
          (u.vnrdTake r (t.vnrdView.vr q.2.1) (s.issued u.core)))
      else .next s
    | _, _ => .next s
  | _, _ => .next s

/-- VNRD_TIMEOUT (R150): the wait ends with no match; vd keeps its value and pd becomes zero. -/
def execVnrdTimeout (tid : Nat) (s : State) : Out :=
  match s.task tid with
  | none => .next s
  | some t =>
    match t.vnrdNow, t.seq.wait with
    | some q, some w =>
      if w.last < s.clock (dieOf t.core) then .next (s.setTask (t.vnrdDone (t.pw q.2.2.1 0) (s.issued t.core))) else .next s
    | _, _ => .next s

/-! ## Sequencer control (R133 to R135) -/

/-- VLOOP (R133, R134): opens a capture once `len` entries are free; ILLEGAL in a capture, a pair or a delay slot. -/
def execVloop (ra len : Reg) (s : State) : Out :=
  gate (.vloop ra len) s fun s =>
    if len.val = 0 ∨ 16 < len.val ∨ s.t.inA ∨ s.t.slot.isSome then raise .illegal s.tword s
    else if seqSize < s.t.seq.occ + len.val then stallSeq s
    else
      let c : Capture := ⟨bitsOf (s.xr ra).toNat 0 32, len.val, [], s.t.pc⟩
      fin { s with t := { s.t with seq := { s.t.seq with cap := some c } } }

/-- VSYNC (R135). -/
def execVsync (s : State) : Out := gate .vsync s fun s => drained s fin

/-- PASSES: passes of the running loop not yet finished, the current one included. -/
def Seq.passes (q : Seq) : Nat :=
  match q.items with
  | .loop n p _ _ _ :: _ => n - p
  | _ => 0
/-- A loop's passes are running. -/
def Seq.looping (q : Seq) : Bool :=
  match q.items with
  | .loop .. :: _ => true
  | _ => false
/-- VSEQST (R135). -/
def execVseqst (rd : Reg) (s : State) : Out :=
  gate (.vseqst rd) s fun s =>
    let q := s.rd.seq
    finX rd (BitVec.ofNat 64 (q.passes * 2 ^ 32 + bitIf q.looping 6 + q.occ)) s

/-! ## The statistics buffer (R151 to R155) -/

def State.stat (s : State) (k : Nat) : StatEntry := (s.core s.t.core).stats.getD k {}
def State.setStat (s : State) (k : Nat) (e : StatEntry) : State :=
  s.setCore s.t.core { s.core s.t.core with stats := (s.core s.t.core).stats.put k e }

/-- An entry as its 32-byte record (R151). -/
def StatEntry.pack (e : StatEntry) : Nat :=
  e.mean.toNat + e.rstd.toNat * 2 ^ 32 + e.lse.toNat * 2 ^ 64 + e.rsum.toNat * 2 ^ 96 + e.eref.toNat * 2 ^ 128
    + e.shift.toNat * 2 ^ 144 + e.count.toNat * 2 ^ 160
    + (bitIf e.open_ 0 + bitIf e.ms 1 + bitIf e.ev 2 + bitIf e.lv 3) * 2 ^ 192
/-- An entry from a record; reserved bits are dropped. -/
def StatEntry.unpack (n : Nat) : StatEntry :=
  { mean := BitVec.ofNat 32 n, rstd := BitVec.ofNat 32 (n / 2 ^ 32), lse := BitVec.ofNat 32 (n / 2 ^ 64),
    rsum := BitVec.ofNat 32 (n / 2 ^ 96), eref := BitVec.ofNat 16 (n / 2 ^ 128), shift := BitVec.ofNat 16 (n / 2 ^ 144),
    count := BitVec.ofNat 32 (n / 2 ^ 160), open_ := bitsOf n 192 1 == 1, ms := bitsOf n 193 1 == 1,
    ev := bitsOf n 194 1 == 1, lv := bitsOf n 195 1 == 1 }

/-- A word of fp32 as a value, and back. -/
def f32 (w : W32) : FV := decodeEl .fp32 w.toNat
def toF32 (v : FV) : W32 := BitVec.ofNat 32 (roundNE .fp32 v)

/-- A value over a positive count, rounded to fp32. -/
def divCount (v : FV) (n : Nat) : FV :=
  match v with
  | .fin neg m e => decodeEl .fp32 (if e ≥ 0 then roundQ .fp32 false neg (m * 2 ^ e.toNat) n else roundQ .fp32 false neg m (n * 2 ^ (-e).toNat))
  | x => x

/-- Σ over active elements by the tree of R145. -/
def treeSum (l : List FV) : FV := tree (fun a b => rnd32 (FV.add a b)) (.fin false 0 0) l

/-- Active elements as values, inactive +0. -/
def activeVals (ft : Ft) (p : PReg) (a : VReg) : List FV :=
  ((elems ft.width a).zip (actives ft.width p)).map fun q => if q.2 then decodeEl ft q.1 else .fin false 0 0

/-- The statistics gathered from a register (R152, before F). -/
def StatEntry.gather (e : StatEntry) (ft : Ft) (p : PReg) (a : VReg) : StatEntry :=
  let e := if e.open_ then e else { e with mean := 0, rstd := 0, count := 0, open_ := true, ms := false }
  let xs := activeVals ft p a
  let n := e.count.toNat + ((actives ft.width p).filter id).length
  { e with
    mean := toF32 (FV.add (f32 e.mean) (treeSum xs))
    rstd := toF32 (FV.add (f32 e.rstd) (treeSum (xs.map fun x => rnd32 (FV.mul x x))))
    count := BitVec.ofNat 32 (Nat.min n (2 ^ 32 - 1)) }

/-- The finished statistics (R152, F = 1). -/
def StatEntry.finish (e : StatEntry) (eps : W32) (exact apx : Bool) : StatEntry :=
  let n := e.count.toNat
  let z : FV := .fin false 0 0
  let m := if n = 0 then z else divCount (f32 e.mean) n
  let v := if n = 0 then z else rnd32 (FV.sub (divCount (f32 e.rstd) n) (FV.mul m m))
  let v := if FV.lt v z then z else v
  let x := rnd32 (FV.add v (f32 eps))
  { e with mean := toF32 m, rstd := BitVec.ofNat 32 (SF.rsq.eval .fp32 exact apx (roundNE .fp32 x) x), open_ := false, ms := true }

/-- VSTATS at execution (R152). -/
def runVstats (fin_ : Bool) (ra : Reg) (pg : Pg) (ft : Ft) (w : Entry) (s : State) : VRes :=
  let k := bitsOf w.b.toNat 0 8
  let e := (s.stat k).gather ft (s.pr pg) (s.vr ra)
  if fin_ then
    let e := e.finish (BitVec.ofNat 32 (w.b.toNat / 2 ^ 32)) w.exact w.apx
    let v := if (f32 e.mean).nonFinite then f32 e.mean else f32 e.rstd
    scalarNF w ft.code v s (s.setStat k e)
  else .ok (s.setStat k e)
/-- VSTATS (R152). -/
def execVstats (fin_ : Bool) (ra rb : Reg) (pg : Pg) (ft : Ft) (s : State) : Out :=
  issueV (.vstats fin_ ra rb pg ft) 0 (s.xr rb) (runVstats fin_ ra pg ft) s

/-- Ceil of a value, saturated to int16. -/
def ceil16 (v : FV) : W16 :=
  match v with
  | .fin neg m e =>
    let c : Int := if e ≥ 0 then FV.sig neg m * (2 ^ e.toNat : Nat) else -((-FV.sig neg m) / (2 ^ (-e).toNat : Nat))
    BitVec.ofInt 16 (if c > 32767 then 32767 else if c < -32768 then -32768 else c)
  | .inf neg => if neg then 0x8000 else 0x7FFF
  | .nan => 0
/-- Saturate to int16. -/
def sat16 (i : Int) : W16 := BitVec.ofInt 16 (if i > 32767 then 32767 else if i < -32768 then -32768 else i)

/-- Max of the active non-NaN scores, −∞ if none (R153). -/
def scoreMax (p : PReg) (a : VReg) : FV :=
  ((elems 4 a).zip (actives 4 p)).foldl (fun m q =>
    let v := decodeEl .fp32 q.1
    if q.2 && !v.isNaN then FV.max m v else m) (.inf true)

/-- The row's reference and running sum before a block (R153). -/
def StatEntry.rescale (e : StatEntry) (m : FV) : StatEntry :=
  if !e.ev then
    let e := { e with rsum := 0, shift := 0 }
    if m == .inf true then e else { e with eref := ceil16 m, ev := true }
  else if FV.lt (FV.ofInt (e.eref.toInt + 8)) m then
    let new := ceil16 m
    let k := e.eref.toInt - new.toInt
    { e with rsum := toF32 (FV.mul (f32 e.rsum) (.fin false 1 k)), shift := sat16 (e.shift.toInt + k), eref := new }
  else e

/-- The input by which a probability's free value is named: the score's encoding and the reference. -/
def smxInput (y eref : Nat) : Nat := 2 ^ 64 + y * 65536 + eref
/-- Probability of a score (R153): +0 while EV is 0, for a NaN score too, as the pseudocode has it and not the sentence on NaN scores
(DESIGN CHOICE, log 71). -/
def StatEntry.prob (e : StatEntry) (ft : Ft) (w : Entry) (y : Nat) : Nat :=
  if !e.ev then 0
  else SF.exp2.eval ft w.exact w.apx (smxInput y e.eref.toNat) (FV.sub (decodeEl .fp32 y) (FV.ofInt e.eref.toInt))

/-- VSMX at execution (R153). -/
def runVsmx (rd ra : Reg) (pg : Pg) (ft : Ft) (w : Entry) (s : State) : VRes :=
  let k := bitsOf w.b.toNat 0 8
  let e := (s.stat k).rescale (scoreMax (s.pr pg) (s.vr ra))
  let act := actives 4 (s.pr pg)
  let rs := ((elems 4 (s.vr ra)).zip act).map fun q => if q.2 then e.prob ft w q.1 else 0
  let sum := treeSum (rs.map (decodeEl ft))
  let e := { e with rsum := toF32 (FV.add (f32 e.rsum) sum) }
  let out := ((elems ft.width (s.vr rd)).zip (rs.zip act)).map fun q => if q.2.2 then q.2.1 else q.1
  let done := .ok ((s.vw rd (BitVec.ofNat 2048 (packElems ft.width out))).setStat k e)
  if w.nft then
    match firstNF ft 0 rs act with
    | some (j, v) => nfTrap w Ft.fp32.code ft.code v (ft.width * j) s
    | none => done
  else done
/-- VSMX (R153). -/
def execVsmx (rd ra rb : Reg) (pg : Pg) (ft : Ft) (s : State) : Out :=
  issueV (.vsmx rd ra rb pg ft) 0 (s.xr rb) (runVsmx rd ra pg ft) s

/-- An empty row (R154). -/
def StatEntry.empty (e : StatEntry) : Bool := !e.ev || e.rsum == 0
/-- Log-sum-exp of an entry (R154). -/
def StatEntry.lseOf (e : StatEntry) (exact apx : Bool) : W32 :=
  if e.empty then toF32 (.inf true)
  else toF32 (FV.add (FV.ofInt e.eref.toInt) (decodeEl .fp32 (SF.log2.eval .fp32 exact apx e.rsum.toNat (f32 e.rsum))))
/-- VLSE at execution (R154). -/
def runVlse (rd : Reg) (w : Entry) (s : State) : VRes :=
  let k := bitsOf w.b.toNat 0 8
  let e := s.stat k
  let l := e.lseOf w.exact w.apx
  let done : State := (s.setStat k { e with lse := l, lv := true }).xw rd (l.setWidth 64)
  if e.empty then .ok done else scalarNF w Ft.fp32.code (f32 l) s done
/-- VLSE (R154). -/
def execVlse (rd rb : Reg) (s : State) : Out := issueV (.vlse rd rb) 0 (s.xr rb) (runVlse rd) s

/-- The eight records from slot k. -/
def State.statRecords (s : State) (k : Nat) : Nat := packElems 32 ((List.range 8).map fun j => (s.stat ((k + j) % 256)).pack)
def runSbget (rd : Reg) (pg : Pg) (w : Entry) (s : State) : VRes :=
  .ok (s.vw rd (merge 1 (s.pr pg) (BitVec.ofNat 2048 (s.statRecords (bitsOf w.b.toNat 0 8))) (s.vr rd)))
/-- SBGET (R155). -/
def execSbget (rd rb : Reg) (pg : Pg) (s : State) : Out := issueV (.sbget rd rb pg) 0 (s.xr rb) (runSbget rd pg) s

/-- Write the active records of a list from slot k on. -/
def putRecords (k : Nat) : List (Nat × Bool) → Nat → State → State
  | [], _, s => s
  | (n, b) :: r, j, s => putRecords k r (j + 1) (if b then s.setStat ((k + j) % 256) (.unpack n) else s)
def runSbset (ra : Reg) (pg : Pg) (w : Entry) (s : State) : VRes :=
  .ok (putRecords (bitsOf w.b.toNat 0 8) ((elems 32 (s.vr ra)).zip (actives 32 (s.pr pg))) 0 s)
/-- SBSET (R155). -/
def execSbset (ra rb : Reg) (pg : Pg) (s : State) : Out := issueV (.sbset ra rb pg) 0 (s.xr rb) (runSbset ra pg) s

end Sys2Proof.Machine
end

