-- ==== Sys2Proof/Machine/MatrixSum.lean ====
section
/-! DEFINITION. The arithmetic of the matrix unit (R110, R113, R115 to R117, R121, R233, R236): operands, block sums,
accumulator words. -/

namespace Sys2Proof.Machine

/-- Element format behind a matrix format code other than CB4 (R229). -/
def mft (c : Nat) : Ft := if c = 1 then .bf16 else if c = 2 then .fp16 else if c = 3 then .e4m3 else if c = 4 then .e5m2 else .int8
/-- Bits of an element of a matrix format code. -/
def mbits (c : Nat) : Nat := if c = 8 then 4 else if c = 1 ∨ c = 2 then 16 else 8
/-- A matrix format code of R229. -/
def mfmtOk (c : Nat) : Bool := c == 1 || c == 2 || c == 3 || c == 4 || c == 7 || c == 8
/-- The code that stands for a CB4 element of an absent row or block (R293). -/
def cbAbsent : Nat := 16
/-- Value of an element. -/
def mEl (c : Nat) (cb : List W16) (code : Nat) : FV :=
  if c = 8 then (if code = cbAbsent then .fin false 0 0 else cbVal cb code) else decodeEl (mft c) code

/-- The scale 1.0. -/
def scaleOne : Nat := 0x7F000

/-- One operand row or column along K: elements as R110 and R117 give them, a scale word for each block of 32, and
the number of elements replaced under NANZ. -/
structure MVec where
  els : List FV
  scales : List Nat
  count : Nat
deriving DecidableEq, Repr

/-- One element in its block (R110, R117): the value, and whether NANZ has replaced it. -/
def mElem (nanz : Bool) (v : FV) (scale : Nat) : FV × Bool :=
  let w := match decodeScale scale with
    | .zero _ => FV.fin false 0 0
    | .nan => .nan
    | .value _ _ => v
  if nanz && w.isNaN then (.fin false 0 0, true) else (w, false)

/-- Build a row or column from its element codes and scale words. -/
def MVec.of (nanz : Bool) (fmt : Nat) (cb : List W16) (codes scales : List Nat) : MVec :=
  let l := codes.zipIdx.map fun q => mElem nanz (mEl fmt cb q.1) (scales.getD (q.2 / 32) scaleOne)
  ⟨l.map (·.1), scales, (l.filter (·.2)).length⟩

/-- Block b of a row or column. -/
def MVec.block (v : MVec) (b : Nat) : List FV := (v.els.drop (32 * b)).take 32

/-- Two magnitudes: the larger. -/
def maxMag (a b : FV) : FV := if FV.lt a b then b else a
/-- Products that APX leaves out (R121): below 2^-20 of the largest. -/
def dropSmall (p : List FV) : List FV :=
  let m := p.foldl (fun a x => maxMag a x.abs) (.fin false 0 0)
  p.filter fun x => !FV.lt x.abs (FV.mul m (.fin false 1 (-20)))

/-- The term of one block (R115). -/
def blockTerm (zmul apx : Bool) (a b : List FV) (sa sb : Nat) : FV :=
  let p := (a.zip b).map fun q => if zmul then FV.mulz q.1 q.2 else FV.mul q.1 q.2
  if p.any FV.isNaN || (p.contains (.inf false) && p.contains (.inf true)) then .nan
  else if p.contains (.inf false) then .inf false
  else if p.contains (.inf true) then .inf true
  else
    let s := (if apx then dropSmall p else p).foldl FV.add (.fin false 0 0)
    if s.isZero then .fin false 0 0
    else match decodeScale sa, decodeScale sb with
      | .value ma ea, .value mb eb => rnd32 (FV.mul s (.fin false (ma * mb) (ea + eb)))
      | _, _ => .fin false 0 0

/-- An fp32 accumulator word after the blocks b, b+1, …, with the first block after which it was non-finite and the
value there (R115, R118). -/
def sumBlocks (zmul apx : Bool) (u v : MVec) : Nat → Nat → Nat → Option (Nat × Nat) → Nat × Option (Nat × Nat)
  | _, 0, x, nf => (x, nf)
  | b, n + 1, x, nf =>
    let y := roundNE .fp32 (FV.add (decodeEl .fp32 x)
      (blockTerm zmul apx (u.block b) (v.block b) (u.scales.getD b scaleOne) (v.scales.getD b scaleOne)))
    let nf := if nf.isNone && (decodeEl .fp32 y).nonFinite then some (b, y) else nf
    sumBlocks zmul apx u v (b + 1) n y nf

/-- Exact sum of products of int8 codes. -/
def intDot : List Nat → List Nat → Int
  | a :: r, b :: s => toSigned 8 a * toSigned 8 b + intDot r s
  | _, _ => 0
/-- An int32 accumulator word after its blocks, and whether one saturated (R116). -/
def sumInts (u v : List Nat) : Nat → Nat → Nat → Bool → Nat × Bool
  | _, 0, x, sat => (x, sat)
  | b, n + 1, x, sat =>
    let s := toSigned 32 x + intDot ((u.drop (32 * b)).take 32) ((v.drop (32 * b)).take 32)
    sumInts u v (b + 1) n (satInt .int32 s) (sat || decide (s > 2 ^ 31 - 1 ∨ s < -2 ^ 31))

/-- Quotient of two values rounded once into a format (R236). -/
def divRound (f : Ft) (a b : FV) : Nat :=
  match a, b with
  | .nan, _ => canonNaN f
  | _, .nan => canonNaN f
  | .inf _, .inf _ => canonNaN f
  | .inf n, .fin n' _ _ => round f false (.inf (n != n'))
  | .fin n _ _, .inf n' => round f false (.fin (n != n') 0 0)
  | .fin n m e, .fin n' m' e' =>
    if m' = 0 then (if m = 0 then canonNaN f else round f false (.inf (n != n')))
    else
      let d := e - e'
      if d ≥ 0 then roundQ f false (n != n') (m * 2 ^ d.toNat) m' else roundQ f false (n != n') m (m' * 2 ^ (-d).toNat)

/-! ## Accumulators (R230, R231) -/

def Acc.word (a : Acc) (i j : Nat) : Nat := (a.words.getD (128 * i + j) 0).toNat
def Acc.setWord (a : Acc) (i j v : Nat) : Acc :=
  { a with words := if v % 2 ^ 32 = 0 then a.words.del (128 * i + j) else a.words.put (128 * i + j) (BitVec.ofNat 32 v) }

/-- Rewrite the words of a region, given as (row, column) places. -/
def Acc.mapAt (f : Nat → Nat → Nat → Nat) : List (Nat × Nat) → Acc → Acc
  | [], a => a
  | (i, j) :: r, a => Acc.mapAt f r (a.setWord i j (f i j (a.word i j)))
/-- The places of the first m rows and n columns, row by row. -/
def region (m n : Nat) : List (Nat × Nat) := (List.range m).flatMap fun i => (List.range n).map fun j => (i, j)

/-- A word times 2^k: NaN and infinities stay (R233). -/
def shiftWord (k : Int) (x : Nat) : Nat :=
  let v := decodeEl .fp32 x
  if v.nonFinite then x else roundNE .fp32 (FV.mul v (.fin false 1 k))

/-- Clear the status of the first m rows and SAT (R231). -/
def Acc.clearStatus (a : Acc) (m : Nat) : Acc :=
  { a with sat := false, ncnt := a.ncnt.filter fun p => decide (m ≤ p.1) }
/-- Count replaced elements of a row of A (R231). -/
def Acc.countRow (a : Acc) (i n : Nat) : Acc :=
  if n = 0 then a
  else { a with ncnt := a.ncnt.put i (Nat.min 65535 (a.ncnt.getD i 0 + n)), atot := a.atot + BitVec.ofNat 64 n }

def Bank.acc (b : Bank) (k : Nat) : Acc := if k = 0 then b.acc0 else b.acc1
def Bank.setAcc (b : Bank) (k : Nat) (a : Acc) : Bank := if k = 0 then { b with acc0 := a } else { b with acc1 := a }

/-- The status block of MSTACC (R236). -/
def Acc.statusBytes (a : Acc) : List Byte :=
  leBytes 8 (bitIf a.sat 0) ++ leBytes 8 a.atot.toNat ++ leBytes 8 a.btot.toNat ++ leBytes 40 0
    ++ (List.range 128).flatMap fun i => leBytes 2 (a.ncnt.getD i 0)

end Sys2Proof.Machine
end

