-- ==== Sys2Proof/Machine/HvOps.lean ====
section
/-! DEFINITION. Hypervector arithmetic (R157 to R166): counters, the tie register's step, Hamming distance. -/

namespace Sys2Proof.Machine

/-- Largest counter at a width code (R158): 7, 127 or 32,767. -/
def cMax (cw : BitVec 2) : Int := if cw = 0 then 7 else if cw = 1 then 127 else 32767
/-- CSat (R158). -/
def cSat (cw : BitVec 2) (v : Int) : Int := if v > cMax cw then cMax cw else if v < -(cMax cw) then -(cMax cw) else v

/-- Counters of an array from the low end, each changed by its bit of `h` (R157, R164). -/
def mapCounters (f : Int → Bool → Int) : Nat → Nat → Nat → Nat
  | 0, _, _ => 0
  | n + 1, v, h =>
    ofSigned 16 (f (toSigned 16 v) (h % 2 == 1)) + 2 ^ 16 * mapCounters f n (v / 2 ^ 16) (h / 2)

/-- Apply a function to every counter and the bit it belongs to. -/
def BArr.mapC (f : Int → Bool → Int) (b : BArr) (h : HReg) : BArr := BitVec.ofNat 131072 (mapCounters f 8192 b.toNat h.toNat)

/-- Majority of every counter, ties from `tie` (R165). -/
def majority : Nat → Nat → Nat → Nat
  | 0, _, _ => 0
  | n + 1, v, tie =>
    let c := toSigned 16 v
    (if c > 0 then 1 else if c < 0 then 0 else tie % 2) + 2 * majority n (v / 2 ^ 16) (tie / 2)

/-- One bit step of L (R159). -/
def lfsrBit (l : HReg) : HReg :=
  let fb := (l.getLsbD 8191 ^^ l.getLsbD 8190) ^^ (l.getLsbD 8185 ^^ l.getLsbD 8184)
  (l <<< 1) ||| (if fb then 1 else 0)
/-- One step of L: 8192 bit steps (R159). -/
def lfsrStep (l : HReg) : HReg := (List.range 8192).foldl (fun x _ => lfsrBit x) l

/-- Positions in which two hypervectors differ (R166). -/
def hamming (a b : HReg) : Nat := popCount 8192 (a ^^^ b).toNat

/-- Rotation: bit (i + k) mod 8192 of the result is bit i (R163). -/
def hrot (h : HReg) (k : Nat) : HReg := h.rotateLeft (k % 8192)

/-- CSat at a new width on every counter of the task (R158). -/
def Task.clampCounters (t : Task) (cw : BitVec 2) : Task :=
  { t with b := t.b.map fun b => BArr.mapC (fun c _ => cSat cw c) b 0 }

end Sys2Proof.Machine
end

