-- ==== Sys2Proof/Machine/System.lean ====
section
/-! DEFINITION. System registers (R67 to R69), ALLOT and LIVE (R60 to R62), RESUME (R66). -/

namespace Sys2Proof.Machine

/-- MFSR (R67). -/
def execMfsr (rd : Reg) (sr : SReg) (s : State) : Out := gate (.mfsr rd sr) s fun s => finX rd (s.sysReg s.rd sr) s

/-- Registers whose access is R at every level (R67). -/
def sregReadOnly : SReg → Bool
  | .iter | .taskid | .tilex | .tiley | .tilez | .core | .allotn | .dtime | .supcore | .seqaddr => true
  | _ => false
/-- Registers that are R at T and RW at S (R67). -/
def sregSupWrite : SReg → Bool
  | .cause | .epc | .tval | .btgt => true
  | _ => false

/-- MTSR (R67): the access checks, then the write; LIVEM as LIVE (R62), HVCW with the clamp of R158. -/
def execMtsr (ra : Reg) (sr : SReg) (s : State) : Out :=
  gate (.mtsr ra sr) s fun s =>
    let v := s.xr ra
    if sregReadOnly sr then raise .illegal s.tword s
    else if sregSupWrite sr && !s.t.st.s then raise .priv s.tword s
    else
      let set (f : Task → Task) : Out := fin { s with t := f s.t }
      match sr with
      | .status => set fun t => { t with st := t.st.write v }
      | .cause => set fun t => { t with cause := v &&& 0x1FF }
      | .epc => set fun t => { t with epc := v }
      | .tval => set fun t => { t with tval := v }
      | .btgt => set fun t => { t with btgt := v }
      | .livem => drained s fun s => fin { s with t := { s.t with livem := liveMask s.t.allotn v } }
      | .ntmo => set fun t => { t with ntmo := v.setWidth 32 }
      | .uivec => set fun t => { t with uivec := v &&& ~~~3 }
      | .uiepc => set fun t => { t with uiepc := v &&& ~~~3 }
      | .hvtie => set fun t => { t with hvtie := v.setWidth 2 }
      | .hvcw =>
        let cw : BitVec 2 := v.setWidth 2
        if cw = 3 then raise .illegal v s
        else set fun t => if t.hvDecl then { t.clampCounters cw with hvcw := cw } else { t with hvcw := cw }
      | .iter | .taskid | .tilex | .tiley | .tilez | .core | .allotn | .dtime | .supcore | .seqaddr => fin s

/-- The register file after ALLOT (R60): registers gained are zero and live, registers lost are discarded, and
the binding of a released stream register ends (R187). -/
def Task.resize (t : Task) (n : Nat) : Task :=
  { t with
    v := Vector.ofFn fun i => if i.val < t.allotn ∧ i.val < n then t.v[i] else 0
    livem := (t.livem &&& BitVec.ofNat 32 (2 ^ n - 1)) ||| (BitVec.ofNat 32 (2 ^ n - 1) &&& ~~~ BitVec.ofNat 32 (2 ^ t.allotn - 1))
    streams := t.streams.filter fun p => decide (p.1 < n)
    allotn := n }

/-- Hypervector state after ALLOT (R60): kept only when it was declared and stays declared. -/
def Task.declareHv (t : Task) (hv : Bool) : Task :=
  if hv && t.hvDecl then t
  else { t with h := Vector.replicate 8 0, b := Vector.replicate 4 0, hvDecl := hv }

/-- ALLOT (R60, R61). -/
def execAllot (ra : Reg) (hv : Bool) (s : State) : Out :=
  gate (.allot ra hv) s fun s =>
    let n := s.xr ra
    if n.toNat > 32 then raise .allot n s
    else if hv && (isOpt s.t.core || !s.t.hvMade) then raise .allot 0x100 s
    else drained s fun s => fin { s with t := (s.t.resize n.toNat).declareHv hv }

/-- LIVE (R62). -/
def execLive (ra : Reg) (s : State) : Out :=
  gate (.live ra) s fun s =>
    drained s fun s => fin { s with t := { s.t with livem := liveMask s.t.allotn (s.xr ra) } }

/-- RESUME (R66, R382): the message goes to the core; a core outside the partition raises ACCESS. -/
def execResume (ra rb : Reg) (s : State) : Out :=
  gate (.resume ra rb) s fun s => noCompute 0 s fun s =>
    let c := s.xr ra
    if !s.inPart s.t.part c.toNat then raise .access c s
    else fin (s.after (dieClk s.t.core) (s.messageLatency s.t.core c.toNat) (.resumeMessage c.toNat ((s.xr rb).setWidth 48)))

end Sys2Proof.Machine
end

