-- ==== Sys2Proof/Machine/Tasks.lean ====
section
/-! DEFINITION. How tasks come into being (R8, R9, R25), message counters and the waiting-task table (R10 to R19),
remote writes (R18, R384). -/

namespace Sys2Proof.Machine

/-! ## Creation -/

/-- Bytes of a Hatbox (R25). -/
def hatboxBytes (hv : Bool) : Nat := if hv then 0x14800 else 0x2800
/-- The Hatbox pool of a core's cluster (R25, R338): base and bytes. An optimiser core's Hatboxes live in its scratch
(R303); the model puts them at its top (log 15). -/
def State.hatboxPool (s : State) (part core : Nat) : Nat × Nat :=
  if isOpt core then (scratchBase (core - 0x1000) + 0x200000 - 0x28000, 0x28000)
  else let p := s.part part; (vaultBase (clusterOf core) + 65536 * p.hboff, 65536 * p.hbn)

/-- Hatboxes in use: tasks and built-in evaluations. -/
def State.hatboxesUsed (s : State) : List (Nat × Nat) :=
  (s.allTasks.filterMap fun t => if t.hatbox = 0 then none else some (t.hatbox, t.hatboxSize))
    ++ s.evals.vals.map fun e => (e.hatbox, 0x2800)
/-- The lowest place in a pool for n bytes, a multiple of 256 (R25). -/
def placeIn (pool : Nat × Nat) (n : Nat) (used : List (Nat × Nat)) : Option Nat :=
  let cands := (pool.1 :: used.map fun u => u.1 + u.2).map fun a => (a + 255) / 256 * 256
  let ok := cands.filter fun b => decide (pool.1 ≤ b ∧ b + n ≤ pool.1 + pool.2) && !used.any fun u => overlap b n u.1 u.2
  match ok with
  | [] => none
  | b :: r => some (r.foldl Nat.min b)
def State.hatboxRoom (s : State) (part core : Nat) (hv : Bool) : Option Nat :=
  placeIn (s.hatboxPool part core) (hatboxBytes hv) s.hatboxesUsed

/-- The starting state of R8. -/
def Task.start (entry : W64) (tx ty tz : W16) (arg : W64) (allot : Nat) (hv : Bool) (prio part core launch : Nat) : Task :=
  { part := part, core := core, launch := launch, prio := prio, pc := entry,
    x := (Vector.replicate 32 (0 : W64)).set 1 arg, hvDecl := hv, hvMade := hv, tilex := tx, tiley := ty, tilez := tz,
    allotn := allot, livem := BitVec.ofNat 32 (2 ^ allot - 1) }

/-- The numbers whose TASKIDs are taken: of tasks and built-in evaluations that have not retired. -/
def State.livingTids (s : State) : List Nat := s.allTasks.map (·.tid) ++ s.evals.map (·.1)
/-- The next number whose TASKID, its low 32 bits, no living task has (R8); the fuel exceeds the living tasks. -/
def freshFrom (used : List Nat) : Nat → Nat → Nat
  | 0, n => n
  | k + 1, n => if n % 2 ^ 32 = 0 ∨ used.any (· % 2 ^ 32 == n % 2 ^ 32) then freshFrom used k (n + 1) else n
def State.freshTid (s : State) : Nat := freshFrom s.livingTids (s.livingTids.length + 2) s.nextTid

/-- The partition holds an unretired task or a waiting-task entry (R354). -/
def State.holdsWork (s : State) (part : Nat) : Bool :=
  (s.allTasks.any fun t => t.part == part) || (s.evals.vals.any fun e => e.part == part)
    || s.cores.vals.any fun k => k.table.vals.any fun e => e.part == part
/-- The hang watchdog counts anew: a task has retired, or work has come to a partition that held none (R354). -/
def State.wdogAnew (s : State) (part : Nat) : State :=
  match s.parts.find part with
  | none => s
  | some p => s.setPart part (if p.wdogPaused.isSome then { p with wdogPaused := some 0 } else { p with wdogBase := s.now })

/-- A task is created and becomes ready (R8, R25); none while its Hatbox pool is exhausted. -/
def State.spawn (s : State) (t : Task) : Option State :=
  match s.hatboxRoom t.part t.core t.hvMade with
  | none => none
  | some h =>
    let n := s.freshTid
    let s := if s.holdsWork t.part then s else s.wdogAnew t.part
    some { s with
      tasks := s.tasks.put n { t with tid := n, hatbox := h, run := .ready, since := s.stamp }
      nextTid := n + 1
      stamp := s.stamp + 1
      launches := match s.launches.find t.launch with
        | some l => s.launches.put t.launch { l with tids := l.tids ++ [n] }
        | none => s.launches }

/-- Tasks that a core holds (R9). -/
def State.tasksOn (s : State) (c : Nat) : List Task := s.allTasks.filter fun t => t.core == c
def coreTasks : Nat := 16

/-! ## The waiting-task table -/

/-- An entry whose condition holds is marked and its launch follows at once (R11). -/
def State.meet (s : State) (c slot : Nat) (e : WEntry) : State :=
  (s.setCore c { s.core c with table := (s.core c).table.put slot { e with met := true } }).at_ 0
    (.entryLaunch c (Fin.ofNat 16 slot))
/-- Evaluate entries on a counter, in ascending slot order (R11). -/
def evalEntries (c : Nat) (n : Fin 16) (v : W32) : List (Nat × WEntry) → State → State
  | [], s => s
  | (slot, e) :: r, s => evalEntries c n v r (if !e.met && e.ctr == n && decide (e.thr.toInt ≤ v.toInt) then s.meet c slot e else s)
/-- Change a counter and evaluate the launch conditions on it (R11, R12). -/
def State.setCtr (s : State) (c : Nat) (n : Fin 16) (v : W32) : State :=
  let s := s.setCore c { s.core c with ctr := (s.core c).ctr.set n v }
  evalEntries c n v (s.core c).table s

/-- ENTRY_LAUNCH (R9, R11): the entry leaves the table and becomes a ready task, once its core holds fewer than 16
tasks and its Hatbox pool has room; while placement is held (R350) it waits. -/
def execEntryLaunch (core : Nat) (slot : Fin 16) (s : State) : Out :=
  let k := s.core core
  match k.table.find slot.val with
  | none => .next s
  | some e =>
    if !e.met || decide (coreTasks ≤ (s.tasksOn core).length) then .next s
    else if (s.part e.part).held then .next (s.at_ 64 (.entryLaunch core slot))
    else
      let t := Task.start e.entry e.tx e.ty e.tz e.arg e.allot e.hv e.prio e.part core e.launch
      match (s.setCore core { k with table := k.table.del slot.val }).spawn t with
      | some s' => .next s'
      | none => .next (s.at_ 64 (.entryLaunch core slot))

/-- A TASKW descriptor is legal (R16, R17). -/
def taskwOk (d : Nat) (core : Nat) : Bool :=
  let d0 := bitsOf d 0 64
  let d1 := bitsOf d 64 64
  let d2 := bitsOf d 128 64
  decide (d0 / 2 ^ 56 = 0 ∧ d1 / 2 ^ 52 = 0 ∧ d2 / 2 ^ 44 = 0 ∧ bitsOf d2 38 2 = 0 ∧ bitsOf d2 40 3 ≠ 7
    ∧ bitsOf d2 32 6 ≤ 32 ∧ d0 % 4 = 0) && !(bitsOf d2 43 1 == 1 && isOpt core)
/-- The entry of a descriptor. -/
def WEntry.of (d : Nat) (part launch : Nat) : WEntry :=
  let d1 := bitsOf d 64 64
  let d2 := bitsOf d 128 64
  { entry := BitVec.ofNat 64 (bitsOf d 0 56), tx := BitVec.ofNat 16 d1, ty := BitVec.ofNat 16 (d1 / 2 ^ 16),
    tz := BitVec.ofNat 16 (d1 / 2 ^ 32), ctr := Fin.ofNat 16 (bitsOf d1 48 4), thr := BitVec.ofNat 32 d2,
    allot := bitsOf d2 32 6, hv := bitsOf d2 43 1 == 1, prio := bitsOf d2 40 3, arg := BitVec.ofNat 64 (bitsOf d 192 64),
    part := part, launch := launch }
/-- The lowest free slot of a table. -/
def freeSlot (t : NMap WEntry) : Option Nat := (List.range 16).find? fun n => (t.find n).isNone

/-- TASKW (R17, R382): counted as sent and received where it inserts (R98). -/
def execTaskw (rd ra rb : Reg) (s : State) : Out :=
  gate (.taskw rd ra rb) s fun s =>
    let a := s.xr ra
    let c := (s.xr rb).toNat
    noCompute a s fun s =>
      if a.toNat % 32 ≠ 0 then raise .align a s
      else loadPieces 32 [a] s fun d s =>
        if !s.inPart s.t.part c then raise .access (s.xr rb) s
        else if !taskwOk d c then raise .illegal a s
        else
          let k := s.core c
          let s := { s with t := { s.t with hold := s.tclock + s.messageLatency s.t.core c + 8 } }
          match freeSlot k.table with
          | none => finX rd (BitVec.allOnes 64) s
          | some n =>
            let e := WEntry.of d s.t.part s.t.launch
            let s := ((s.setCore c { k with table := k.table.put n e }).countSent s.t.core).countRecv c
            let s := if e.thr.toInt ≤ (k.ctr.get e.ctr).toInt then s.meet c n e else s
            finX rd (BitVec.ofNat 64 n) s

/-- CTRRD (R19). -/
def execCtrrd (rd : Reg) (n : Fin 16) (s : State) : Out :=
  gate (.ctrrd rd n) s fun s => noCompute 0 s fun s => finX rd (sext 32 ((s.core s.t.core).ctr.get n)) s
/-- CTRSET (R19). -/
def execCtrset (ra : Reg) (n : Fin 16) (s : State) : Out :=
  gate (.ctrset ra n) s fun s => noCompute 0 s fun s => fin (s.setCtr s.t.core n ((s.xr ra).setWidth 32))

/-! ## Remote writes (R13, R14, R18, R254, R384) -/

/-- The message part of a WRC: counted, and on its way to the target's counter. -/
def wrcSend (c : Nat) (n : Fin 16) (delta : W32) (s : State) : Out :=
  fin (State.after { s.countSent s.t.core with sends := s.sends ++ [⟨c, none, s.t.tid, s.t.part, n, delta⟩] } (dieClk s.t.core)
    (s.messageLatency s.t.core c) (.wrcArrival c n delta s.t.tid))

/-- WRC and WRC.c (R18): the checks, the write on its way, then the counter change. -/
def wrcOp (i : Instr) (rd ra rb : Reg) (n : Fin 16) (delta : W32) (s : State) : Out :=
  gate i s fun s =>
    let a := s.xr ra
    let c := (s.xr rd).toNat
    noCompute a s fun s => onWake s (fun _ => wrcSend c n delta s) <|
      if a.toNat % 8 ≠ 0 then raise .align a s
      else orTrap (s.locate a 8 { w := true }) fun (l, s) =>
        match l.place with
        | .absent _ _ => raise .access a s
        | .evicted => raise .access a s
        | .at pa =>
          if l.kind = .view then raise .access a s
          else if !s.inPart s.t.part c then raise .access (s.xr rd) s
          else if l.wait 8 s then stallSeq s
          else if l.kind = .versioned then
            match s.newVersion s.t.tid pa (s.xr rb) with
            | some (_, s') => wrcSend c n delta s'
            | none => parkOn a (.room pa (s.xr rb)) s
          else
            wrcSend c n delta (State.after { s with posted := s.posted ++ [⟨s.t.tid, leCells pa 8 (s.xr rb).toNat⟩] }
              (dieClk s.t.core) (s.messageLatency s.t.core c) .accessPerformed)

/-- WRC (R18). -/
def execWrc (rd ra rb : Reg) (n : Fin 16) (s : State) : Out := wrcOp (.wrc rd ra rb n) rd ra rb n 1 s
/-- WRC.c (R18). -/
def execWrcC (rd ra rb : Reg) (n : Fin 16) (s : State) : Out :=
  wrcOp (.wrcC rd ra rb n) rd ra rb n (1 - (s.xr rb).setWidth 32) s

/-- ACCESS_PERFORMED (R384): the oldest remote write on its way is performed; it waits while a unit under test serves its
place (R223, R327). -/
def execAccessPerformed (s : State) : Out :=
  match s.posted with
  | [] => .next s
  | p :: r =>
    if s.postedHeld p then .next (s.at_ 16 .accessPerformed)
    else .next ({ s with posted := r }.perform p)

/-- A flight of the same kind that its task sent before it has not arrived: a counter change waits for one to the same core (R13), a
message for any, since it is a release (R197, R198, R251). -/
def behind (f : Flight) (l : List Flight) : Bool :=
  (l.takeWhile (· != f)).any fun e => e.tid == f.tid && e.msg.isSome == f.msg.isSome && (f.msg.isSome || e.core == f.core)

/-- The remote writes of a task that are still on their way, oldest first. -/
def performOf (tid : Nat) : List Posted → State → State
  | [], s => s
  | p :: r, s => performOf tid r (if p.tid = tid then s.perform p else s)
/-- WRC_ARRIVAL (R11, R12, R13, R14, R18): a counter change of the task reaches the target and takes effect there, after the task's
earlier ones and its writes, which wait for a unit under test; where the core no longer lies in the task's partition it is discarded and recorded (R255, R351). -/
def execWrcArrival (core : Nat) (ctr : Fin 16) (delta : W32) (src : Nat) (s : State) : Out :=
  match s.sends.find? fun f => f.core == core && f.msg.isNone && f.tid == src && f.ctr == ctr && f.delta == delta with
  | none => .next s
  | some f =>
    if behind f s.sends then .next (s.at_ 1 (.wrcArrival core ctr delta src))
    else if s.posted.any fun p => p.tid == src && s.postedHeld p then .next (s.at_ 16 (.wrcArrival core ctr delta src))
    else
      let s := performOf src s.posted { s with posted := s.posted.filter (·.tid != src), sends := s.sends.erase f }
      if s.inPart f.part core then
        .next ((s.countRecv core).setCtr core ctr ((s.core core).ctr.get ctr + delta))
      else .next (s.failTask src false)

/-! ## Messages between tasks (R196) -/

/-- A mask is legal. -/
def maskOk (v : W64) : Bool := decide (v.toNat / 2 ^ 13 = 0 ∧ v.toNat % 2 = 0)
/-- Messages at a core or on their way to it. -/
def State.mailLoad (s : State) (c : Nat) : Nat :=
  let k := s.core c
  k.mailbox.length + k.held.length + (s.sends.filter fun m => m.core == c && m.msg.isSome).length

/-- SENDMSG (R196, R198): stalls while the target mailbox is full; a release. -/
def execSendmsg (ra rb : Reg) (s : State) : Out :=
  gate (.sendmsg ra rb) s fun s => noCompute 0 s fun s =>
    let c := (s.xr ra).toNat
    if !s.inPart s.t.part c then raise .access (s.xr ra) s
    else if mailboxSize ≤ s.mailLoad c then stall s
    else releasedMail s fun s =>
      let m := coreMsg s.t.core 8 ((s.xr rb).setWidth 48)
      let s := { s with sends := s.sends ++ [Flight.mk c (some m) s.t.tid s.t.part 0 0] }
      fin ((s.countSent s.t.core).after (dieClk s.t.core) (s.messageLatency s.t.core c) (.user c m))

/-- USER (R196, R197): the message reaches the core after its sender's earlier ones: it wakes a waiting task or enters the mailbox.
A core that has left the sender's partition refuses it (R255, R351). -/
def execUser (core : Nat) (msg : W64) (s : State) : Out :=
  match s.sends.find? fun f => f.core == core && f.msg == some msg with
  | none => .next s
  | some f =>
    if behind f s.sends then .next (s.at_ 1 (.user core msg))
    else
      let s := { s with sends := s.sends.erase f }
      if s.inPart f.part core then .next ((s.countRecv core).deliver core msg) else .next (s.failTask f.tid false)

/-- Remove the oldest selected message of the core, if any. -/
def State.takeMail (s : State) (mask : W16) : Option (W64 × State) :=
  let k := s.core s.t.core
  (takeMsg mask k.mailbox).map fun q => (q.1, s.setCore s.t.core ({ k with mailbox := q.2 }.refill))

/-- The task has taken a message: the MDONE of a command that met absent data sets APXS in it (R293, R366). -/
def State.tookMsg (s : State) (m : W64) : State :=
  let k := s.core s.t.core
  let key := m.toNat % 2 ^ 16
  if msgKind m == 4 && k.absentDone.contains key then (s.setCore s.t.core { k with absentDone := k.absentDone.erase key }).setApxs else s

/-- Take the oldest selected message, or go on without one (R196, R244). -/
def takeOne (rd : Reg) (mask : W16) (s : State) (none_ : Out) : Out :=
  match s.takeMail mask with
  | some (m, s') =>
    if matrixKind m then takeMatrix s fun _ => finX rd m (s'.tookMsg m) else finX rd m s'
  | none => none_

/-- WAITMSG (R196). -/
def execWaitmsg (rd ra : Reg) (s : State) : Out :=
  gate (.waitmsg rd ra) s fun s => noCompute 0 s fun s => onWake s (fun m => finX rd m (s.tookMsg m)) <|
    let v := s.xr ra
    if !maskOk v then raise .illegal v s
    else takeOne rd (v.setWidth 16) s (park (.message (v.setWidth 16)) s)
/-- POLLMSG (R196). -/
def execPollmsg (rd ra : Reg) (s : State) : Out :=
  gate (.pollmsg rd ra) s fun s => noCompute 0 s fun s =>
    let v := s.xr ra
    if !maskOk v then raise .illegal v s
    else takeOne rd (v.setWidth 16) s (finX rd 0 s)
/-- UIEN (R79, R196). -/
def execUien (ra : Reg) (s : State) : Out :=
  gate (.uien ra) s fun s => noCompute 0 s fun s =>
    let v := s.xr ra
    if !maskOk v then raise .illegal v s
    else fin { s with t := { s.t with uiMask := v.setWidth 16, st := { s.t.st with uie := v != 0 } } }

end Sys2Proof.Machine
end

