-- ==== Sys2Proof/Machine/VecMem.lean ====
section
/-! DEFINITION. Vector loads and stores (R182, R176 to R180, R293). -/

namespace Sys2Proof.Machine

/-- Pieces of a vector memory word with an active byte: number and address, in ascending order (R182). -/
def activePieces (n : Nat) (p : PReg) (addr : Nat → W64) : List (Nat × W64) :=
  ((List.range (256 / n)).filter fun j => bitsOf p.toNat (n * j) n ≠ 0).map fun j => (j, addr j)

/-- Address of piece j of VLD and VST, of VLDS and VSTS, of VLDX and VSTX. -/
def addrRow (e : Entry) (j : Nat) : W64 := e.a + e.b + BitVec.ofNat 64 (64 * j)
def addrStride (e : Entry) (j : Nat) : W64 := e.a + BitVec.ofNat 64 j * e.b
def addrIndex (e : Entry) (j : Nat) : W64 := e.a + BitVec.ofNat 64 (32 * bitsOf e.b.toNat (8 * j) 8)

/-- Check and locate the pieces one after the other; a load also meets its errors in that order (R182, R177). A strided word's
base and stride are multiples of 32 and an indexed word's base is, which `aligned` says (R182). -/
def vecPieces (aligned : Bool) (n : Nat) (need : Need) (sc : Sc) : List (Nat × W64) → State → Except Miss (List (Nat × Piece) × State)
  | [], s => .ok ([], s)
  | (j, a) :: r, s =>
    if !aligned && !highAddr a then s.refuse .align a
    else match s.locatePieces n n need sc [a] with
    | .error t => .error t
    | .ok (ps, s') =>
      match if need.r then s'.piecesOk n ps else .ok s' with
      | .error m => .error m
      | .ok s' =>
        match vecPieces aligned n need sc r s' with
        | .error t => .error t
        | .ok (qs, s'') => .ok (ps.map (j, ·) ++ qs, s'')

/-- The alignment that R182 asks of the operands of VLDS, VSTS, VLDX and VSTX; the rows of VLD and VST have their sum's. -/
def operandsAligned (e : Entry) : Bool :=
  match e.i with
  | .vlds .. | .vsts .. => e.a.toNat % 32 == 0 && e.b.toNat % 32 == 0
  | .vldx .. | .vstx .. => e.a.toNat % 32 == 0
  | _ => true

/-- Bits of a predicate that belong to the pieces. -/
def pieceBits (n : Nat) (js : List Nat) : PReg :=
  BitVec.ofNat 256 (js.foldl (fun m j => m ||| ((2 ^ n - 1) * 2 ^ (n * j))) 0)

/-- Pieces that resolve to an ABSENT row or block or an evicted position (R293, R296). -/
def absentPieces (qs : List (Nat × Piece)) : List Nat :=
  qs.filterMap fun q => match q.2.place with | .at _ => none | _ => some q.1

/-- Active bytes of a load: the register's byte numbers and their values. -/
def loadedBytes (n : Nat) (p : PReg) (s : State) (qs : List (Nat × Piece)) : List (Nat × Byte) :=
  qs.flatMap fun q =>
    let v := s.pieceValue n q.2
    ((leBytes n v).zipIdx.map fun b => (n * q.1 + b.2, b.1)).filter fun b => p.getLsbD b.1

/-- The address of each of those bytes. -/
def loadedAt (n : Nat) (p : PReg) (qs : List (Nat × Piece)) : List Nat :=
  qs.flatMap fun q => ((List.range n).filter fun k => p.getLsbD (n * q.1 + k)).map (q.2.va.toNat + ·)

/-- The load-to-use latency of a located piece (R174, R303). -/
def Piece.latency (s : State) (core : Nat) (p : Piece) : Nat :=
  if p.va.toNat < 0x01000000 then 14 else match p.place with | .at pa => s.pathLatency core pa | _ => 0

/-- VLD, VLDS and VLDX at execution. In a compute phase the bytes are delivered 14 cycles later (R180), in PHASE.n a later
word that reads vd waits for the latency of the path (R182); absent and evicted granules read as zero and leave pg (R293,
R296). -/
def runLoad (n : Nat) (addr : Entry → Nat → W64) (vr : Reg) (pg : Pg) (sc : Sc) (e : Entry) (s : State) : VRes :=
  let p := s.pr pg
  match vecPieces (operandsAligned e) n { r := true } sc (activePieces n p (addr e)) s with
  | .error m => .miss m
  | .ok (qs, s) =>
    let ps := qs.map (·.2)
    let s := flushPieces n ps s
    let bytes := loadedBytes n p s qs
    let gone := absentPieces qs
    let s := piecesRow sc n ps (s.meetAbsent (absents (ps.map (·.place))))
    let s := if gone.isEmpty then s else s.pw pg (p &&& ~~~ pieceBits n gone)
    let c := s.tissued
    if s.t.st.ph = .c then
      .ok { s with t := { s.t with seq := { s.t.seq with loads := s.t.seq.loads ++ [⟨c + 14, vr, bytes, loadedAt n p qs⟩] } } }
    else
      let due := c + ps.foldl (fun m p => Nat.max m (p.latency s s.t.core)) 0
      let s := s.vw vr (vSetBytes (s.vr vr) bytes)
      .ok { s with t := { s.t with seq := { s.t.seq with ready := readyAt due [vr.val] s.t.seq.ready } } }

/-- VST, VSTS and VSTX at execution: each piece is a write of its own (R182), for a release after the task's posted writes
(R251). -/
def runStore (n : Nat) (addr : Entry → Nat → W64) (vr : Reg) (pg : Pg) (sc : Sc) (e : Entry) (s : State) : VRes :=
  let p := s.pr pg
  match vecPieces (operandsAligned e) n { w := true } sc (activePieces n p (addr e)) s with
  | .error m => .miss m
  | .ok (qs, s) =>
    let v := (s.vr vr).toNat
    let cells (q : Nat × Piece) := maskedCells n [q.2] (v / 256 ^ (n * q.1)) (p.toNat / 2 ^ (n * q.1))
    let ps := qs.map (·.2)
    if sc ≠ .plain ∧ s.ownHeld = true then .wait s
    else .ok (piecesRow sc n ps (qs.foldl (fun s q => s.store (cells q)) (flushPieces n ps (s.releases sc))))

/-- VLD (R182). -/
def execVld (vr ra rb : Reg) (pg : Pg) (sc : Sc) (s : State) : Out :=
  issueV (.vld vr ra rb pg sc) (s.xr ra) (s.xr rb) (runLoad 64 addrRow vr pg sc) s
/-- VST (R182). -/
def execVst (vr ra rb : Reg) (pg : Pg) (sc : Sc) (s : State) : Out :=
  issueV (.vst vr ra rb pg sc) (s.xr ra) (s.xr rb) (runStore 64 addrRow vr pg sc) s
/-- VLDS (R182). -/
def execVlds (vr ra rb : Reg) (pg : Pg) (sc : Sc) (s : State) : Out :=
  issueV (.vlds vr ra rb pg sc) (s.xr ra) (s.xr rb) (runLoad 32 addrStride vr pg sc) s
/-- VSTS (R182). -/
def execVsts (vr ra rb : Reg) (pg : Pg) (sc : Sc) (s : State) : Out :=
  issueV (.vsts vr ra rb pg sc) (s.xr ra) (s.xr rb) (runStore 32 addrStride vr pg sc) s
/-- VLDX (R182). -/
def execVldx (vr ra rb : Reg) (pg : Pg) (sc : Sc) (s : State) : Out :=
  issueV (.vldx vr ra rb pg sc) (s.xr ra) (s.xr rb) (runLoad 32 addrIndex vr pg sc) s
/-- VSTX (R182). -/
def execVstx (vr ra rb : Reg) (pg : Pg) (sc : Sc) (s : State) : Out :=
  issueV (.vstx vr ra rb pg sc) (s.xr ra) (s.xr rb) (runStore 32 addrIndex vr pg sc) s

end Sys2Proof.Machine
end

