-- ==== Sys2Proof/Machine/Views.lean ====
section
/-! DEFINITION. View registration, counters, the Ferry's derivations and publications, and VLDV (R272 to R282). -/

namespace Sys2Proof.Machine

/-! ## Registration (R272, R273, R276) -/

/-- A word of a descriptor. -/
def descWord (n k : Nat) : Nat := bitsOf n (64 * k) 64

/-- The shards of a table. -/
def shardsOf (n : Nat) : Nat → List Shard
  | 0 => []
  | k + 1 =>
    ⟨bitsOf n 32 32, bitsOf n 0 32, bitsOf n 64 56, bitsOf n 128 56⟩ :: shardsOf (n / 2 ^ 256) k
/-- An entry's reserved fields and alignments (R273). -/
def shardEntriesOk (n : Nat) : Nat → Bool
  | 0 => true
  | k + 1 =>
    decide (bitsOf n 120 8 = 0 ∧ bitsOf n 184 8 = 0 ∧ bitsOf n 192 64 = 0 ∧ bitsOf n 64 6 = 0 ∧ bitsOf n 128 6 = 0
      ∧ bitsOf n 0 32 ≠ 0) && shardEntriesOk (n / 2 ^ 256) k
/-- Shards cover the rows without gap (R273). -/
def shardsOk (rows : Nat) : Nat → List Shard → Bool
  | at_, [] => at_ == rows
  | at_, h :: r => h.firstRow == at_ && shardsOk rows (at_ + h.nrows) r

/-- The view of a descriptor, its shard table and codebook. -/
def View.of (n tab : Nat) (cb : List W16) (core : Nat) : View :=
  { mbase := bitsOf n 0 56, rows := bitsOf n 96 32, cols := bitsOf n 64 32, mpitch := bitsOf n 128 32,
    mf := if bitsOf (descWord n 3) 62 2 = 0 then .fp32 else .bf16, vf := bitsOf (descWord n 3) 58 4,
    layout := bitsOf (descWord n 3) 56 2, dpol := bitsOf (descWord n 3) 54 2,
    shards := shardsOf tab (bitsOf (descWord n 3) 44 4 + 1), cb := cb, core := core }

/-- Every field of the descriptor and its table obeys R272 and R273. -/
def viewOk (n tab : Nat) (v : View) : Bool :=
  let d3 := descWord n 3
  decide (descWord n 0 / 2 ^ 56 = 0 ∧ v.mbase % 64 = 0 ∧ 1 ≤ v.rows ∧ v.rows ≤ 16777216)
    && decide (v.cols % 32 = 0 ∧ 32 ≤ v.cols ∧ v.cols ≤ 65536)
    && decide (bitsOf (descWord n 2) 32 32 = 0 ∧ v.mpitch % 64 = 0 ∧ v.cols * v.esize ≤ v.mpitch)
    && decide (bitsOf d3 62 2 ≤ 1 ∧ v.layout ≤ 2 ∧ v.dpol ≤ 2 ∧ bitsOf d3 48 6 = 32 ∧ bitsOf d3 0 44 = 0)
    && [1, 2, 3, 4, 7, 8].contains v.vf
    && decide (descWord n 4 / 2 ^ 56 = 0 ∧ descWord n 4 % 32 = 0 ∧ (v.vf = 8 ∨ descWord n 4 = 0))
    && decide (descWord n 5 / 2 ^ 56 = 0 ∧ descWord n 5 % 64 = 0 ∧ descWord n 6 = 0 ∧ descWord n 7 = 0)
    && shardEntriesOk tab (bitsOf d3 44 4 + 1) && shardsOk v.rows 0 v.shards
/-- A codebook has a finite nonzero entry (R276). -/
def cbOk (cb : List W16) : Bool := cb.any fun w => let x := decodeEl .bf16 w.toNat; !x.nonFinite && !x.isZero

/-- The page of an address as VIEWREG finds it (R276): one that does not translate is refused as any other that is not of the
kind asked for; an error in a table is MEMERR (R287). -/
def pageAt (a : Nat) (ok : TlbEntry → Bool) (s : State) : Except Miss (TlbEntry × State) :=
  if 2 ^ 56 ≤ a ∨ a < 0x01000000 then s.refuse .access (BitVec.ofNat 64 a)
  else match s.xlate a with
    | .error (some .memerr, e) => .error ⟨some (.memerr, BitVec.ofNat 64 a), s, e⟩
    | .error (none, e) => .error ⟨none, s, e⟩
    | .error _ => s.refuse .access (BitVec.ofNat 64 a)
    | .ok (e, s') => if ok e then .ok (e, s') else s'.refuse .access (BitVec.ofNat 64 a)
/-- Where the master lies: every page MASTER with R and W (R276). -/
def masterPieces : List (Nat × Nat) → State → Except Miss (List (Nat × Nat × Nat) × State)
  | [], s => .ok ([], s)
  | (a, n) :: r, s =>
    match pageAt a (fun e => e.kind == .master && e.allows { r := true, w := true } && assigned (e.frame + (a - e.base))) s with
    | .error m => .error m
    | .ok (e, s') =>
      match masterPieces r s' with
      | .error m => .error m
      | .ok (q, s'') => .ok ((a, n, e.frame + (a - e.base)) :: q, s'')
/-- Every page of a storage range is VIEW (R276), in a range that R315 assigns. -/
def viewPages : List (Nat × Nat) → State → Except Miss State
  | [], s => .ok s
  | (a, _) :: r, s =>
    match pageAt a (fun e => e.kind == .view && assigned (e.frame + (a - e.base))) s with
    | .error m => .error m
    | .ok (_, s') => viewPages r s'

/-- Bytes of a shard's state area (R274). -/
def View.stateBytes (v : View) (h : Shard) : Nat := 16 * (h.nrows * v.cols / 32)
def View.storageRanges (v : View) : List (Nat × Nat) :=
  v.shards.flatMap fun h => pagesIn h.vbase (2 * v.slotBytes h) ++ pagesIn h.sbase (v.stateBytes h)

/-- Blocks of a view in the order of its initial derivations (R276). -/
def View.blocks (v : View) : List (Nat × Nat) :=
  (List.range v.rows).flatMap fun r => (List.range (v.cols / 32)).map fun b => (r, b)

/-- Registered views, of every partition, that cover a granule. -/
def State.coverCount (s : State) (g : Nat) : Nat :=
  (s.parts.vals.flatMap fun p => p.views.vals.filter fun w => (w.blockOf g w.master).isSome).length
/-- Some block of the new view is covered by 8 views already. -/
def View.tooMany (v : View) (s : State) : Bool :=
  v.blocks.any fun b => (v.granules b.1 b.2).any fun g => decide (8 ≤ s.coverCount g)

/-- Physical places of the state entries, by the leaves that stand (R276); the pages have been found VIEW. -/
def View.statePlaces (v : View) (part : Nat) (s : State) : List Nat :=
  v.blocks.filterMap fun b => (shardOf b.1 v.shards).bind fun h =>
    let va := v.stateVa h b.1 b.2
    (s.leafOf part va).map fun e => e.frame + (va - e.base)
/-- Write every state entry as zero (R276): stores of the task, refused where R326 refuses them. -/
def View.clearStates (v : View) (part : Nat) (s : State) : State :=
  (v.statePlaces part s).foldl (fun s pa => s.store (leCells pa 16 0)) s

/-- Load the 32-byte pieces that hold n bytes from an address (R276): the address checks and errors of a load. -/
def loadBytes (a n : Nat) (s : State) (k : Nat → State → Out) : Out :=
  loadPieces 32 ((List.range ((a % 32 + n + 31) / 32)).map fun j => BitVec.ofNat 64 (a / 32 * 32 + 32 * j)) s k

/-- The sixteen entries of a codebook. -/
def codebookOf (n : Nat) : List W16 := (List.range 16).map fun k => BitVec.ofNat 16 (n / 2 ^ (16 * k))

/-- Die whose Ferry derives a block: the one that holds the master block's home. -/
def View.die (v : View) (row blk : Nat) : Nat :=
  match masterPa (v.masterVa row blk) v.master with
  | some g => if isSram g then (if 0xF80000000000 ≤ g then (g - 0xF80000000000) / 0x200000 / 24 else (g - 0xF00000000000) / 0x800000 / 128)
              else g / 0x3000000000
  | none => 0
/-- Derivations that a die's Ferry has in flight. -/
def State.ferryLoad (s : State) (die : Nat) : Nat :=
  (s.parts.vals.flatMap fun p => p.views.vals.flatMap fun v => v.deriving_.filter fun d => v.die d.1 d.2.1 == die).length

/-- A pending block: its partition, its view, and the row, block and stamp. -/
abbrev Pend := Nat × Nat × Nat × Nat × Nat
/-- Of two pending blocks the one that became pending first (R280); blocks of one registration in their order (R276). -/
def firstPend (a b : Option Pend) : Option Pend :=
  match a, b with
  | some (p, i, r, k, n), some (q, j, r', k', n') =>
    if n < n' ∨ (n = n' ∧ (r < r' ∨ (r = r' ∧ k ≤ k'))) then some (p, i, r, k, n) else some (q, j, r', k', n')
  | none, b => b
  | a, none => a
/-- The block that a die's Ferry takes next (R280), of partitions that no resize holds (R350). -/
def State.nextPending (s : State) (die : Nat) : Option Pend :=
  s.parts.foldl (fun o (p : Nat × Part) =>
    if p.2.held then o
    else p.2.views.foldl (fun o (v : Nat × View) =>
      v.2.pending.foldl (fun o d => if v.2.die d.1 d.2.1 == die then firstPend o (some (p.1, v.1, d)) else o) o) o) none
/-- A die's Ferry looks for its next block. -/
def State.kickFerry (s : State) (die : Nat) : State :=
  match s.nextPending die with
  | some (p, i, r, k, _) =>
    let e : Event := .derive p i r k
    if s.sched.any (·.2 == e) then s else s.at_ 1 e
  | none => s
def State.kickFerries (s : State) : State := (List.range 4).foldl State.kickFerry s

/-- VIEWREG once the descriptor, table and codebook are loaded and legal (R276): the pages, the id, the coverage; then it is
done, as a release (R262), once no unit under test serves a state entry (R223, R313). -/
def viewRegister (rd : Reg) (v : View) (s : State) : Out :=
  orTrap (masterPieces v.masterRanges s) fun (m, s1) =>
    orTrap (viewPages v.storageRanges s1) fun s2 =>
      let p := s2.part s2.t.part
      match (List.range 256).find? fun i => (p.views.find i).isNone with
      | none => finX rd (BitVec.allOnes 64) s2
      | some id =>
        let v := { v with master := m, pending := v.blocks.map fun (b : Nat × Nat) => (b.1, b.2, s2.stamp) }
        if v.tooMany s2 then finX rd (BitVec.allOnes 64 - 1) s2
        else if (v.statePlaces s2.t.part s2).any fun pa => s2.underTest pa 16 then stall s2
        else released s2 fun s2 =>
          let s3 := (v.clearStates s2.t.part s2).bump
          let s4 := s3.setPart s3.t.part { s3.part s3.t.part with views := (s3.part s3.t.part).views.put id v }
          finX rd (BitVec.ofNat 64 id) s4.kickFerries

/-- VIEWREG (R276): the descriptor and the shard table are loaded, then every field is checked, then the codebook. -/
def execViewreg (rd ra : Reg) (s : State) : Out :=
  gate (.viewreg rd ra) s fun s =>
    let a := s.xr ra
    noCompute a s fun s => loadDesc a s fun n s1 =>
      loadBytes (descWord n 5) (32 * (bitsOf (descWord n 3) 44 4 + 1)) s1 fun tab s2 =>
        let v := View.of n tab [] s.t.core
        if !viewOk n tab v then raiseAfter .illegal a s s2
        else if v.vf = 8 then
          loadBytes (descWord n 4) 32 s2 fun c s3 =>
            if cbOk (codebookOf c) then viewRegister rd { v with cb := codebookOf c } s3 else raiseAfter .illegal a s s3
        else viewRegister rd v s2

/-- A VLDV of the partition on the view is executing (R277). -/
def State.viewRead (s : State) (part id : Nat) : Bool :=
  s.allTasks.any fun t => t.part == part && t.seq.wait.isSome && (match t.seq.head.bind (·.word?) with
    | some (e, _) => (match e.i with | .vldv .. => e.a == BitVec.ofNat 64 id | _ => false)
    | none => false)

def State.setView (s : State) (part id : Nat) (v : View) : State :=
  s.setPart part { s.part part with views := (s.part part).views.put id v }

/-- VIEWDROP (R277). -/
def execViewdrop (rd ra : Reg) (s : State) : Out :=
  gate (.viewdrop rd ra) s fun s => noCompute 0 s fun s =>
    let p := s.t.part
    let id := (s.xr ra).toNat
    match if 255 < id then none else (s.part p).views.find id with
    | none => finX rd 1 s
    | some v =>
      if s.viewRead p id ∨ !v.deriving_.isEmpty ∨ !v.stopped.isEmpty then
        stall (s.setView p id { v with closed := true })
      else finX rd 0 (s.setPart p { s.part p with views := (s.part p).views.del id }).kickFerries

/-- VIEWST (R278). -/
def execViewst (rd ra rb : Reg) (s : State) : Out :=
  gate (.viewst rd ra rb) s fun s => noCompute 0 s fun s => drained s fun s =>
    let p := s.part s.t.part
    let id := s.xr ra
    let q := s.xr rb
    let sel : Fin 4 := Fin.ofNat 4 q.toNat
    let clear := q.getLsbD 8
    let bad := decide (q.toNat / 2 ^ 9 ≠ 0 ∨ bitsOf q.toNat 2 6 ≠ 0)
    if id = BitVec.allOnes 64 then
      if bad then raise .illegal q s
      else finX rd (p.viewTotals.get sel)
        (if clear then s.setPart s.t.part { p with viewTotals := p.viewTotals.set sel 0 } else s)
    else match if 255 < id.toNat then none else p.views.find id.toNat with
      | none => raise .illegal id s
      | some v =>
        if bad then raise .illegal q s
        else finX rd (v.counters.get sel)
          (if clear then s.setView s.t.part id.toNat { v with counters := v.counters.set sel 0 } else s)

/-! ## Derivation (R279, R280) -/

/-- Cycles of a derivation (R280): 48, and the paths to the master block and to the block's state entry, from the die's first
cluster (log 5). -/
def State.deriveCycles (s : State) (part : Nat) (v : View) (row blk : Nat) : Nat :=
  let c := 1024 * v.die row blk
  48 + ((v.granules row blk).map (s.pathLatency c)).foldl Nat.max 0
    + ((((shardOf row v.shards).bind fun h => s.viewPa part (v.stateVa h row blk)).map (s.pathLatency c)).getD 0)

/-- DERIVE (R279, R280): the Ferry starts a pending block, at most 64 in flight, in the order in which they became pending; it
samples MSEQ. A block that is held back is taken when its turn has come. -/
def execDerive (part id row blk : Nat) (s : State) : Out :=
  match (s.part part).views.find id with
  | none => .next s
  | some v =>
    match v.pending.find? fun d => (d.1, d.2.1) == (row, blk) with
    | none => .next s
    | some d =>
      let die := v.die row blk
      if (s.part part).held then .next ((s.kickFerry die).at_ 8 (.derive part id row blk))
      else if s.nextPending die ≠ some (part, id, d) ∨ 64 ≤ s.ferryLoad die then .next s
      else
        let v' := { v with pending := v.pending.filter (· != d), deriving_ := v.deriving_ ++ [(row, blk, s.blockSeq v row blk)] }
        .next (((s.setView part id v').after (.die die) (s.deriveCycles part v row blk) (.publication part id row blk)).kickFerry die)

/-- Physical place of a storage byte, by the Ferry, with what its walk has initialised (R285). -/
def State.ferryAt (s : State) (part va : Nat) : Except EFault (Nat × State) :=
  match s.engineAt part va 1 {} with
  | .ok (.at pa, .view, s') => .ok (pa, s')
  | .ok (_, _, s') => .error ⟨some .access, va, s', none⟩
  | .error m => .error ⟨m.cause, va, m.s, m.err⟩

/-- Cells of one element of slot t: a nibble keeps the byte's other half. -/
def View.elemCells (v : View) (part : Nat) (h : Shard) (t r c code : Nat) (s : State) : Except EFault (List (Nat × Byte) × State) :=
  let bit := v.bitOffset h r c
  let va := h.vbase + t * v.slotBytes h + bit / 8
  match s.ferryAt part va with
  | .error e => .error e
  | .ok (pa, s) =>
    if v.ebits = 4 then
      let old := (s.byteAt pa).toNat
      .ok ([(pa, BitVec.ofNat 8 (if bit % 8 = 0 then old / 16 * 16 + code % 16 else old % 16 + 16 * (code % 16)))], s)
    else .ok (leCells pa (v.ebits / 8) code, s)

/-- Write a block's codes into slot t, element by element. -/
def View.writeCodes (v : View) (part : Nat) (h : Shard) (t r : Nat) : Nat → List Nat → State → Except EFault (State × Bool)
  | _, [], s => .ok (s, false)
  | c, q :: l, s =>
    match v.elemCells part h t r c q s with
    | .error e => .error e
    | .ok (cells, s) =>
      let w := s.storeCells cells
      match View.writeCodes v part h t r (c + 1) l w.1 with
      | .error e => .error e
      | .ok (s', b) => .ok (s', b || w.2)

/-- Cells of a whole block laid out contiguously, where its storage translates as one granule run. -/
def View.blockCells (v : View) (part : Nat) (h : Shard) (t r c : Nat) (codes : List Nat) (s : State) : Option (List (Nat × Byte) × State) :=
  if v.layout = 1 then none
  else
    let va := h.vbase + t * v.slotBytes h + v.bitOffset h r c / 8
    match s.ferryAt part va with
    | .ok (pa, s) => some (leCells pa (4 * v.ebits) (packCodes v.ebits codes), s)
    | .error _ => none

/-- Write a block into slot t: contiguous layouts as one write, so that whole code words are written fresh (R326). -/
def View.writeBlock (v : View) (part : Nat) (h : Shard) (t r c : Nat) (codes : List Nat) (s : State) : Except EFault (State × Bool) :=
  match v.blockCells part h t r c codes s with
  | some (cells, s) => .ok (s.storeCells cells)
  | none => v.writeCodes part h t r c codes s

/-- Write a block's state entry in one step. -/
def State.setBlock (s : State) (pa : Nat) (b : BlockState) : State × Bool :=
  s.storeCells (leCells pa 8 b.words.1 ++ leCells (pa + 8) 8 b.words.2)

/-- The derivation of a block ends: it leaves the list; if MSEQ has moved on it is derived again (R279). -/
def State.endDerive (s : State) (part id row blk m : Nat) (again : Bool) : State :=
  match (s.part part).views.find id with
  | none => s
  | some v =>
    let v' := { v with deriving_ := v.deriving_.filter fun d => (d.1, d.2.1) != (row, blk) }
    let s' := match if again && s.blockSeq v row blk != m then v'.pend (row, blk) s.stamp else none with
      | some w => (s.bump.setView part id w).at_ 1 (.derive part id row blk)
      | none => s.setView part id v'
    s'.kickFerry (v.die row blk)

/-- Fault(block) (R279). -/
def State.faultBlock (s : State) (pa : Nat) (b : BlockState) : State := (s.setBlock pa { b with faulted := true }).1

/-- The Ferry's report of a memory error (R279). -/
def State.ferryMemErr (s : State) (part id : Nat) (v : View) (row blk : Nat) : State :=
  s.engineMemErr (v.die row blk) part v.core id 0

/-- A translation failure stops the derivation with a ring slot (R279, R193); while the ring is full it waits. -/
def State.ferryStop (s : State) (part id row blk : Nat) (v : View) (m : Nat) (write : Bool) (c : Cause) (va : Nat) : State :=
  match s.ringFault (v.die row blk) part 4 v.core id 0 write va c with
  | none => s.at_ 16 (.publication part id row blk)
  | some (n, s1) =>
    let s2 := s1.endDerive part id row blk m false
    match (s2.part part).views.find id with
    | none => s2
    | some w => s2.setView part id { w with stopped := w.stopped ++ [(row, blk, n)] }
/-- An access of a derivation is not made (R279, R287): it waits for a unit under test, is reported as a memory error, or stops
the derivation. An error in a table ends it without marking the block, whose entry the Ferry could not reach (DESIGN CHOICE, log 71). -/
def State.ferryMiss (s : State) (part id row blk : Nat) (v : View) (m : Nat) (write : Bool) (f : EFault) : State :=
  match f.cause with
  | none => f.s.at_ 16 (.publication part id row blk)
  | some .memerr => ((f.s.metError f.err).ferryMemErr part id v row blk).endDerive part id row blk m true
  | some c => f.s.ferryStop part id row blk v m write c f.va

/-- The bytes of a master block as the Ferry reads them (R279, R287): none at a memory error. -/
def State.masterBytes (s : State) (part : Nat) (v : View) (row blk : Nat) : Except EFault (Option Nat × State) :=
  match s.engPieces part { r := true } (runsOf (bytesFrom (v.masterVa row blk) (32 * v.esize))) with
  | .error f => .error f
  | .ok (ps, s1) =>
    let l := (s1.engRead ps).map (·.2)
    .ok (if l.any Option.isNone then none else some (ofBytes (l.map (·.getD 0))), s1.engMet ps)

/-- PUBLICATION (R279): the derived block goes into the inactive slot and its scale, then VTAG, SLOT, BORN and FAULTED
in one step; or the block is marked FAULTED. -/
def execPublication (part id row blk : Nat) (s : State) : Out :=
  match (s.part part).views.find id with
  | none => .next s
  | some v =>
    match v.deriving_.find? fun d => (d.1, d.2.1) == (row, blk), shardOf row v.shards with
    | some d, some h =>
      let m := d.2.2
      match s.ferryAt part (v.stateVa h row blk) with
      | .error f => .next (s.ferryMiss part id row blk v m true f)
      | .ok (pa, s) =>
        let b := BlockState.ofWords (s.loadLE pa 8) (s.loadLE (pa + 8) 8)
        match s.masterBytes part v row blk with
        | .error f => .next (s.ferryMiss part id row blk v m false f)
        | .ok (bytes, s) =>
          let fault (s : State) (err : Bool) : Out :=
            let s := s.faultBlock pa b
            .next ((if err then s.ferryMemErr part id v row blk else s).endDerive part id row blk m true)
          match v.deriveBytes bytes with
          | .fault => fault s false
          | .memErr => fault s true
          | .ok sc codes =>
            let t := 1 - b.slot
            match v.writeBlock part h t (row - h.firstRow) (32 * blk) codes s with
            | .error f => .next (s.ferryMiss part id row blk v m true f)
            | .ok (s1, true) => fault s1 true
            | .ok (s1, false) =>
              let r := s1.setBlock pa ⟨m, true, false, t, if t = 0 then sc else b.sc0, if t = 1 then sc else b.sc1⟩
              if r.2 then fault r.1 true else .next (r.1.endDerive part id row blk m true)
    | _, _ => .next s

/-- A RESUME reaches the stopped derivations of a view (R194, R279): each retries, or with ABANDON ends as Fault(block). -/
def resumeBlocks (part id : Nat) : List (Nat × Nat × Nat) → State → State
  | [], s => s
  | (row, blk, n) :: r, s =>
    let q := s.ringTake part n
    let s := match (q.2.part part).views.find id with
      | none => q.2
      | some v =>
        let v' := { v with stopped := v.stopped.filter fun d => (d.1, d.2.1) != (row, blk) }
        if q.1 then
          let s := q.2.setView part id v'
          match (shardOf row v.shards).map fun h => s.ferryAt part (v.stateVa h row blk) with
          | some (.ok (pa, s)) => s.faultBlock pa (BlockState.ofWords (s.loadLE pa 8) (s.loadLE (pa + 8) 8))
          | _ => s
        else (q.2.bump.setView part id { v' with pending := v'.pending ++ [(row, blk, q.2.stamp)] }).at_ 1 (.derive part id row blk)
    resumeBlocks part id r s
/-- Resume the Ferry for view `id` of a partition's registering core, if it has stopped derivations. -/
def State.resumeFerry (s : State) (part core id : Nat) : Option State :=
  match (s.part part).views.find id with
  | some v => if v.core = core ∧ !v.stopped.isEmpty then some (resumeBlocks part id v.stopped s) else none
  | none => none

/-! ## VLDV (R281, R282) -/

/-- The stronger of two policies: take, wait, mst. -/
def polRank : ViewPol → Nat
  | .take => 0 | .wait => 1 | .mst => 2
def stronger (a b : ViewPol) : ViewPol := if polRank a < polRank b then b else a

/-- Read n bytes of view storage or state for the task; an error there is MEMERR with its granule (R281). Absent or evicted bytes
are zero, and the row or block that they met is counted (R293, R296). -/
def viewLoad (va n : Nat) (s : State) : Except Miss ((Nat × List Place) × State) :=
  match s.locate (BitVec.ofNat 64 va) n { r := true } with
  | .error m => .error m
  | .ok (l, s') =>
    match l.place with
    | .at pa => (s'.granuleOk (BitVec.ofNat 64 va) pa n).map fun s' => ((s'.loadLE pa n, []), s')
    | p => .ok ((0, [p]), s')

/-- What of a block was not there (R293, R296): the places met, and the elements that they would have given. -/
structure Gone where
  places : List Place := []
  elems : List Nat := []
def Gone.add (a b : Gone) : Gone := ⟨a.places ++ b.places, a.elems ++ b.elems⟩

/-- The codes of k elements of a block's slot from its element j, which stands in column c. -/
def View.loadCodes (v : View) (h : Shard) (t r : Nat) : Nat → Nat → Nat → State → Except Miss (List Nat × Gone × State)
  | _, _, 0, s => .ok ([], {}, s)
  | c, j, k + 1, s =>
    let bit := v.bitOffset h r c
    match viewLoad (h.vbase + t * v.slotBytes h + bit / 8) (Nat.max 1 (v.ebits / 8)) s with
    | .error e => .error e
    | .ok ((x, g), s') =>
      let code := if v.ebits = 4 then (if bit % 8 = 0 then x % 16 else x / 16) else x
      match View.loadCodes v h t r (c + 1) (j + 1) k s' with
      | .error e => .error e
      | .ok (l, q, s'') => .ok (code :: l, Gone.add ⟨g, if g.isEmpty then [] else [j]⟩ q, s'')

/-- The bytes of a master block as the task reads them, and what of them was not there: no bytes at a memory error, the place of
which it leaves to be tested. -/
def View.masterLoad (v : View) (row blk : Nat) (s : State) : Except Miss (Option Nat × Gone × State) :=
  match s.locatePieces 64 64 { r := true } .plain ((List.range (v.esize / 2)).map fun k => BitVec.ofNat 64 (v.masterVa row blk + 64 * k)) with
  | .error m => .error m
  | .ok (ps, s1) =>
    match s1.piecesOk 64 ps with
    | .error m => .ok (none, {}, m.s.metError m.err)
    | .ok s2 =>
      let s2 := flushPieces 64 ps s2
      let n := 64 / v.esize
      let gone := ps.zipIdx.filter fun p => match p.1.place with | .at _ => false | _ => true
      .ok (some (s2.piecesValue 64 ps), ⟨gone.map (·.1.place), gone.flatMap fun p => (List.range n).map (n * p.2 + ·)⟩, s2)

/-- What a word has counted (R110, R278): stale, fallback and faulted blocks, reserved scales. -/
structure ViewCount where
  stale : Nat := 0
  fallback : Nat := 0
  faulted : Nat := 0
  reserved : Nat := 0
def ViewCount.add (a b : ViewCount) : ViewCount :=
  ⟨a.stale + b.stale, a.fallback + b.fallback, a.faulted + b.faulted, a.reserved + b.reserved⟩

/-- A block as VLDV reads it (R281): its scale, its codes, what it counts, and what of it was not there. -/
structure BlockRead where
  scale : Nat
  codes : List Nat
  count : ViewCount
  gone : Gone
/-- Read one block under a policy (R281). A wait is a miss with no trap. An error in the master is the derivation's Fault, so
VIEWFAULT (DEDUCED, log 58). -/
def View.readBlock (v : View) (h : Shard) (pol : ViewPol) (row blk m : Nat) (s : State) : Except Miss (BlockRead × State) :=
  let mva := BitVec.ofNat 64 (v.masterVa row blk)
  let sva := v.stateVa h row blk
  match viewLoad sva 8 s with
  | .error e => .error e
  | .ok ((s0, g0), st) =>
    match viewLoad (sva + 8) 8 st with
    | .error e => .error e
    | .ok ((s1, g1), st) =>
      let b := BlockState.ofWords s0 s1
      let entry : Gone := ⟨g0 ++ g1, []⟩
      let active (n : ViewCount) : Except Miss (BlockRead × State) :=
        match v.loadCodes h b.slot (row - h.firstRow) (32 * blk) 0 32 st with
        | .error e => .error e
        | .ok (codes, g, st) => .ok (⟨b.scale, codes, n, entry.add g⟩, st)
      if pol = .mst ∨ (pol = .take ∧ !b.born) then
        match v.masterLoad row blk st with
        | .error e => .error e
        | .ok (bytes, g, st) =>
          match v.deriveBytes bytes with
          | .ok sc codes => .ok (⟨sc, codes, { fallback := 1 }, entry.add g⟩, st)
          | _ => st.refuse .viewfault mva
      else if pol = .wait then
        if b.faulted then st.refuse .viewfault mva
        else if b.born && reached b.vtag m then active {} else .error ⟨none, st, none⟩
      else if b.faulted then active { stale := 1, faulted := 1 }
      else active (if reached b.vtag m then {} else { stale := 1 })

/-- BADSCALE of a core rises by the reserved scales it has read (R110). -/
def State.countScales (s : State) (core n : Nat) : State :=
  if n = 0 then s else s.setCore core { s.core core with badscale := (s.core core).badscale + BitVec.ofNat 64 n }

/-- What VLDV has read (R281): the bytes of vd, the words of v(vd+1), the counts, the places that were not there, and the bytes of
vd that they would have given (R293). -/
structure ViewRead where
  bytes : List (Nat × Byte) := []
  scales : List (Nat × Byte) := []
  count : ViewCount := {}
  places : List Place := []
  gone : List Nat := []
/-- Reading the blocks in order. -/
def View.readAll (v : View) (pol : ViewPol) (p : PReg) (row blk0 : Nat) : List Nat → List Nat → State → Except Miss (ViewRead × State)
  | [], _, s => .ok ({}, s)
  | j :: r, ms, s =>
    let bb := 4 * v.ebits
    let next (b : BlockRead) (s : State) : Except Miss (ViewRead × State) :=
      match View.readAll v pol p row blk0 r ms.tail s with
      | .error x => .error x
      | .ok (q, s') => .ok ({
          bytes := ((leBytes bb (packCodes v.ebits b.codes)).zipIdx.map fun q => (bb * j + q.2, q.1)).filter (fun q => p.getLsbD q.1) ++ q.bytes
          scales := ((leBytes 4 b.scale).zipIdx.map fun q => (4 * j + q.2, q.1)) ++ q.scales
          count := b.count.add q.count
          places := b.gone.places ++ q.places
          gone := (b.gone.elems.flatMap fun k => (List.range (Nat.max 1 (v.ebits / 8))).map (bb * j + k * v.ebits / 8 + ·)) ++ q.gone }, s')
    if v.cols / 32 ≤ blk0 + j then next ⟨0, [], {}, {}⟩ s
    else match shardOf row v.shards with
      | none => .error ⟨none, s, none⟩
      | some h => match v.readBlock h pol row (blk0 + j) (ms.headD 0) s with
        | .error m => .error m
        | .ok (b, s') => next { b with count := { b.count with reserved := if scaleReserved b.scale then 1 else 0 } } s'

/-- Add a word's counts to its view and the partition totals in one step (R278). -/
def State.countView (s : State) (part id : Nat) (n : ViewCount) (waited : Nat) : State :=
  let add (c : Vector W64 4) : Vector W64 4 :=
    #v[c.get 0 + BitVec.ofNat 64 n.stale, c.get 1 + BitVec.ofNat 64 waited, c.get 2 + BitVec.ofNat 64 n.fallback,
       c.get 3 + BitVec.ofNat 64 n.faulted]
  let p := s.part part
  s.setPart part { p with viewTotals := add p.viewTotals, views := match p.views.find id with
    | some v => p.views.put id { v with counters := add v.counters }
    | none => p.views }

/-- Latency of a block's read (R282): the path to its storage and 8 cycles, for a read of the master that path and 24 more. -/
def View.latency (v : View) (part row blk fallback core : Nat) (s : State) : Nat :=
  let at_ (va : Option Nat) : Nat := ((va.bind (s.viewPa part)).map (s.pathLatency core)).getD 0
  at_ ((shardOf row v.shards).map fun h => v.stateVa h row blk) + 8 + if fallback = 0 then 0 else at_ (some (v.masterVa row blk)) + 24

/-- VLDV at execution (R281, R282); what was not there reads as zero, leaves pg and is counted (R293). -/
def runVldv (vr : Reg) (pg : Pg) (pol : ViewPol) (e : Entry) (s : State) : VRes :=
  let id := e.a.toNat
  let q := e.b.toNat
  let row := q / 2 ^ 32
  let col := q % 2 ^ 32
  match if 255 < id then none else (s.part s.t.part).views.find id with
  | none => .trap .illegal e.a none
  | some v =>
    if v.closed && s.t.seq.wait.isNone then .trap .illegal e.a none
    else if v.rows ≤ row ∨ v.cols ≤ col ∨ col % 32 ≠ 0 then .trap .illegal e.b none
    else
      let pol := stronger pol ((ViewPol.ofCode? v.dpol).getD .mst)
      let bb := 4 * v.ebits
      let p := s.pr pg
      let js := (List.range v.nb).filter fun j => decide (bitsOf p.toNat (bb * j) bb ≠ 0)
      let w := s.t.seq.wait.getD { since := s.tclock, marks := js.map fun j => s.blockSeq v row (col / 32 + j) }
      match v.readAll pol p row (col / 32) js w.marks s with
      | .error ⟨none, s', _⟩ => .wait { s' with t := { s'.t with seq := { s'.t.seq with wait := some w } } }
      | .error m => .miss m
      | .ok (q, s') =>
        let n := q.count
        let r2 : Reg := Fin.ofNat 32 (vr.val + 1)
        let s' := ((s'.meetAbsent (absents q.places)).countView s'.t.part id n (s.tclock - w.since)).countScales s'.t.core n.reserved
        let s' := if q.gone.isEmpty then s' else s'.pw pg (p &&& ~~~ pieceBits 1 q.gone)
        let due := s.tissued + v.latency s.t.part row (col / 32) n.fallback s.t.core s
        let s' := (s'.vw vr (vSetBytes (s.vr vr) q.bytes)).vw r2 (vSetBytes (s.vr r2) q.scales)
        .ok { s' with t := { s'.t with seq := { s'.t.seq with ready := readyAt due [vr.val, r2.val] s'.t.seq.ready } } }

/-- VLDV (R281, R179). -/
def execVldv (vr ra rb : Reg) (pg : Pg) (sc : Sc) (pol : ViewPol) (s : State) : Out :=
  gate (.vldv vr ra rb pg sc pol) s fun s => noCompute 0 s fun s =>
    issueV (.vldv vr ra rb pg sc pol) (s.xr ra) (s.xr rb) (runVldv vr pg pol) s

end Sys2Proof.Machine
end

