-- ==== Sys2Proof/Machine/Matrix.lean ====
section
/-! DEFINITION. The matrix unit (R225 to R245): VSTQ, the queues and their arbitration, the commands, their reports. -/

namespace Sys2Proof.Machine

/-! ## The fields of a command (R227, R229) -/

def MCmd.word (c : MCmd) (k : Nat) : Nat := c.w.getD k 0
def MCmd.op (c : MCmd) : Nat := c.word 0 % 256
def MCmd.tag (c : MCmd) : Nat := c.word 0 / 2 ^ 24 % 256
def MCmd.flag (c : MCmd) (k : Nat) : Bool := bitsOf (c.word 0) k 1 == 1
def MCmd.sig (c : MCmd) : Bool := c.flag 8
def MCmd.stats (c : MCmd) : Bool := c.flag 9
def MCmd.nomsg (c : MCmd) : Bool := c.flag 14
def MCmd.bankNo (c : MCmd) : Nat := bitsOf (c.word 0) 17 1
def MCmd.accNo (c : MCmd) : Nat := bitsOf (c.word 0) 16 1
def MCmd.m (c : MCmd) : Nat := bitsOf (c.word 1) 24 8 + 1
def MCmd.n (c : MCmd) : Nat := bitsOf (c.word 1) 16 8 + 1
def MCmd.kb (c : MCmd) : Nat := bitsOf (c.word 1) 0 16
/-- The 64-bit field in words k and k+1; words 10, 11 and 14 stand alone. -/
def MCmd.field (c : MCmd) (k : Nat) : Nat :=
  if k = 10 ∨ k = 11 ∨ k = 14 then c.word k else c.word k + c.word (k + 1) * 2 ^ 32
/-- A format word's codes. -/
def MCmd.af (c : MCmd) : Nat := bitsOf (c.word 1) 0 4
def MCmd.bf (c : MCmd) : Nat := bitsOf (c.word 1) 4 4
/-- The command acts on an accumulator (R230). -/
def MCmd.onAcc (c : MCmd) : Bool := decide (1 ≤ c.op ∧ c.op ≤ 5)

/-- The accumulator is int32 (R229). -/
def FmtCtx.ints (f : FmtCtx) : Bool := f.afmt == 7 && f.bfmt == 7 && !f.ascale && !f.bscale

/-- First words of the address and pitch fields. -/
def mFields : List Nat := [2, 4, 6, 8, 10, 11, 12, 14]
/-- The fields that a command uses (R232). -/
def MCmd.uses (c : MCmd) (f : FmtCtx) : List Nat :=
  (match c.op with
    | 1 => [2, 4, 10, 11] ++ (if f.ascale then [6] else []) ++ (if f.bscale then [8] else [])
    | 2 => [2, 4, 6, 10, 11] ++ (if f.bscale then [8] else [])
    | 4 => [2, 10]
    | 5 => [4, 6, 11]
    | 6 => (if c.af = 8 then [2] else []) ++ (if c.bf = 8 then [4] else [])
    | 8 => [2]
    | 9 => [2, 4, 10, 11]
    | _ => []) ++ (if c.sig then [12, 14] else [])
/-- Bits of w0 that a command may set among bits 15 to 8 (R232). -/
def MCmd.flagsOk (c : MCmd) : List Nat :=
  if c.op = 1 ∨ c.op = 2 then [8, 9, 10, 11, 12, 13, 14] else if c.op = 5 then [8, 9, 14] else [8, 14]
/-- The command's w1 is legal (R229, R232); rows or columns past 128 (R233) are refused with FIELD (DESIGN CHOICE, log 71). -/
def MCmd.w1Ok (c : MCmd) : Bool :=
  match c.op with
  | 1 | 2 => decide (c.m ≤ 128 ∧ c.n ≤ 128 ∧ c.kb ≠ 0)
  | 3 | 4 => decide (c.m ≤ 128 ∧ c.n ≤ 128 ∧ c.kb = 0)
  | 5 => decide (c.m ≤ 128 ∧ c.n ≤ 128 ∧ c.kb < 8)
  | 6 => mfmtOk c.af && mfmtOk c.bf && decide (bitsOf (c.word 1) 10 6 = 0 ∧ bitsOf (c.word 1) 24 8 = 0)
  | 9 => decide (c.kb ≠ 0 ∧ c.word 1 < 2 ^ 16)
  | _ => decide (c.word 1 = 0)

/-- Reasons of a refusal (R242). -/
def rOp : Nat := 1
def rField : Nat := 2
def rFormat : Nat := 3
def rAlign : Nat := 4
def rXlate : Nat := 5
def rAccess : Nat := 6
def rNoctx : Nat := 7
def rTable : Nat := 8
def rBank : Nat := 9

/-- A field that must be zero is not (R227, R232, R233, R236). -/
def MCmd.fieldBad (c : MCmd) (f : FmtCtx) : Bool :=
  ((List.range 8).any fun j => c.flag (8 + j) && !c.flagsOk.contains (8 + j))
    || decide (bitsOf (c.word 0) 18 6 ≠ 0 ∨ c.word 15 ≠ 0)
    || (mFields.any fun k => !(c.uses f).contains k && c.field k != 0)
    || ([2, 4].any fun k => decide (2 ^ 56 ≤ c.field k))
    || decide (6 ≤ c.op ∧ bitsOf (c.word 0) 16 2 ≠ 0) || (c.stats && f.ints) || !c.w1Ok
/-- Alignment of a field (R232). -/
def MCmd.alignOf (c : MCmd) (k : Nat) : Nat := if k = 12 then 8 else if k = 14 then 1 else if c.op = 6 then 32 else 64
/-- The first misaligned field's value, a pitch's too, of which PAGE takes its bits (R242; DESIGN CHOICE for a pitch, log 71). -/
def MCmd.misaligned (c : MCmd) (f : FmtCtx) : Option Nat :=
  ((mFields.filter (c.uses f).contains).find? fun k => c.field k % c.alignOf k != 0).map c.field
/-- A context that the command cannot use (R234, R242): scales on a CB4 operand without a codebook are refused here, at the MMA or MMAG
(DESIGN CHOICE, log 71). -/
def MCmd.formatBad (c : MCmd) (f : FmtCtx) : Bool :=
  (c.op == 2 && f.ascale) || ((c.op == 1 || c.op == 2) &&
    ((f.ascale && f.afmt == 8 && f.acbAt == 0) || (f.bscale && f.bfmt == 8 && f.bcbAt == 0)))
/-- The refusal that a command's own fields bring (R232, R242): reason and address. -/
def MCmd.refusal (c : MCmd) (f : FmtCtx) : Option (Nat × Nat) :=
  if c.op < 1 ∨ 10 < c.op then some (rOp, 0)
  else if c.fieldBad f then some (rField, 0)
  else match c.misaligned f with
    | some a => some (rAlign, a)
    | none =>
      if (c.op = 1 ∨ c.op = 2) ∧ c.bankNo = 1 then some (rBank, 0)
      else if c.formatBad f then some (rFormat, 0)
      else none
/-- TVAL of a MATRIX report (R242). -/
def MCmd.tval (c : MCmd) (reason addr : Nat) : Nat :=
  (if reason = rAlign ∨ reason = rXlate ∨ reason = rAccess then bitsOf addr 16 40 * 2 ^ 24 else 0)
    + reason * 2 ^ 16 + c.op * 2 ^ 8 + c.tag

/-! ## Operands (R228, R241, R245) -/

/-- Why an access of a command is not made: the reason of its refusal (R242), or none where it waits for a unit under test
(R327); the address; the 64 KiB pages translated until then (R226); the state that the walks leave. -/
structure MMiss where
  reason : Option Nat
  addr : Nat
  pages : List Nat
  s : State

/-- Locate pieces of a command's access: a local-window address names the issuing core's vault (R228). -/
def State.mPieces (s : State) (core part : Nat) (need : Need) : List (Nat × Nat) → Except MMiss (List EPiece × State)
  | [] => .ok ([], s)
  | (va, n) :: r =>
    let one : Except MMiss (List EPiece × State) :=
      if va < 0x800000 then
        let pa := vaultBase (clusterOf core) + va
        if s.underTest pa n then .error ⟨none, va, [], s⟩ else .ok ([⟨va, n, some (.at pa, .plain)⟩], s)
      else match s.engPieces part need [(va, n)] with
        | .error e => .error ⟨e.cause.map fun c => if c = .xlate then rXlate else rAccess, e.va, [va / 65536], e.s⟩
        | .ok x => .ok x
    match one with
    | .error e => .error e
    | .ok (ps, s1) =>
      match State.mPieces s1 core part need r with
      | .error e => .error { e with pages := va / 65536 :: e.pages }
      | .ok (qs, s2) => .ok (ps ++ qs, s2)

/-- A byte that the unit has read: its value; under an error; or of an absent row or block (R245, R293). -/
inductive MByte
  | val (b : Byte)
  | bad
  | absent
deriving DecidableEq, Repr
def MByte.toByte : MByte → Byte
  | .val b => b
  | _ => 0
/-- The bytes of located pieces. -/
def State.mBytes (s : State) (ps : List EPiece) : List MByte :=
  ps.flatMap fun p => match p.place with
    | some (.absent _ _, _) => List.replicate p.n .absent
    | _ => match s.engBytes p with
      | some l => l.map .val
      | none => List.replicate p.n .bad

/-- Locate ranges, each cut into pieces. -/
def State.mLocate (s : State) (core part : Nat) : List (Nat × Nat) → Except MMiss (List (List EPiece) × State)
  | [] => .ok ([], s)
  | (va, n) :: r =>
    match s.mPieces core part { r := true } (runsOf (bytesFrom va n)) with
    | .error e => .error e
    | .ok (ps, s1) =>
      match State.mLocate s1 core part r with
      | .error e => .error { e with pages := ps.map (·.va / 65536) ++ e.pages }
      | .ok (qs, s2) => .ok (ps :: qs, s2)
/-- Read ranges: the bytes of each, and the absent rows met. Every page is translated before a byte is read, those of the command's
writes `ws` too (R228); the errors met, each once (R314), start the tests of their units (R328). -/
def State.mRead (s : State) (core part : Nat) (rs ws : List (Nat × Nat)) : Except MMiss (List (List MByte) × List (Nat × Nat) × State) :=
  match s.mLocate core part rs with
  | .error e => .error e
  | .ok (pss, s1) =>
    match s1.mPieces core part { w := true } ws with
    | .error e => .error { e with pages := pss.flatten.map (·.va / 65536) ++ e.pages }
    | .ok (_, s2) => .ok (pss.map s2.mBytes, pss.flatMap engAbsents, s2.engMet pss.flatten)

/-- A read range met an error. -/
def anyBad (l : List MByte) : Bool := l.any (· == .bad)
/-- Bytes of a read range as a number; absent ones are zero, as is a byte under an error where its value has no effect. -/
def dataNat (l : List MByte) : Nat := ofBytes (l.map MByte.toByte)
/-- Bytes under an error take free values (log 4). -/
def freeFill : List MByte → State → List Byte × State
  | [], s => ([], s)
  | .bad :: r, s => let q := freeFill r { s with free := s.free + 1 }; (Config.freeByte s.free :: q.1, q.2)
  | b :: r, s => let q := freeFill r s; (b.toByte :: q.1, q.2)

/-- Latency of the first read of a command (R174, R226). -/
def mLatency (core : Nat) (s : State) (part va : Nat) : Nat :=
  if va < 0x800000 then 14
  else match s.engineGo part va 1 {} with
    | .ok (.at pa, _, _) => s.pathLatency core pa
    | _ => 0
/-- The table entries that a walk reads (R283). -/
def walkReads (m : Memory) (va : Nat) : Nat → List (Nat × Nat × Nat) → List Nat
  | _, [] => []
  | table, (lo, n, _) :: rest =>
    let ea := table + 8 * bitsOf va lo n
    let e := m.readLE ea 8
    ea :: if bitsOf e 0 2 = 1 then walkReads m va (bitsOf e 8 40 * 2 ^ 8) rest else []
/-- Cycles of the walks of some pages, each entry at the path latency of its home (R226, R286). -/
def State.walkCycles (s : State) (core part : Nat) (pages : List Nat) : Nat :=
  (((pages.filter (256 ≤ ·)).eraseDups.flatMap fun p => walkReads s.mem (p * 65536) (s.part part).root walkLevels).map
    (s.pathLatency core)).foldl (· + ·) 0
/-- Cycles per block of 32 (R226). -/
def mRate (f : FmtCtx) : Nat :=
  let r (c : Nat) := if c = 8 then 16 else if c = 1 ∨ c = 2 then 64 else 32
  Nat.max (r f.afmt) (r f.bfmt)
def ceilDiv (a b : Nat) : Nat := (a + b - 1) / b

/-! ## Queues (R225, R230, R237) -/

/-- Entries of a core's queue (R225). -/
def matrixQueue : Nat := 8

/-- Exchange the banks of a core (R237). -/
def Core.swapBanks (k : Core) : Core := { k with bank := k.mitten, mitten := k.bank }
/-- Swaps, explicit and implicit, that stand in a queue and have not yet been made. -/
def Core.swapsAhead (k : Core) : Nat :=
  (k.mq.map fun c => if c.started then 0
    else c.swaps + (if c.op = 7 && (c.refusal k.fmt).isNone then 1 else 0)).foldl (· + ·) 0 + k.mtail
/-- Owners of the active bank and the Mitten as they stand behind the queue. -/
def Core.owners (k : Core) : Option Nat × Option Nat :=
  if k.swapsAhead % 2 = 0 then (k.bank.owner, k.mitten.owner) else (k.mitten.owner, k.bank.owner)
/-- Set the owner of the bank that stands behind the queue as the active one (0) or the Mitten (1). -/
def Core.setOwner (k : Core) (b : Nat) (t : Nat) : Core :=
  if (k.swapsAhead + b) % 2 = 0 then { k with bank := { k.bank with owner := some t } }
  else { k with mitten := { k.mitten with owner := some t } }
/-- Swaps that stand behind the last command are made once the queue is empty (R230). -/
def Core.settleTail (k : Core) : Core :=
  if k.mq.isEmpty then { (if k.mtail % 2 = 1 then k.swapBanks else k) with mtail := 0 } else k

/-- The first address of a list of ranges that reaches outside the local window (R228). -/
def panelBad (l : List (Nat × Nat)) : Option Nat := (l.find? fun r => decide (0x800000 < r.1 + r.2)).map (·.1)
/-- Bytes of a panel: eight fragments of F bytes from a local address (offset, bytes). -/
def panelOf (base pitch f : Nat) : List (Nat × Nat) := (List.range 8).map fun j => (base + j * pitch, f)
/-- The address by which an MXPOSE is refused with ACCESS. -/
def MCmd.xposeBad (c : MCmd) : Option Nat :=
  match panelBad (panelOf (c.field 2) (c.field 10) (64 * c.kb)) with
  | some a => some a
  | none => panelBad (panelOf (c.field 4) (c.field 11) (64 * c.kb))
/-- What a command writes as its signal. -/
def MCmd.sigRange (c : MCmd) : List (Nat × Nat) := if c.sig then [(c.field 12, 8)] else []
/-- What refuses an MXPOSE on its own account: its fields, its panels, its signal's address (R228, R238, R242); with the pages
translated until then. -/
def State.xposeMiss (s : State) (core : Nat) (c : MCmd) : Option (Nat × Nat × List Nat) :=
  match c.refusal (s.core core).fmt with
  | some r => some (r.1, r.2, [])
  | none => match c.xposeBad with
    | some a => some (rAccess, a, [])
    | none => match s.mPieces core c.part { w := true } c.sigRange with
      | .error m => m.reason.map (·, m.addr, m.pages)
      | .ok _ => none

/-- A command may start: its queue's head, and for MXPOSE all eight heads (R225, R238). A refused MXPOSE does not wait
(R240). -/
def State.mReady (s : State) (c : Nat) : Bool :=
  match (s.core c).mq with
  | [] => false
  | h :: _ => !h.started && (h.op != 9 || (s.xposeMiss c h).isSome ||
      ((List.range 8).all fun j =>
        let d := c / 8 * 8 + j
        match (s.core d).mq with
        | g :: _ => g.op == 9 && !g.started && (s.xposeMiss d g).isNone
        | [] => false))

/-- The event that runs a command. -/
def mEvent (op core : Nat) : Event :=
  match op with
  | 1 => .mma core | 2 => .mmag core | 3 => .mzero core | 4 => .mldacc core | 5 => .mstacc core
  | 6 => .mfmt core | 7 => .mswap core | 8 => .mtable core | 9 => .mxpose core | 10 => .msig core
  | _ => .matrixCompletion core

/-- Replace the head command of a core's queue. -/
def State.setHead (s : State) (core : Nat) (c : MCmd) : State :=
  let k := s.core core
  s.setCore core { k with mq := c :: k.mq.tail }

/-- A refused command holds the unit for 2 cycles, and those of the walks and first reads made before the cause was found, and
then reports (R226, R240, R242). -/
def State.mRefuse (s : State) (core : Nat) (c : MCmd) (r : Nat × Nat) (cycles : Nat) : State :=
  (s.setHead core { c with started := true, refused := some (c.tval r.1 r.2) }).after (.issue core) (2 + cycles) (.matrixCompletion core)

/-- The implicit swaps ahead of the head command are made, in no cycle (R230). -/
def Core.headSwaps (k : Core) : Core :=
  match k.mq with
  | [] => k
  | c :: r => { (if c.swaps % 2 = 1 then k.swapBanks else k) with mq := { c with swaps := 0 } :: r }
/-- Cycles until the unit of a cluster may start a command: none while it may start one now, else the next that is not held
(R321, R323, R324). -/
def State.mWait (s : State) (k : Nat) : Nat :=
  if s.goes (8 * k) then 0 else 1

/-- While the unit is idle it starts the head of the next queue that has one to start, after the queue it last served
(R225): for an MXPOSE, which all eight heads run, the queue whose turn it was (DESIGN CHOICE, log 71). -/
def State.mKick (s : State) (k : Nat) : State :=
  let cl := s.cluster k
  if cl.mbusy.isSome || cl.mhold then s
  else match ((List.range 8).map fun j => (cl.mlast + 1 + j) % 8).find? fun j => s.mReady (8 * k + j) with
    | none => s
    | some j =>
      let core := 8 * k + j
      let q := (s.core core).headSwaps
      match q.mq with
      | [] => s
      | c :: _ =>
        let s := (s.setCore core q).setCluster k { cl with mlast := j, mbusy := some j }
        if c.op < 1 ∨ 10 < c.op then s.mRefuse core c (rOp, 0) (s.mWait k) else s.after (.issue core) (s.mWait k) (mEvent c.op core)

/-- The check of R230 and R237 at a VSTQ: the core with its owners, and the swaps ahead of the command; none refuses
with NOCTX. -/
def Core.accept (k : Core) (c : MCmd) (t : Nat) (sup : Bool) : Option (Core × Nat) :=
  let o := k.owners
  if c.onAcc then
    if sup then some (k.setOwner c.bankNo t, k.mtail)
    else if c.bankNo = 1 then (if o.2 = some t then some (k, k.mtail) else none)
    else if o.1 = some t ∨ o.1 = none then some (k.setOwner 0 t, k.mtail)
    else if o.2 = some t ∨ o.2 = none then some (k.setOwner 1 t, k.mtail + 1)
    else none
  else if c.op = 7 ∧ !sup ∧ o.1 ≠ some t ∧ o.2 ≠ some t then none
  else some (k, k.mtail)

/-- Sixteen words of a 64-byte number. -/
def words32 (n : Nat) : List Nat := (List.range 16).map fun k => bitsOf n (32 * k) 32

/-- VSTQ at execution (R183, R230, R244): the pending report, the checks, the wait for an entry, the owners, the queue. -/
def runVstq (vr : Reg) (e : Entry) (s : State) : VRes :=
  match s.t.matrixReport with
  | some (c, tv, rec) => .trap c tv (if c = .nonfinite then some rec else none)
  | none =>
    if e.a ≠ 0x800000 then .trap .access e.a none
    else if 3 < e.b.toNat then .trap .illegal e.b none
    else
      let core := s.t.core
      let k := s.core core
      if matrixQueue ≤ k.mq.length ∨ s.ownHeld = true then .wait s
      else
        let c : MCmd := { w := words32 (bitsOf (s.vr vr).toNat (512 * e.b.toNat) 512), task := s.t.tid, part := s.t.part,
                          exact := e.exact, apx := e.apx, nft := e.nft }
        match k.accept c s.t.tid s.t.st.s with
        | none => .trap .matrix (BitVec.ofNat 64 (c.tval rNoctx 0)) none
        | some (k', sw) =>
          let s := s.flush 0 (2 ^ 48)
          let s := s.setCore core { k' with mq := k'.mq ++ [{ c with swaps := sw }], mtail := 0 }
          .ok ((s.countSent core).mKick (clusterOf core))

/-- VSTQ (R179, R183): PHASE is checked at issue. -/
def execVstq (vr ra rb : Reg) (s : State) : Out :=
  gate (.vstq vr ra rb) s fun s => noCompute (s.xr ra) s fun s =>
    issueV (.vstq vr ra rb) (s.xr ra) (s.xr rb) (runVstq vr) s

/-- Pre-emption: a swap behind the victim's commands if it owns the active bank (R28, R230). -/
def State.mPreempt (s : State) (core tid : Nat) : State :=
  let k := s.core core
  if k.owners.1 = some tid then s.setCore core ({ k with mtail := k.mtail + 1 }.settleTail) else s
/-- DONE: the task owns no bank any more; contents stay (R230). -/
def Core.disown (k : Core) (tid : Nat) : Core :=
  let f (b : Bank) : Bank := if b.owner = some tid then { b with owner := none } else b
  { k with bank := f k.bank, mitten := f k.mitten }

/-! ## Running a command -/

/-- What a command's own part gives: a refusal of its own, with the cycles that finding it took; an access that is not made,
after some cycles; nothing yet; or the command's record, the cycles until its operands are consumed, the cycles until it
completes, and the state. -/
inductive MRun
  | refuse (reason addr cycles : Nat) (s : State)
  | miss (m : MMiss) (cycles : Nat)
  | later
  | done (c : MCmd) (consumed total : Nat) (s : State)

/-- An access of the head command is not made: it is refused, or tries again (R228, R242, R327). -/
def State.mMiss (s : State) (op core : Nat) (c : MCmd) (m : MMiss) (cycles : Nat) : State :=
  match m.reason with
  | some r => m.s.mRefuse core c (r, m.addr) (cycles + s.walkCycles core c.part m.pages)
  | none => m.s.after (.issue core) 16 (mEvent op core)

/-- Run the head command of a core's queue if it is this op's turn: its fields, then its accesses, then the signal's
(R228, R242), then its effect. -/
def mCommand (op core : Nat) (f : FmtCtx → MCmd → State → MRun) (s : State) : Out :=
  let k := s.core core
  match k.mq with
  | [] => .next s
  | c :: _ =>
    if c.started ∨ c.op ≠ op ∨ (s.cluster (clusterOf core)).mbusy ≠ some (core % 8) then .next s
    else match c.refusal k.fmt with
      | some r => .next (s.mRefuse core c r 0)
      | none =>
        match f k.fmt c s with
        | .refuse r a n s' => .next (s'.mRefuse core c (r, a) n)
        | .miss m n => .next (s.mMiss op core c m n)
        | .later => .next (s.after (.issue core) 16 (mEvent op core))
        | .done c' used total s' =>
          let s' := s'.setHead core { c' with started := true }
          let s' := if op = 1 ∨ op = 2 then s'.after (.issue core) used (.mops core) else s'
          .next (s'.after (.issue core) total (.matrixCompletion core))
/-- A command whose one access is its signal's (R228). -/
def mAlone (core : Nat) (c : MCmd) (s : State) (f : State → MRun) : MRun :=
  match s.mPieces core c.part { w := true } c.sigRange with
  | .error m => .miss m 0
  | .ok (_, s1) => f s1

/-- Absent rows met by a command: each counts once (R293). -/
def mMeet (ab : List (Nat × Nat)) (s : State) : State := countAbsents ab.eraseDups s

/-- Put an accumulator back. -/
def State.setAcc (s : State) (core : Nat) (c : MCmd) (a : Acc) : State :=
  let k := s.core core
  s.setCore core (if c.bankNo = 0 then { k with bank := k.bank.setAcc c.accNo a } else { k with mitten := k.mitten.setAcc c.accNo a })
def State.acc (s : State) (core : Nat) (c : MCmd) : Acc :=
  let k := s.core core
  (if c.bankNo = 0 then k.bank else k.mitten).acc c.accNo

/-- The failing region of an operand error (R245). -/
def Acc.poison (a : Acc) (ints : Bool) (m n : Nat) : Acc :=
  let a := a.mapAt (fun _ _ _ => if ints then 0 else canonNaN .fp32) (region m n)
  if ints then { a with sat := true } else a

/-- Entry of a core's statistics buffer, by slot mod 256. -/
def State.sb (s : State) (core k : Nat) : StatEntry := (s.core core).stats.getD (k % 256) {}
def State.setSb (s : State) (core k : Nat) (e : StatEntry) : State :=
  s.setCore core { s.core core with stats := (s.core core).stats.put (k % 256) e }

/-- Apply SHIFT to the first m rows, all 128 columns (R233). -/
def shiftRows (core base : Nat) : Nat → Acc → State → Acc × State
  | 0, a, s => (a, s)
  | m + 1, a, s =>
    let q := shiftRows core base m a s
    let e := q.2.sb core (base + m)
    (q.1.mapAt (fun _ _ x => shiftWord e.shift.toInt x) ((List.range 128).map fun j => (m, j)), q.2.setSb core (base + m) { e with shift := 0 })

/-- Element codes of one packed row of n elements (R233). A CB4 element of an absent row or block reads as +0, whatever the
codebook (R293): its code is `cbAbsent`. -/
def codesOf (fmt n : Nat) (l : List MByte) : List Nat :=
  let row := dataNat l
  (List.range n).map fun k =>
    if fmt = 8 ∧ l[k / 2]? = some .absent then cbAbsent else bitsOf row (mbits fmt * k) (mbits fmt)
/-- Bytes of n packed elements. -/
def packedBytes (fmt n : Nat) : Nat := ceilDiv (n * mbits fmt) 8
/-- S20 words of a row of kb blocks. -/
def scalesOf (kb row : Nat) : List Nat := (List.range kb).map fun b => bitsOf row (32 * b) 20

/-- The operands of an MMA as rows of A and columns of B: element codes and scale words. -/
structure MOps where
  a : List (List Nat × List Nat)
  b : List (List Nat × List Nat)
deriving DecidableEq, Repr

/-- Ranges of B: columns under TRANSB, rows otherwise (R233). -/
def MCmd.bRanges (c : MCmd) (f : FmtCtx) : List (Nat × Nat) :=
  if c.flag 12 then (List.range c.n).map fun j => (c.field 4 + j * c.field 11, packedBytes f.bfmt (32 * c.kb))
  else (List.range (32 * c.kb)).map fun k => (c.field 4 + k * c.field 11, packedBytes f.bfmt c.n)
/-- Columns of B as codes. -/
def MCmd.bCodes (c : MCmd) (f : FmtCtx) (rows : List (List MByte)) : List (List Nat) :=
  if c.flag 12 then rows.map (codesOf f.bfmt (32 * c.kb))
  else
    let rs := rows.map (codesOf f.bfmt c.n)
    (List.range c.n).map fun j => rs.map fun r => r.getD j 0
/-- Scale ranges of n rows or columns. -/
def scaleRanges (on : Bool) (base kb n : Nat) : List (Nat × Nat) :=
  if on then (List.range n).map fun i => (base + 4 * (i * kb), 4 * kb) else []

/-- The first non-finite element: lowest block, then row, then column (R119). -/
def firstNf (l : List (Nat × Nat × Nat × Nat)) : Option (Nat × Nat × Nat) :=
  (l.foldl (fun (b : Option (Nat × Nat × Nat × Nat)) x =>
    match b with
    | none => some x
    | some y => if x.1 < y.1 then some x else some y) none).map (·.2)

/-- The accumulator after the sums of a region (R115, R116), saturation, and the non-finite elements as (block, value,
row, column) in row order. -/
def mSums (c : MCmd) (ints apx : Bool) (a b : List MVec) (ca cb : List (List Nat)) :
    List (Nat × Nat) → Acc → Acc × Bool × List (Nat × Nat × Nat × Nat)
  | [], acc => (acc, false, [])
  | (i, j) :: r, acc =>
    if ints then
      let x := sumInts (ca.getD i []) (cb.getD j []) 0 c.kb (acc.word i j) false
      let q := mSums c ints apx a b ca cb r (acc.setWord i j x.1)
      (q.1, x.2 || q.2.1, q.2.2)
    else
      let z : MVec := ⟨[], [], 0⟩
      let x := sumBlocks (c.flag 11) apx (a.getD i z) (b.getD j z) 0 c.kb (acc.word i j) none
      let q := mSums c ints apx a b ca cb r (acc.setWord i j x.1)
      (q.1, q.2.1, (match x.2 with | some (k, v) => [(k, v, i, j)] | none => []) ++ q.2.2)

/-- Count the replaced elements of each row of A (R231). -/
def countRows : List MVec → Nat → Acc → Acc
  | [], _, a => a
  | v :: r, i, a => countRows r (i + 1) (a.countRow i v.count)

/-- The effect of an MMA or MMAG whose operands have been read (R233, R243, R245). -/
def mAccumulate (core : Nat) (f : FmtCtx) (c : MCmd) (rows bs : List (List MByte)) (as_ bss : List Nat) (bad : Bool)
    (s : State) : MCmd × State :=
  let scA (i : Nat) := if f.ascale && c.op = 1 then scalesOf c.kb (as_.getD i 0) else List.replicate c.kb scaleOne
  let scB (j : Nat) := if f.bscale then scalesOf c.kb (bss.getD j 0) else List.replicate c.kb scaleOne
  let ca := rows.map (codesOf f.afmt (32 * c.kb))
  let cb := c.bCodes f bs
  let bads := ((((List.range c.m).flatMap scA) ++ ((List.range c.n).flatMap scB)).filter scaleReserved).length
  let s := s.countScales core bads
  let q := if c.stats then shiftRows core f.statBase c.m (s.acc core c) s else (s.acc core c, s)
  let acc := q.1
  let s := q.2
  if bad then ({ c with memErr := true, sat := f.ints }, s.setAcc core c (acc.poison f.ints c.m c.n))
  else
    let a := ca.zipIdx.map fun r => MVec.of (c.flag 10) f.afmt f.acb r.1 (scA r.2)
    let b := cb.zipIdx.map fun r => MVec.of (c.flag 10) f.bfmt f.bcb r.1 (scB r.2)
    let r := mSums c f.ints (c.apx && !c.exact) a b ca cb (region c.m c.n) acc
    let tb := b.foldl (fun n v => n + v.count) 0
    let acc := countRows a 0 r.1
    let acc := { acc with btot := acc.btot + BitVec.ofNat 64 tb, sat := acc.sat || r.2.1 }
    let nf := if c.nft then firstNf r.2.2 else none
    ({ c with sat := r.2.1, nan := (a ++ b).any (fun v => v.count != 0), nf := nf, fmts := (f.afmt, f.bfmt) }, s.setAcc core c acc)

/-- MMA and MMAG once the rows of A are known: read everything, accumulate (R233, R234, R226). `more` is the gather's cycles,
`before` those of what has been read already. -/
def mProduct (core : Nat) (f : FmtCtx) (c : MCmd) (rowsAt : List Nat) (more before : Nat) (bad0 : Bool) (ab0 : List (Nat × Nat))
    (s : State) : MRun :=
  let ra := rowsAt.map fun a => (a, packedBytes f.afmt (32 * c.kb))
  let rb := c.bRanges f
  let as_ := scaleRanges (f.ascale && c.op == 1) (c.field 6) c.kb c.m
  let bs := scaleRanges f.bscale (c.field 8) c.kb c.n
  let first := mLatency core s c.part (rowsAt.headD 0) + 16
  match s.mRead core c.part (ra ++ rb ++ as_ ++ bs) c.sigRange with
  | .error m => .miss m before
  | .ok (d, ab, s1) =>
    let ab := (ab0 ++ ab).eraseDups
    let e := d.drop (ra.length + rb.length)
    let q := mAccumulate core f c (d.take ra.length) ((d.drop ra.length).take rb.length) ((e.take as_.length).map dataNat)
      ((e.drop as_.length).map dataNat) (bad0 || d.any anyBad) s1
    let total := first + more + mRate f * c.kb
    .done { q.1 with absent := !ab.isEmpty } (total - mRate f) total (mMeet ab q.2)

/-- MMA (R233). -/
def execMma (core : Nat) (s : State) : Out :=
  mCommand 1 core (fun f c s => mProduct core f c ((List.range c.m).map fun i => c.field 2 + i * c.field 10) 0 0 false [] s) s

/-- MMAG (R234): the rows of A by the index vector; the row of an index under an error is not read (R245). -/
def execMmag (core : Nat) (s : State) : Out :=
  mCommand 2 core (fun f c s =>
    match s.mRead core c.part [(c.field 6, 2 * c.m)] [] with
    | .error m => .miss m 0
    | .ok (d, ab, s1) =>
      let l := d.headD []
      let ix := dataNat l
      let before := mLatency core s c.part (c.field 6) + 16 + s.walkCycles core c.part [c.field 6 / 65536]
      let rows := ((List.range c.m).filter fun i => !anyBad ((l.drop (2 * i)).take 2)).map fun i => c.field 2 + bitsOf ix (16 * i) 16 * c.field 10
      mProduct core f c rows (ceilDiv (c.m * 32 * c.kb * mbits f.afmt) (8 * 2048)) before (d.any anyBad) ab s1) s

/-- MZERO (R235). -/
def execMzero (core : Nat) (s : State) : Out :=
  mCommand 3 core (fun _ c s => mAlone core c s fun s =>
    let a := ((s.acc core c).mapAt (fun _ _ _ => 0) (region c.m c.n)).clearStatus c.m
    .done c 4 4 (s.setAcc core c a)) s

/-- MLDACC (R235, R245). -/
def execMldacc (core : Nat) (s : State) : Out :=
  mCommand 4 core (fun f c s =>
    match s.mRead core c.part ((List.range c.m).map fun i => (c.field 2 + i * c.field 10, 4 * c.n)) c.sigRange with
    | .error m => .miss m 0
    | .ok (d, ab, s1) =>
      let rows := d.map dataNat
      let bad := d.any anyBad
      let a := ((s1.acc core c).mapAt (fun i j _ => bitsOf (rows.getD i 0) (32 * j) 32) (region c.m c.n)).clearStatus c.m
      let a := if bad then a.poison f.ints c.m c.n else a
      let total := ceilDiv (c.m * c.n * 4) 2048 + 8 + mLatency core s c.part (c.field 2)
      .done { c with memErr := bad, sat := bad && f.ints, absent := !ab.isEmpty } total total (mMeet ab (s1.setAcc core c a))) s

/-- One stored element of MSTACC (R236). -/
def outEl (ints : Bool) (f : Ft) (rsum : Option (Option FV)) (x : Nat) : Nat :=
  let v := if ints then FV.ofInt (toSigned 32 x) else decodeEl .fp32 x
  match rsum with
  | some none => 0
  | some (some d) => divRound f v d
  | none => if (ints && f == .int32) || (!ints && f == .fp32) then x else roundNE f v

/-- LSE of the first m rows' entries (R236). -/
def writeLse (core base : Nat) (exact apx : Bool) : Nat → State → State
  | 0, s => s
  | m + 1, s =>
    let s := writeLse core base exact apx m s
    let e := s.sb core (base + m)
    s.setSb core (base + m) { e with lse := e.lseOf exact apx, lv := true }

/-- A message of a cluster's matrix unit (R195). -/
def muMsg (k kind payload : Nat) : W64 := mkMsg 0 k kind (BitVec.ofNat 48 payload)
/-- What the unit reports of a command's write, as of a store (R177, R245, R255, R326): a refused part in the task's failure
record, and with one whose walk met an error (R287) a FAULT with the command's tag. -/
def Written.mReport (w : Written) (core : Nat) (c : MCmd) : State :=
  let s := if w.refused then w.s.failTask c.task false else w.s
  if w.refused || w.lost then
    s.deliverFor c.task c.part (s.part c.part).supcore (muMsg (clusterOf core) 6 (faultPayload 0x0D 0xFF core c.tag).toNat)
  else s

/-- MSTACC (R236). -/
def execMstacc (core : Nat) (s : State) : Out :=
  mCommand 5 core (fun f c s =>
    let of := Ft.ofCode (c.kb % 8)
    let ranges := (List.range c.m).map fun i => (c.field 4 + i * c.field 11, c.n * of.width)
    let all := ranges ++ (if c.field 6 = 0 then [] else [(c.field 6, 320)])
    match s.mPieces core c.part { w := true } (all.flatMap fun r => runsOf (bytesFrom r.1 r.2)) with
    | .error m => .miss m 0
    | .ok (ps, s0) =>
    match s0.mPieces core c.part { w := true } c.sigRange with
    | .error m => .miss { m with pages := ps.map (·.va / 65536) ++ m.pages } 0
    | .ok (_, s1) =>
      let q := if c.stats then shiftRows core f.statBase c.m (s1.acc core c) s1 else (s1.acc core c, s1)
      let s2 := if c.stats then writeLse core f.statBase c.exact c.apx c.m q.2 else q.2
      let div (i : Nat) : Option (Option FV) :=
        if c.stats then
          let e := s2.sb core (f.statBase + i)
          some (if !e.ev || e.rsum == 0 then none else some (f32 e.rsum))
        else none
      let bytes := ranges.zipIdx.flatMap fun r =>
        ((List.range c.n).flatMap fun j => leBytes of.width (outEl f.ints of (div r.2) (q.1.word r.2 j))).zipIdx.map fun b => (r.1.1 + b.2, b.1)
      let block := if c.field 6 = 0 then [] else q.1.statusBytes.zipIdx.map fun b => (c.field 6 + b.2, b.1)
      let total := ceilDiv (c.m * c.n * 4) 2048 + 8 + mLatency core s c.part (c.field 4) + (if c.stats then 16 else 0)
      -- rows are stored in ascending order and the block last: where they overlap the last write stays
      match (s2.setAcc core c q.1).engWrite c.task ps (bytes ++ block).reverse with
      | none => .later
      | some w => .done c total total (w.mReport core c)) s

/-- MFMT (R229). -/
def execMfmt (core : Nat) (s : State) : Out :=
  mCommand 6 core (fun _ c s =>
    let ra := if c.af = 8 then [(c.field 2, 32)] else []
    let rb := if c.bf = 8 then [(c.field 4, 32)] else []
    match s.mRead core c.part (ra ++ rb) c.sigRange with
    | .error m => .miss m 0
    | .ok (d, ab, s1) =>
      let bad := d.any anyBad
      let qa := freeFill (if c.af = 8 then d.headD [] else []) s1
      let qb := freeFill (if c.bf = 8 then d.getLastD [] else []) qa.2
      let cb (l : List Byte) : List W16 := (List.range 16).map fun k => BitVec.ofNat 16 (bitsOf (ofBytes l) (16 * k) 16)
      let w := c.word 1
      let f : FmtCtx := { afmt := c.af, ascale := bitsOf w 8 1 == 1, bfmt := c.bf, bscale := bitsOf w 9 1 == 1, statBase := bitsOf w 16 8,
                          acb := cb qa.1, bcb := cb qb.1, acbAt := c.field 2, bcbAt := c.field 4 }
      let s2 := mMeet ab qb.2
      .done { c with memErr := bad, absent := !ab.isEmpty } 2 2 (s2.setCore core { s2.core core with fmt := f })) s

/-- MSWAP (R237). -/
def execMswap (core : Nat) (s : State) : Out :=
  mCommand 7 core (fun _ c s => mAlone core c s fun s => .done c 2 2 (s.setCore core (s.core core).swapBanks)) s

/-- A list of eight indices is a permutation of 0 to 7. -/
def isPerm8 (l : List Nat) : Bool := (List.range 8).all l.contains
/-- MTABLE (R238). Bytes under an error are free and refuse nothing (R245): where they make no table, the old one stays (log 4). -/
def execMtable (core : Nat) (s : State) : Out :=
  mCommand 8 core (fun _ c s =>
    match s.mRead core c.part [(c.field 2, 64)] c.sigRange with
    | .error m => .miss m 0
    | .ok (d, ab, s1) =>
      let q := freeFill (d.headD []) s1
      let t := q.1.map (·.toNat)
      let first := mLatency core s c.part (c.field 2)
      let ok := t.all (fun b => decide (b < 8)) && (List.range 8).all fun r => isPerm8 ((t.drop (8 * r)).take 8)
      if ok || d.any anyBad then
        let k := clusterOf core
        let s2 := mMeet ab q.2
        .done { c with memErr := d.any anyBad, absent := !ab.isEmpty } (2 + first) (2 + first)
          (if ok then s2.setCluster k { s2.cluster k with mtable := t } else s2)
      else .refuse rTable 0 (first + s.walkCycles core c.part [c.field 2 / 65536]) (mMeet ab s1)) s

/-! ## MXPOSE (R238) -/

/-- The head commands of a cluster's eight queues. -/
def State.mHeads (s : State) (k : Nat) : List (Nat × MCmd) :=
  (List.range 8).filterMap fun j => match (s.core (8 * k + j)).mq with
    | c :: _ => if c.op = 9 && !c.started then some (8 * k + j, c) else none
    | [] => none
/-- Moves of command s of the eight: destination and source offsets of every byte. -/
def xposeMoves (table : List Nat) (cs : List MCmd) (s : Nat) : List (Nat × Nat) :=
  (List.range 8).flatMap fun j =>
    match cs[s]?, cs[table.getD (8 * s + j) 0]? with
    | some c, some d => (List.range (64 * c.kb)).map fun b => (d.field 4 + s * d.field 11 + b, c.field 2 + j * c.field 10 + b)
    | _, _ => []
/-- The cells of the moves: a byte that lies in a source panel, that two moves write, or whose source fails takes a
free value (R238, log 4). -/
def xposeCells (base : Nat) (srcs dsts : List Nat) : List (Nat × Nat) → State → List (Nat × Byte) × State
  | [], s => ([], s)
  | (d, x) :: r, s =>
    let bad := srcs.contains d || decide (1 < (dsts.filter (· == d)).length) || (badIn s.bad (base + x) 1).isSome
    let b := if bad then Config.freeByte s.free else s.byteAt (base + x)
    let q := xposeCells base srcs dsts r { s with free := if bad then s.free + 1 else s.free }
    ((base + d, b) :: q.1, q.2)
/-- The cells of each of the eight commands, all read before any is written. -/
def xposeAll (base : Nat) (srcs dsts : List Nat) : List (List (Nat × Nat)) → State → List (List (Nat × Byte)) × State
  | [], s => ([], s)
  | mv :: r, s =>
    let q := xposeCells base srcs dsts mv s
    let u := xposeAll base srcs dsts r q.2
    (q.1 :: u.1, u.2)
/-- Write the cells of each command, with its own report. -/
def xposeWrite : List ((Nat × MCmd) × List (Nat × Byte)) → State → State
  | [], s => s
  | ((core, c), cells) :: r, s =>
    let w := s.storeCells cells
    xposeWrite r ((Written.mk w.1 w.2 false).mReport core c)

/-- Refuse every head of a list. -/
def refuseAll (r : Nat) : List (Nat × MCmd) → State → State
  | [], s => s
  | (core, c) :: l, s => refuseAll r l (s.mRefuse core c (r, 0) 0)
/-- Mark every head as running until cycle n. -/
def startAll (n : Nat) (err : Nat × MCmd → Bool) : List (Nat × MCmd) → State → State
  | [], s => s
  | (core, c) :: l, s =>
    startAll n err l ((s.setHead core { c with started := true, memErr := err (core, c) }).after (.issue core) n (.matrixCompletion core))
/-- The implicit swaps ahead of every head are made. -/
def swapAll : List (Nat × MCmd) → State → State
  | [], s => s
  | (core, _) :: l, s => swapAll l (s.setCore core (s.core core).headSwaps)

/-- MXPOSE (R238): the eight commands run together; one that is refused on its own account reports at once (R240). -/
def execMxpose (core : Nat) (s : State) : Out :=
  let k := clusterOf core
  match (s.core core).mq with
  | [] => .next s
  | c :: _ =>
    if c.started ∨ c.op ≠ 9 ∨ (s.cluster k).mbusy ≠ some (core % 8) then .next s
    else match s.xposeMiss core c with
      | some (r, a, pages) => .next (s.mRefuse core c (r, a) (s.walkCycles core c.part pages))
      | none =>
        let hs := s.mHeads k
        if hs.length ≠ 8 ∨ (hs.any fun h => (s.xposeMiss h.1 h.2).isSome) then
          .next ((s.setCluster k { s.cluster k with mbusy := none }).mKick k)
        else if hs.any fun h => (panelOf (h.2.field 2) (h.2.field 10) (64 * h.2.kb)
            ++ panelOf (h.2.field 4) (h.2.field 11) (64 * h.2.kb)).any fun r => s.underTest (vaultBase k + r.1) r.2 then
          .next (s.after (.issue core) 16 (.mxpose core))
        else
          let s := swapAll hs (s.setCluster k { s.cluster k with mbusy := some 8 })
          let hs := hs.map fun h => (h.1, { h.2 with swaps := 0 })
          if hs.any fun h => h.2.kb != c.kb then .next (refuseAll rTable hs s)
          else
            let mvs := (List.range 8).map (xposeMoves (s.cluster k).mtable (hs.map (·.2)))
            let x := xposeAll (vaultBase k) (mvs.flatten.map (·.2)) (mvs.flatten.map (·.1)) mvs s
            let bad (h : Nat × MCmd) : Option Nat :=
              ((panelOf (h.2.field 2) (h.2.field 10) (64 * h.2.kb)).filterMap fun r => badIn s.bad (vaultBase k + r.1) r.2).head?
            let s := xposeWrite (hs.zip x.1) ((hs.filterMap bad).foldl (fun s g => s.metError (some g)) x.2)
            .next (startAll (Nat.max 8 (2 * c.kb)) (fun h => (bad h).isSome) hs s)

/-- MSIG (R239). -/
def execMsig (core : Nat) (s : State) : Out := mCommand 10 core (fun _ c s => mAlone core c s fun s => .done c 2 2 s) s

/-! ## Reports (R240, R242 to R245) -/

/-- Store SVAL at SADDR, setting the full bit on an FE page (R240); none while it waits: a versioned word has no free slot, or
a unit under test serves the place. A refused address leaves no signal. -/
def State.mSignal (s : State) (core : Nat) (c : MCmd) : Option State :=
  let va := c.field 12
  if va % 8 ≠ 0 then some s
  else match s.mPieces core c.part { w := true } [(va, 8)] with
    | .error m => if m.reason.isNone then none else some m.s
    | .ok (ps, s1) =>
      (s1.engWrite c.task ps ((leBytes 8 (c.word 14)).zipIdx.map fun b => (va + b.2, b.1))).map (·.mReport core c)

/-- MOPS (R240): the operands of an MMA or MMAG are consumed: its signal, or the message, which the unit holds while the mailbox is
full (R197). -/
def execMops (core : Nat) (s : State) : Out :=
  match (s.core core).mq with
  | [] => .next s
  | c :: _ =>
    if !c.started ∨ c.signalled ∨ c.refused.isSome ∨ (c.op ≠ 1 ∧ c.op ≠ 2) then .next s
    else if c.sig then
      match s.mSignal core c with
      | none => .next (s.after (.issue core) 16 (.mops core))
      | some s' => .next (s'.setHead core { c with signalled := true })
    else
      let s' := s.setHead core { c with signalled := true }
      .next (if c.nomsg then s' else s'.deliverFor c.task c.part core (muMsg (clusterOf core) 3 (c.op * 2 ^ 8 + c.tag)))

/-- Record a report for a task that has not retired, the first in queue order (R244). -/
def State.report (s : State) (tid : Nat) (r : Cause × W64 × Vector W64 4) : State :=
  s.modTask tid fun t => if t.matrixReport.isNone then { t with matrixReport := some r } else t

/-- A command's reports to its task: MATRIX, NONFINITE (R242, R243). -/
def MCmd.recordFor (c : MCmd) (s : State) : State :=
  match c.refused with
  | some tv => s.report c.task (.matrix, BitVec.ofNat 64 tv, Vector.replicate 4 0)
  | none => match c.nf, s.task c.task with
    | some (v, i, j), some t =>
      let r := nfRecord 1 c.tag t (if c.fmts.1 = 8 then 8 else (mft c.fmts.1).code) (if c.fmts.2 = 8 then 8 else (mft c.fmts.2).code)
        (decodeEl .fp32 v) 0 i j 0
      s.report c.task (.nonfinite, r[0], r)
    | _, _ => s

/-- MDONE's payload (R240). -/
def MCmd.mdone (c : MCmd) : Nat :=
  (if c.refused.isSome then 1 else if c.memErr then 2 else 0) * 2 ^ 40 + bitIf c.sat 39 + bitIf c.nan 38 + c.op * 2 ^ 8 + c.tag
/-- MNF's payload (R240). -/
def MCmd.mnf (c : MCmd) : Option Nat :=
  c.nf.map fun (v, i, j) => nfKind (decodeEl .fp32 v) * 2 ^ 46 + i * 2 ^ 32 + j * 2 ^ 24 + c.op * 2 ^ 8 + c.tag

/-- A message of the command, with its receiver. -/
def MCmd.tells (c : MCmd) (s : State) (core : Nat) : List (Nat × W64) :=
  let k := clusterOf core
  (c.mnf.map fun p => (core, muMsg k 12 p)).toList
    ++ (if c.memErr then [((s.part c.part).supcore, muMsg k 6 (faultPayload 0x0D 0xFF core c.tag).toNat)] else [])
    ++ (if c.refused.isSome || !c.nomsg then [(core, muMsg k 4 c.mdone)] else [])
/-- The report to the task, and the messages: MNF, FAULT, MDONE (R240, R242, R245). -/
def mTell (core : Nat) (c : MCmd) (s : State) : State :=
  let s := c.recordFor s
  let s := if c.absent && (c.refused.isSome || !c.nomsg) then
      s.setCore core { s.core core with absentDone := (s.core core).absentDone ++ [c.mdone % 2 ^ 16] } else s
  ((c.tells s core).foldl (fun s m => s.deliverFor c.task c.part m.1 m.2) s).setHead core { c with told := true }
/-- The last steps of a completion (R240): the entry is free and the completion counted; the unit goes on. -/
def mFinish (core : Nat) (s : State) : State :=
  let k := clusterOf core
  let q := s.core core
  let s := (s.setCore core ({ q with mq := q.mq.tail }.settleTail)).countEnd ((q.mq.head?.map (·.part)).getD 0) core
  let running := (List.range 8).any fun j => match (s.core (8 * k + j)).mq with | d :: _ => d.started | [] => false
  if running then s else (s.setCluster k { s.cluster k with mbusy := none }).mKick k

/-- MATRIX_COMPLETION (R240): writes are visible, then the signal of every other command and of a refused one, then the
messages; the command completes once they have been accepted (R197). -/
def execMatrixCompletion (core : Nat) (s : State) : Out :=
  match (s.core core).mq with
  | [] => .next s
  | c :: _ =>
    let again (s : State) : Out := .next (s.after (.issue core) 16 (.matrixCompletion core))
    if !c.started then .next s
    else if (c.op = 1 ∨ c.op = 2) ∧ c.refused.isNone ∧ !c.signalled then again s
    else
      match if c.sig && !c.signalled then s.mSignal core c else some s with
      | none => again s
      | some s =>
        let c := { c with signalled := true }
        let s := if c.told then s else mTell core c s
        if (c.tells s core).any fun m => s.holds m.1 m.2 then again s else .next (mFinish core s)

end Sys2Proof.Machine
end

