-- ==== Sys2Proof/Machine/Hatcheck.lean ====
section
/-! DEFINITION. The Hatcheck (R80 to R84, R90 to R92): handles, entries in memory, reference counts, the charge. -/

namespace Sys2Proof.Machine

/-- A cause by its code (R71). -/
def Cause.ofCode (n : Nat) : Cause :=
  ([.illegal, .allot, .align, .xlate, .access, .nonfinite, .selfdep, .budget, .version, .dslot, .window, .trapi, .memerr,
    .matrix, .demand, .priv, .gqtype, .viewfault, .phase, .handle] : List Cause).getD (n - 1) .illegal

/-! ## Handles (R80) -/

def hPart (h : W64) : Nat := bitsOf h.toNat 48 8
def hGen (h : W64) : Nat := bitsOf h.toNat 32 16
def hIndex (h : W64) : Nat := bitsOf h.toNat 0 32
def mkHandle (part gen idx : Nat) : W64 := BitVec.ofNat 64 (part * 2 ^ 48 + gen * 2 ^ 32 + idx)

/-! ## Entries (R82) -/

/-- States of an entry. -/
def hFREE : Nat := 0
def hVALUE : Nat := 1
def hSUSP : Nat := 2
def hEVAL : Nat := 3
def hFAULT : Nat := 4

/-- An entry by fields; `ent` is CALLENT, or NEXTFREE of a free entry. -/
structure HEntry where
  gen : Nat := 0
  state : Nat := 0
  op : Nat := 0
  narg : Nat := 0
  fmt : Nat := 0
  root : Bool := false
  rowsM1 : Nat := 0
  colsM1 : Nat := 0
  callot : Nat := 0
  dead : Bool := false
  modes : Nat := 0
  a0 : Nat := 0
  a1 : Nat := 0
  a2 : Nat := 0
  pcnt : Nat := 0
  evcore : Nat := 0
  vaddr : Nat := 0
  refcnt : Nat := 0
  evtask : Nat := 0
  waiter : Option (Nat × Nat) := none
  seq : Nat := 0
  charge : Nat := 0
  cause : Nat := 0
  ent : Nat := 0
deriving DecidableEq, Repr

/-- An entry from its eight doublewords. -/
def HEntry.ofWords (w : List Nat) : HEntry :=
  let d (k : Nat) := w.getD k 0
  { gen := bitsOf (d 0) 48 16, state := bitsOf (d 0) 45 3, op := bitsOf (d 0) 42 3, narg := bitsOf (d 0) 40 2,
    fmt := bitsOf (d 0) 37 3, root := bitsOf (d 0) 36 1 == 1, rowsM1 := bitsOf (d 0) 24 12, colsM1 := bitsOf (d 0) 12 12,
    callot := bitsOf (d 0) 6 6, dead := bitsOf (d 0) 5 1 == 1, modes := bitsOf (d 0) 0 3,
    a0 := bitsOf (d 1) 0 32, a1 := bitsOf (d 1) 32 32, a2 := bitsOf (d 2) 0 32, evcore := bitsOf (d 2) 32 16,
    pcnt := bitsOf (d 2) 48 16, vaddr := bitsOf (d 3) 0 56, evtask := bitsOf (d 4) 0 32, refcnt := bitsOf (d 4) 32 32,
    waiter := if bitsOf (d 5) 63 1 = 1 then some (bitsOf (d 5) 32 16, bitsOf (d 5) 0 32) else none,
    charge := bitsOf (d 6) 0 32, seq := bitsOf (d 6) 32 32, cause := bitsOf (d 7) 56 8, ent := bitsOf (d 7) 0 56 }
/-- The eight doublewords of an entry. -/
def HEntry.words (e : HEntry) : List Nat :=
  [e.gen * 2 ^ 48 + e.state * 2 ^ 45 + e.op * 2 ^ 42 + e.narg * 2 ^ 40 + e.fmt * 2 ^ 37 + bitIf e.root 36 + e.rowsM1 * 2 ^ 24
     + e.colsM1 * 2 ^ 12 + e.callot * 2 ^ 6 + bitIf e.dead 5 + e.modes,
   e.a1 * 2 ^ 32 + e.a0,
   e.pcnt * 2 ^ 48 + e.evcore * 2 ^ 32 + e.a2,
   e.vaddr,
   e.refcnt * 2 ^ 32 + e.evtask,
   (match e.waiter with | some (c, t) => 2 ^ 63 + c * 2 ^ 32 + t | none => 0),
   e.seq * 2 ^ 32 + e.charge,
   e.cause * 2 ^ 56 + e.ent]

def HEntry.rows (e : HEntry) : Nat := e.rowsM1 + 1
def HEntry.cols (e : HEntry) : Nat := e.colsM1 + 1
def HEntry.ft (e : HEntry) : Ft := Ft.ofCode e.fmt
/-- Indices of the arguments, argument 0 first. -/
def HEntry.args (e : HEntry) : List Nat := [e.a0, e.a1, e.a2].take e.narg

/-- Address of an entry (R82). -/
def Part.entryPa (p : Part) (i : Nat) : Nat := p.hcBase + 64 + 64 * i
/-- Entries of a Hatcheck (R82). -/
def Part.hcCapacity (p : Part) : Nat := 2 ^ p.logcap

/-- Read and write an entry at its home (R84). One that nothing has used names the next index as the next free one (R199). The write of a
whole entry renews its granule (R326). -/
def State.hGet (s : State) (part i : Nat) : HEntry :=
  let e := HEntry.ofWords (words64 (s.mem.readLE ((s.part part).entryPa i) 64))
  if (s.part part).hcFresh ≤ i then { e with ent := (i + 1) % 2 ^ 32 } else e
def State.hPut (s : State) (part i : Nat) (e : HEntry) : State :=
  { s with mem := s.mem.setBytes (wordCells ((s.part part).entryPa i) e.words)
           bad := s.bad.filter fun u => !covers (wordCells ((s.part part).entryPa i) e.words) u }

/-- A unit under test serves an entry, or the control block: its steps wait (R223, R313, R327). -/
def State.entryHeld (s : State) (part i : Nat) : Bool := s.underTest ((s.part part).entryPa i) 64
def State.controlHeld (s : State) (part : Nat) : Bool := s.underTest (s.part part).hcBase 64
/-- The place of an uncorrectable error in an entry (R326). -/
def State.entryErr (s : State) (part i : Nat) : Option Nat := badIn s.bad ((s.part part).entryPa i) 64
/-- GEN of an entry that is taken: free where it lies under an error, whose unit is tested (DESIGN CHOICE, log 70). -/
def State.takenGen (s : State) (part i : Nat) : Nat × State :=
  match s.entryErr part i with
  | some u => ((Config.freeWord s.free).toNat % 2 ^ 16, { s with free := s.free + 1 }.metError (some u))
  | none => ((s.hGet part i).gen, s)
/-- The handle of an entry as it stands. -/
def State.hHandle (s : State) (part i : Nat) : W64 := mkHandle part (s.hGet part i).gen i

/-- The first test of R81, which the handle itself shows. -/
def handleShape (h : W64) (part cap : Nat) : Bool := decide (h.toNat / 2 ^ 56 = 0 ∧ hPart h = part ∧ hIndex h < cap)
/-- The tests of R81 at the entry's home. -/
def State.hLive (s : State) (part : Nat) (h : W64) : Bool :=
  let e := s.hGet part (hIndex h)
  e.gen == hGen h && e.state != hFREE
/-- CheckHandle (R81): the entry's index. -/
def State.checkHandle (s : State) (part : Nat) (h : W64) : Except Trap Nat :=
  if handleShape h part (s.part part).hcCapacity && s.hLive part h then .ok (hIndex h) else .error (.handle, h)

/-- Latency of one step at a home (R383). -/
def State.homeStep (s : State) (core part i : Nat) : Nat := s.pathLatency core ((s.part part).entryPa i) + 8
/-- Latency of a step at the control block. -/
def State.controlStep (s : State) (core part : Nat) : Nat := s.pathLatency core (s.part part).hcBase + 8

/-! ## The free list (R92, R199) -/

/-- TakeFreeEntry (R199). -/
def State.takeFree (s : State) (part : Nat) : Option (Nat × State) :=
  let p := s.part part
  match p.hcFree with
  | i :: r => some (i, s.setPart part { p with hcFree := r })
  | [] => if p.hcFresh < p.hcCapacity then some (p.hcFresh, s.setPart part { p with hcFresh := p.hcFresh + 1 }) else none

/-- Free an entry (R92). NEXTFREE of the entry that was the last of the freed ones names the lowest index that nothing has
used, which is the capacity once all have been (DESIGN CHOICE, log 61: R92 gives no end of the list). -/
def State.hFree (s : State) (part i : Nat) : State :=
  let p := s.part part
  let e := s.hGet part i
  let next := match p.hcFree with | j :: _ => j | [] => p.hcFresh
  let s := s.hPut part i { e with state := hFREE, gen := (e.gen + 1) % 2 ^ 16, refcnt := 0, charge := 0, pcnt := 0, root := false,
                                  dead := false, waiter := none, cause := 0, ent := next % 2 ^ 32 }
  s.setPart part { p with hcFree := i :: p.hcFree }

/-! ## The charge (R97) -/

/-- SUSPs parked until the total is within the bound repeat BoundStep. -/
def wakeBudget (part : Nat) : List Task → State → State
  | [], s => s
  | t :: r, s => wakeBudget part r (match t.run with
    | .parked (.budget p d) => if p = part then s.wakeTask t.tid (.bound d) else s
    | _ => s)
def State.budgetMoved (s : State) (part : Nat) : State :=
  let p := s.part part
  if p.hcTotal ≤ p.hcBound.toNat then wakeBudget part s.allTasks s else s
/-- An entry's charge leaves the total. -/
def State.uncharge (s : State) (part i : Nat) : State :=
  let e := s.hGet part i
  let p := s.part part
  if e.charge = 0 then s
  else (s.hPut part i { e with charge := 0 }).setPart part { p with hcTotal := p.hcTotal - e.charge } |>.budgetMoved part

/-! ## Reference counts (R82, R88, R90, R91) -/

/-- A reference count that has reached its top no longer changes (R90). -/
def refTop : Nat := 0xFFFFFFFF
def refUp (n : Nat) : Nat := if n = refTop then n else n + 1

/-- KeepArg (R88): REFCNT and PCNT rise, ROOT clears. -/
def State.keepArg (s : State) (part i : Nat) : State :=
  let e := s.hGet part i
  s.hPut part i { e with refcnt := refUp e.refcnt, pcnt := if e.pcnt = 65535 then 65535 else e.pcnt + 1, root := false }
/-- PCNT falls by one argument position (R82). -/
def State.lowerPcnt (s : State) (part i : Nat) : State :=
  let e := s.hGet part i
  if e.pcnt = 0 ∨ e.pcnt = 65535 then s else s.hPut part i { e with pcnt := e.pcnt - 1, root := e.pcnt == 1 }

/-- One reference is dropped (R91): at zero the entry is freed, a suspended one after its arguments, one in
evaluation once it has completed. `fuel` bounds the depth of the graph. -/
def State.dropRef (part : Nat) : Nat → State → Nat → State
  | 0, s, _ => s
  | fuel + 1, s, i =>
    let e := s.hGet part i
    if e.refcnt = 0 ∨ e.refcnt = refTop then s
    else
      let s := s.hPut part i { e with refcnt := e.refcnt - 1 }
      if 1 < e.refcnt then s
      else if e.state = hSUSP then
        (e.args.foldl (fun s a => (State.dropRef part fuel s a).lowerPcnt part a) (s.uncharge part i)).hFree part i
      else if e.state = hEVAL then s.hPut part i { e with refcnt := 0, dead := true }
      else s.hFree part i
/-- Depth bound: every entry ever used. -/
def State.hDrop (s : State) (part i : Nat) : State := State.dropRef part ((s.part part).hcFresh + 1) s i

/-- The entries that the drop of one reference may reach (R91). -/
def State.dropReach (s : State) (part : Nat) : Nat → Nat → List Nat
  | 0, i => [i]
  | n + 1, i =>
    let e := s.hGet part i
    i :: if e.refcnt = 1 ∧ e.state = hSUSP then e.args.flatMap (State.dropReach s part n) else []
/-- A unit under test serves the control block or an entry that the drop of one reference may reach. -/
def State.dropHeld (s : State) (part i : Nat) : Bool :=
  !s.pkg.units.isEmpty && (s.controlHeld part || (s.dropReach part ((s.part part).hcFresh + 1) i).any (s.entryHeld part))
/-- The same of an entry that completes, with its arguments (R94). -/
def State.completeHeld (s : State) (part i : Nat) : Bool :=
  !s.pkg.units.isEmpty && (s.controlHeld part || s.entryHeld part i || (s.hGet part i).args.any (s.dropHeld part))

/-- The arguments of a completed entry are dropped, argument 0 first, and their PCNT lowered (R94, R246). -/
def State.dropArgs (s : State) (part : Nat) (args : List Nat) : State :=
  args.foldl (fun s a => (s.lowerPcnt part a).hDrop part a) s

/-- An operation of a task that a KEEP or DROP of this handle has sent; the oldest. -/
def Task.sentOp (t : Task) (h : W64) (keep : Bool) : Option (Nat × W64 × Bool) := t.handleOps.find? fun o => o.2 == (h, keep)
/-- The operation has reached its home: a check that failed there leaves its report, of which the task holds the first in
issue order (R90). -/
def Task.opDone (t : Task) (o : Nat × W64 × Bool) (ok : Bool) : Task :=
  let t := { t with handleOps := t.handleOps.erase o }
  if ok || (t.handleReport.isSome && decide (t.reportAt < o.1)) then t else { t with handleReport := some o.2.1, reportAt := o.1 }

/-- HANDLE_HOME_CHECK (R90, R91): KEEP or DROP of a task reaches the entry's home; a check that fails there, and an entry under an
uncorrectable error (DESIGN CHOICE, log 70), changes nothing and leaves a report in the task. Earlier operations of the task on the
entry come first (R84), and for a DROP its earlier DROPs (R246). -/
def execHandleHomeCheck (tid : Nat) (h : W64) (keep : Bool) (s : State) : Out :=
  match s.task tid with
  | none => .next s
  | some t =>
    match t.sentOp h keep with
    | none => .next s
    | some o =>
      let part := hPart h
      let i := hIndex h
      let again (n : Nat) : Out := .next (s.after (dieClk t.core) n (.handleHomeCheck tid h keep))
      if (t.handleOps.takeWhile (· != o)).any fun p => hIndex p.2.1 == i || !(keep || p.2.2) then again 1
      else if s.dropHeld part i then again 16
      else
        let e := s.hGet part i
        let err := s.entryErr part i
        let ok := err.isNone && s.hLive part h && (keep || e.refcnt != 0)
        let s := (s.setTask (t.opDone o ok)).metError err
        if !ok then .next s
        else .next (if keep then s.hPut part i { e with refcnt := refUp e.refcnt } else s.hDrop part i)

end Sys2Proof.Machine
end

