-- ==== Sys2Proof/Machine/Handles.lean ====
section
/-! DEFINITION. The handle instructions, evaluation and sparks (R85 to R97). -/

namespace Sys2Proof.Machine

/-! ## Links (R83, R93) -/

/-- The demand link of a task or built-in evaluation. -/
def State.demandOf (s : State) (tid : Nat) : Option Nat :=
  match s.task tid with
  | some t => t.demand
  | none => (s.evals.find tid).bind (·.demand)
/-- The waiter link of a task or built-in evaluation. -/
def State.waitLinkOf (s : State) (tid : Nat) : Option Nat :=
  match s.task tid with
  | some t => t.waitLink
  | none => (s.evals.find tid).bind (·.waitLink)
/-- The living task or built-in evaluation that a TASKID in memory names (R8); 0 for none. -/
def State.named (s : State) (n : Nat) : Nat := (s.livingTids.find? (· % 2 ^ 32 == n)).getD 0
/-- Links longer than this are DEMAND (R93). -/
def demandMax : Nat := 32
/-- Valid demand links above a task, counted up to the fuel. -/
def State.chainLength (s : State) : Nat → Nat → Nat
  | 0, _ => 0
  | n + 1, t => match s.demandOf t with
    | some u => 1 + State.chainLength s n u
    | none => 0
/-- The walk of R93 from a task towards the evaluating task: none when it meets it, else whether it is too long. -/
def State.demandWalk (s : State) (target : Nat) : Nat → Nat → Option Bool
  | 0, _ => some true
  | n + 1, w =>
    if w = target then none
    else match s.demandOf w with
      | some u => State.demandWalk s target n u
      | none => some false

/-- AddWaiter (R93): the task becomes the head of the entry's waiter list; counted as sent (R98). -/
def State.addWaiter (s : State) (part i tid : Nat) : State :=
  let e := s.hGet part i
  let core := s.coreOf tid
  let next := e.waiter.map fun w => s.named w.2
  let s := s.hPut part i { e with waiter := some (core, tid % 2 ^ 32) }
  let s := match s.task tid with
    | some t => s.setTask { t with waitLink := next }
    | none => match s.evals.find tid with
      | some v => { s with evals := s.evals.put tid { v with waitLink := next } }
      | none => s
  s.countSent core

/-- The waiter list from its head. -/
def State.waitersFrom (s : State) : Nat → Option Nat → List Nat
  | 0, _ => []
  | _, none => []
  | n + 1, some t => t :: State.waitersFrom s n (s.waitLinkOf t)
/-- The waiters of an entry, the most recent first. -/
def State.waiters (s : State) (e : HEntry) : List Nat :=
  s.waitersFrom (s.evals.length + s.allTasks.length + 1) (e.waiter.map fun w => s.named w.2)

/-! ## Evaluation (R94, R95) -/

/-- Evaluation slots of a core (R95). -/
def evalSlots : Nat := 32
def State.evalsOn (s : State) (c : Nat) : List (Nat × Eval) := s.evals.filter fun p => p.2.core == c

/-- A core can create the evaluation task of an operation now (R95); while the cluster's Hatbox pool is exhausted, what needs the task
waits as R25 says of dispatch (DESIGN CHOICE, log 71). -/
def State.evalRoom (s : State) (part core op : Nat) : Bool :=
  (if op = SuspOp.call.code then decide ((s.tasksOn core).length < coreTasks) else decide ((s.evalsOn core).length < evalSlots))
    && (s.hatboxRoom part core false).isSome

/-- NewEvalTask (R95): the evaluation task of an entry on a core, ready at its priority; the entry goes to EVAL. None while there
is no room. -/
def State.startEval (s : State) (part i core prio : Nat) (demand : Option Nat) : Option State :=
  let e := s.hGet part i
  if !s.evalRoom part core e.op then none
  else
    let tid := s.freshTid
    let s1 := (s.hPut part i { e with state := hEVAL, evtask := tid % 2 ^ 32, evcore := core }).countSent core
    if e.op = SuspOp.call.code then
      let arg (k : Nat) : W64 := match e.args[k]? with | some a => s.hHandle part a | none => 0
      let t := Task.start (BitVec.ofNat 64 e.ent) 0 0 0 (mkHandle part e.gen i) e.callot false prio part core 0
      s1.spawn { t with x := (((t.x.set 2 (BitVec.ofNat 64 e.vaddr)).set 3 (arg 0)).set 4 (arg 1)).set 5 (arg 2),
                        demand := demand, evalOf := some (part, i) }
    else
      (s.hatboxRoom part core false).map fun h =>
        State.bump { s1 with
          evals := s1.evals.put tid { part := part, idx := i, core := core, prio := prio, hatbox := h, demand := demand, since := s.stamp }
          nextTid := tid + 1 }

/-- The HREADY of an entry to its waiters, the most recent first (R94). -/
def sendReady (payload : BitVec 48) (cause : BitVec 8) (addr : W64) : List Nat → State → State
  | [], s => s
  | t :: r, s => sendReady payload cause addr r (s.at_ 1 (.hready t payload cause addr))

/-- Completion of an entry (R94): VALUE, or FAULT with its cause; arguments dropped and the charge removed before the
first HREADY; a dead entry without waiters is freed. -/
def State.completeEntry (s : State) (part i : Nat) (fault : Option Cause) : State :=
  let e := s.hGet part i
  let ws := s.waiters e
  let s := s.hPut part i { e with state := if fault.isSome then hFAULT else hVALUE, cause := (fault.map Cause.code).getD 0,
                                  evtask := 0, evcore := 0, waiter := none, ent := 0 }
  let s := (s.dropArgs part e.args).uncharge part i
  let s := sendReady (BitVec.ofNat 48 (e.gen * 2 ^ 32 + i)) (BitVec.ofNat 8 ((fault.map Cause.code).getD 0)) (BitVec.ofNat 64 e.vaddr) ws s
  let s := s.countRecv e.evcore
  if e.dead && ws.isEmpty then s.hFree part i else s

/-- Partition of a task or built-in evaluation. -/
def State.partOf (s : State) (tid : Nat) : Option Nat := ((s.task tid).map (·.part)).or ((s.evals.find tid).map (·.part))
/-- An HREADY of an entry of the partition is still on its way. -/
def State.readyComing (s : State) (part : Nat) (payload : BitVec 48) : Bool :=
  s.sched.any fun e => match e.2 with | .hready t p _ _ => p == payload && s.partOf t == some part | _ => false

/-- HREADY (R94): the named waiter completes with the address or the cause; a dead entry is freed once the last one has
come. A unit under test that serves the entry holds it (R313). -/
def execHready (tid : Nat) (payload : BitVec 48) (cause : BitVec 8) (addr : W64) (s : State) : Out :=
  let gen := bitsOf payload.toNat 32 16
  let i := bitsOf payload.toNat 0 32
  let held : Bool := match s.partOf tid with | some p => s.entryHeld p i | none => false
  let free (part : Nat) (s : State) : State :=
    let e := s.hGet part i
    if e.dead && e.gen == gen && !s.readyComing part payload && (e.state == hVALUE || e.state == hFAULT) then s.hFree part i else s
  if held then .next (s.at_ 16 (.hready tid payload cause addr))
  else match s.task tid with
  | some t =>
    let s := (s.setTask { t with waitLink := none }).countRecv t.core
    match t.run with
    | .parked (.handle part _ eager) =>
      let w : Wake := if eager then .value (mkHandle part gen i)
        else if cause = 0 then .value addr else .trap (Cause.ofCode cause.toNat) t.waitOn
      .next (free part (s.wakeTask tid w))
    | _ => .next (free t.part s)
  | none =>
    match s.evals.find tid with
    | some v =>
      let v := { v with waiting := false, waitLink := none, next := v.next + 1, addrs := v.addrs ++ [addr.toNat],
                        fault := if cause = 0 then none else some (Cause.ofCode cause.toNat), since := s.stamp }
      .next (free v.part ({ s with evals := s.evals.put tid v }.bump.countRecv v.core))
    | none => .next s

/-! ### The built-in operations (R95) -/

/-- Elements of a tile as encodings, row-major. -/
def tileCodes (w n : Nat) (v : Nat) : List Nat := elemList w n v
/-- The arithmetic of an element-wise operation. -/
def suspFn (op : Nat) : VFn := if op = 0 then .add else if op = 1 then .sub else if op = 2 then .mul else if op = 3 then .mulz else .max

/-- Rows of a K-wide matrix as codes padded with zeros to a multiple of 32. -/
def padRow (kb : Nat) (l : List Nat) : List Nat := l ++ List.replicate (32 * kb - l.length) 0
/-- One element of an MM (R95, R115, R116): the encoding in the result format, and whether it is non-finite. -/
def mmEl (fa fb out : Ft) (apx : Bool) (kb : Nat) (a b : List Nat) : Nat × Bool :=
  if fa = .int8 ∧ fb = .int8 then ((sumInts (padRow kb a) (padRow kb b) 0 kb 0 false).1, false)
  else
    let vec (f : Ft) (l : List Nat) : MVec := ⟨(padRow kb l).map (decodeEl f), [], 0⟩
    let r := sumBlocks false apx (vec fa a) (vec fb b) 0 kb 0 none
    let y := roundNE out (decodeEl .fp32 r.1)
    (y, r.2.isSome || (decodeEl out y).nonFinite)

/-- The result of a built-in operation on the argument tiles: encodings and whether one is non-finite. -/
def evalTile (e : HEntry) (args : List HEntry) (tiles : List (List Nat)) : List Nat × Bool :=
  let f := e.ft
  let t (k : Nat) := tiles.getD k []
  let a (k : Nat) : HEntry := args.getD k {}
  let apx := e.modes / 2 % 2 == 1 && e.modes / 4 % 2 == 0
  if e.op = SuspOp.mm.code then
    let k := (a 0).cols
    let kb := ceilDiv k 32
    let r := (List.range e.rows).flatMap fun i => (List.range e.cols).map fun j =>
      mmEl (a 0).ft (a 1).ft f apx kb (((t 0).drop (i * k)).take k) ((List.range k).map fun q => (t 1).getD (q * e.cols + j) 0)
    (r.map (·.1), r.any (·.2))
  else
    let r := if e.op = SuspOp.cvt.code then (t 0).map (convertEl (a 0).ft f false)
      else ((t 0).zip (t 1)).map fun q => (suspFn e.op).el f q.1 q.2 0
    (r, f.isFloat && r.any fun x => (decodeEl f x).nonFinite)

/-- A word of the pieces lies on a VERSIONED page, which a vector access may not reach (R266). -/
def anyVersioned (ps : List EPiece) : Bool := ps.any fun p => match p.place with | some (_, .versioned) => true | _ => false
/-- The pieces of a tile: MM reaches it as the matrix unit does, the other operations as the core's vector unit (R95, R266;
log 62). -/
def State.tilePieces (s : State) (core part va n : Nat) (need : Need) (mm : Bool) : Except (Option Cause × State) (List EPiece × State) :=
  match s.mPieces core part need (runsOf (bytesFrom va n)) with
  | .error m => .error (m.reason.map fun c => if c = rXlate then .xlate else .access, m.s)
  | .ok (ps, s1) => if anyVersioned ps && !mm then .error (some .access, s1) else .ok (ps, s1)

/-- Read the argument tiles: the cause of the first that fails, or none where the read waits for a unit under test. -/
def State.readTiles (s : State) (core part : Nat) (mm : Bool) : List (HEntry × Nat) → Except (Option Cause × State) (List (List Nat) × State)
  | [] => .ok ([], s)
  | (a, va) :: r =>
    match s.tilePieces core part va (a.rows * a.cols * a.ft.width) { r := true } mm with
    | .error e => .error e
    | .ok (ps, s1) =>
      let d := s1.mBytes ps
      if anyBad d then .error (some .memerr, s1.engMet ps)
      else match State.readTiles (mMeet (engAbsents ps) s1) core part mm r with
        | .error e => .error e
        | .ok (l, s2) => .ok (tileCodes a.ft.width (a.rows * a.cols) (dataNat d) :: l, s2)

/-- Compute and write the value tile (R95, R200); a non-finite result with NFT, or a tile that fails, is the fault; none where an
access waits. An evaluation that ends in FAULT writes no byte of the tile (DESIGN CHOICE, log 71). A refused part of the write is reported
as of a store (R326). -/
def State.evaluate (s : State) (tid part : Nat) (e : HEntry) (v : Eval) : Except (Option Cause × State) State :=
  let args := e.args.map (s.hGet part)
  let mm := e.op == SuspOp.mm.code
  match s.readTiles v.core part mm (args.zip v.addrs) with
  | .error c => .error c
  | .ok (tiles, s1) =>
    let r := evalTile e args tiles
    if r.2 && e.modes % 2 == 1 then .error (some .nonfinite, s1)
    else
      match s1.tilePieces v.core part e.vaddr (e.rows * e.cols * e.ft.width) { w := true } mm with
      | .error c => .error c
      | .ok (ps, s2) =>
        if ps.any fun p => p.place.isNone then .error (some .memerr, s2)
        else
          match s2.engWrite tid ps ((r.1.flatMap fun x => leBytes e.ft.width x).zipIdx.map fun b => (e.vaddr + b.2, b.1)) with
          | none => .error (none, s2)
          | some w =>
            .ok (if w.refused then w.s.deliver (w.s.part part).supcore (coreMsg v.core 6 (faultPayload 0x0D 0xFF v.core 0)) else w.s)

/-- End a built-in evaluation: its slot and Hatbox are free, and the entry completes. -/
def State.endEval (s : State) (tid : Nat) (v : Eval) (fault : Option Cause) : State :=
  { s with evals := s.evals.del tid }.completeEntry v.part v.idx fault

/-- The running step of a built-in evaluation: it forces its next argument by the rule of R93, or computes (R95). It runs in the cycles
in which its core issues (R321, R323, R324), and waits for entries of a unit under test (R313). -/
def State.evalStep (s : State) (tid : Nat) (v : Eval) : State :=
  let e := s.hGet v.part v.idx
  let put (v : Eval) (s : State) : State := { s with evals := s.evals.put tid v }
  let again (n : Nat) (s : State) : State := s.after (.issue v.core) n (.evaluationCompletion v.part v.idx)
  let wait : Eval := { v with waiting := true, running := false }
  if s.completeHeld v.part v.idx then again 16 s
  else match v.fault with
  | some c => s.endEval tid v (some c)
  | none =>
    match e.args[v.next]? with
    | none => match s.evaluate tid v.part e v with
      | .ok s' => s'.endEval tid v none
      | .error (some c, s') => s'.endEval tid v (some c)
      | .error (none, s') => again 16 s'
    | some a =>
      let ea := s.hGet v.part a
      if ea.state = hVALUE then again 1 (put { v with next := v.next + 1, addrs := v.addrs ++ [ea.vaddr] } s)
      else if ea.state = hFAULT then s.endEval tid v (some (Cause.ofCode ea.cause))
      else if ea.state = hSUSP then
        if demandMax ≤ s.chainLength (demandMax + 1) tid then s.endEval tid v (some .demand)
        else match (put wait s).startEval v.part a v.core v.prio (some tid) with
          | some s' => s'.addWaiter v.part a tid
          | none => again 16 s
      else match s.demandWalk (s.named ea.evtask) (demandMax + 1) tid with
        | none => s.endEval tid v (some .selfdep)
        | some true => s.endEval tid v (some .demand)
        | some false => (put wait s).addWaiter v.part a tid

/-- EVALUATION_COMPLETION (R94, R95, R247): a built-in evaluation that its core runs takes its next step, the last of which
completes the entry; a CALL entry completes as VALUE once its task has retired. -/
def execEvaluationCompletion (part idx : Nat) (s : State) : Out :=
  let e := s.hGet part idx
  let n := s.named e.evtask
  if e.state ≠ hEVAL then .next s
  else match s.evals.find n with
    | some v =>
      .next (if !v.running then s else if s.goes v.core then s.evalStep n v else s.after (.issue v.core) 1 (.evaluationCompletion part idx))
    | none =>
      .next (if (s.task n).isSome then s
        else if s.completeHeld part idx then s.at_ 16 (.evaluationCompletion part idx) else s.completeEntry part idx none)

/-! ## Checks of descriptors (R86, R88) -/

/-- A shape word (R86). -/
def shapeOk (w : Nat) (call : Bool) : Bool :=
  decide (w / 2 ^ 40 = 0 ∧ bitsOf w 27 5 = 0 ∧ bitsOf w 32 6 ≤ 32) && (call || decide (bitsOf w 32 8 = 0))
/-- The shape of an entry. -/
def HEntry.shaped (w : Nat) : HEntry := { fmt := bitsOf w 24 3, rowsM1 := bitsOf w 12 12, colsM1 := bitsOf w 0 12 }

/-- Number of arguments (R88). -/
def suspArgs (op : SuspOp) (shape : Nat) : Nat :=
  match op with
  | .cvt => 1
  | .call => bitsOf shape 38 2
  | _ => 2
/-- The descriptor's own fields are legal (R86, R88). -/
def suspOk (op : SuspOp) (d : List Nat) : Bool :=
  let w (k : Nat) := d.getD k 0
  let n := suspArgs op (w 3)
  shapeOk (w 3) (op == .call) && ((List.range 3).all fun k => decide (k < n) || w k == 0)
    && (if op = .call then decide (w 4 % 4 = 0 ∧ w 4 < 2 ^ 56) else w 4 == 0) && w 5 == 0 && w 6 == 0 && w 7 == 0

/-- Formats that MM takes (R88). -/
def mmFmt (f : Ft) : Bool := f == .bf16 || f == .fp16 || f == .e4m3 || f == .e5m2 || f == .int8
def sameShape (a b : HEntry) : Bool := a.rowsM1 == b.rowsM1 && a.colsM1 == b.colsM1
/-- ShapesAgree (R88). -/
def shapesAgree (op : SuspOp) (r : HEntry) (args : List HEntry) : Bool :=
  let a (k : Nat) : HEntry := args.getD k {}
  match op with
  | .call => true
  | .cvt => sameShape (a 0) r
  | .mm => (a 0).rowsM1 == r.rowsM1 && (a 1).colsM1 == r.colsM1 && (a 0).colsM1 == (a 1).rowsM1 && mmFmt (a 0).ft && mmFmt (a 1).ft
      && (if (a 0).ft = .int8 ∧ (a 1).ft = .int8 then r.ft == .int32 else (r.ft == .fp32 || r.ft == .bf16 || r.ft == .fp16))
  | _ => sameShape (a 0) r && sameShape (a 1) r && (a 0).fmt == r.fmt && (a 1).fmt == r.fmt

/-! ## Sparks (R96, R97) -/

/-- Entries of the spark pool (R96). -/
def sparkPool : Nat := 64
/-- Offer a handle to a cluster's pool (R96): whether it was appended; counted as sent by the core (R98). -/
def State.offer (s : State) (core : Nat) (h : W64) : Bool × State :=
  let k := clusterOf core
  let c := s.cluster k
  if sparkPool ≤ c.sparks.length then (false, s.setCluster k { c with overflow := c.overflow + 1 })
  else
    let s1 := (s.setCluster k { c with sparks := c.sparks ++ [h], offered := c.offered + 1 }).countSent core
    (true, if c.sparks.isEmpty then s1.after (dieClk core) 1 (.sparkConversion k) else s1)

/-- Indices of the suspended entries. -/
def State.suspended (s : State) (part : Nat) : List (Nat × HEntry) :=
  ((List.range (s.part part).hcFresh).map fun i => (i, s.hGet part i)).filter fun p => p.2.state == hSUSP
/-- The entry with the lowest SEQ: the oldest (R97). -/
def oldestSeq (n : Nat) (l : List (Nat × HEntry)) : Option Nat :=
  (l.foldl (fun (b : Option (Nat × HEntry)) p =>
    match b with
    | none => some p
    | some q => if (n + 2 ^ 32 - q.2.seq) % 2 ^ 32 < (n + 2 ^ 32 - p.2.seq) % 2 ^ 32 then some p else some q) none).map (·.1)
/-- SparkRoot (R97). -/
def State.sparkRoot (s : State) (part core : Nat) : State :=
  let l := s.suspended part
  let n := (s.part part).hcSeq.toNat
  let roots := l.filter (·.2.root)
  match oldestSeq n (if roots.isEmpty then l else roots) with
  | some i => (s.offer core (s.hHandle part i)).2
  | none => s

/-- A core that holds no running or ready task (R96, R221); a pre-empted one is ready (R28). -/
def State.idle (s : State) (core : Nat) : Bool :=
  ((s.tasksOn core).all fun t => match t.run with | .parked _ => true | _ => false) && (s.evalsOn core).all fun p => p.2.waiting

/-- SPARK_CONVERSION (R96, R221): the lowest-numbered idle core that has room for the evaluation takes the oldest handle; at most one a
cycle of the die. A retired cluster converts none (R224, R330), and a unit under test holds its entry (R313). An entry under an
uncorrectable error fizzles (DESIGN CHOICE, log 70). -/
def execSparkConversion (cluster : Nat) (s : State) : Out :=
  let c := s.cluster cluster
  let again (s : State) : State := s.after (.die (cluster / 128)) 1 (.sparkConversion cluster)
  match c.sparks with
  | [] => .next s
  | h :: r =>
    let part := hPart h
    let i := hIndex h
    let e := s.hGet part i
    let err := s.entryErr part i
    let susp := err.isNone && e.state == hSUSP && e.gen == hGen h
    let able (j : Nat) : Bool :=
      let core := 8 * cluster + j
      s.idle core && decide ((s.evalsOn core).length < evalSlots)
        && (!(susp && e.op == SuspOp.call.code) || decide ((s.tasksOn core).length < coreTasks))
    if s.clusterRetired cluster then .next s
    else if s.entryHeld part i then .next (again s)
    else match (List.range 8).find? able with
    | none => .next (again s)
    | some j =>
      let next (s : State) : State := if r.isEmpty then s else again s
      if susp then
        match (s.setCluster cluster { c with sparks := r, converted := c.converted + 1, recv := c.recv + 1 }).startEval part i (8 * cluster + j) 0 none with
        | some s' => .next (next s')
        | none => .next (again s)
      else .next (next ((s.setCluster cluster { c with sparks := r, fizzled := c.fizzled + 1, recv := c.recv + 1 }).metError err))

/-! ## The instructions (R85 to R97) -/

/-- The checks that every instruction that waits for its home begins with: PHASE, then the deferred report (R90); its
own earlier KEEPs and DROPs reach their homes first (R84), and it follows the acquires in the sequencer (R252). -/
def handleGate (i : Instr) (addr : W64) (s : State) (k : State → Out) : Out :=
  gate i s fun s => noCompute addr s fun s => if s.t.handleOps ≠ [] then stall s else acquired s fun s => takeHandle s k

/-- CheckHandle in an instruction (R81): it waits while a unit under test serves the entry (R313), and raises MEMERR with the handle
for an entry under an uncorrectable error (DESIGN CHOICE, log 70). -/
def withHandle (h : W64) (s : State) (k : Nat → State → Out) : Out :=
  let shaped := handleShape h s.t.part (s.part s.t.part).hcCapacity
  if shaped && s.entryHeld s.t.part (hIndex h) then stall s
  else if shaped && (s.entryErr s.t.part (hIndex h)).isSome then
    raise .memerr h (if s.t.seqEmpty then s.metError (s.entryErr s.t.part (hIndex h)) else s)
  else match s.checkHandle s.t.part h with
  | .ok i => k i s
  | .error (c, tv) => raise c tv s

/-- The next sequence number (R82). -/
def State.nextSeq (s : State) (part : Nat) : Nat × State :=
  let p := s.part part
  (p.hcSeq.toNat, s.setPart part { p with hcSeq := p.hcSeq + 1 })

/-- MKVAL (R87). Bits 63:56 of the tile address, which VADDR does not hold, are dropped (DESIGN CHOICE, log 63). -/
def execMkval (rd ra rb : Reg) (s : State) : Out :=
  handleGate (.mkval rd ra rb) (s.xr ra) s fun s =>
    let a := s.xr ra
    let w := s.xr rb
    let part := s.t.part
    if a.toNat % 64 ≠ 0 then raise .align a s
    else if !shapeOk w.toNat false then raise .illegal w s
    else match s.takeFree part with
      | none => raise .handle (BitVec.allOnes 64) s
      | some (i, s1) =>
        if s.controlHeld part || s.entryHeld part i then stall s
        else
        let g := s1.takenGen part i
        let q := g.2.nextSeq part
        let e := { HEntry.shaped w.toNat with gen := g.1, state := hVALUE, root := true, vaddr := bitsOf a.toNat 0 56,
                                              refcnt := 1, seq := q.1 }
        finAfter (s.controlStep s.t.core part + s.homeStep s.t.core part i) ((q.2.hPut part i e).xw rd (mkHandle part e.gen i))

/-- PEEK (R89). -/
def execPeek (rd ra : Reg) (s : State) : Out :=
  handleGate (.peek rd ra) 0 s fun s => withHandle (s.xr ra) s fun i s =>
    let e := s.hGet s.t.part i
    finAfter (s.homeStep s.t.core s.t.part i) (s.xw rd (BitVec.ofNat 64 (e.refcnt * 2 ^ 32 + e.state)))

/-- KEEP and DROP (R90): what the handle shows is checked at issue; the rest at the home, which the task does not wait
for. -/
def countRef (i : Instr) (ra : Reg) (keep : Bool) (s : State) : Out :=
  gate i s fun s => noCompute 0 s fun s => acquired s fun s =>
    let h := s.xr ra
    let t := s.t
    if !handleShape h t.part (s.part t.part).hcCapacity then raise .handle h s
    else fin (State.after { s.bump with t := { t with handleOps := t.handleOps ++ [(s.stamp, h, keep)] } } (dieClk t.core)
      (s.homeStep t.core t.part (hIndex h)) (.handleHomeCheck t.tid h keep))
/-- KEEP (R90). -/
def execKeep (ra : Reg) (s : State) : Out := countRef (.keep ra) ra true s
/-- DROP (R90, R91). -/
def execDrop (ra : Reg) (s : State) : Out := countRef (.drop ra) ra false s

/-- The task parks as the head waiter of an entry (R93), its steps at the homes taking n cycles (R383). -/
def parkOnEntry (i : Nat) (h : W64) (eager : Bool) (n : Nat) (s : State) : Out :=
  let s := s.addWaiter s.t.part i s.t.tid
  parkOn h (.handle s.t.part i eager) { s with t := { s.t with hold := s.tclock + n } }

/-- FORCE (R93). -/
def execForce (rd ra : Reg) (s : State) : Out :=
  handleGate (.force rd ra) 0 s fun s => onWake s (fun v => finX rd v s) <|
    let h := s.xr ra
    withHandle h s fun i s =>
      let part := s.t.part
      let e := s.hGet part i
      let n := s.homeStep s.t.core part i
      if e.state = hVALUE then finAfter n (s.xw rd (BitVec.ofNat 64 e.vaddr))
      else if e.state = hFAULT then raise (Cause.ofCode e.cause) h s
      else if e.state = hSUSP then
        if demandMax ≤ s.chainLength (demandMax + 1) s.t.tid then raise .demand h s
        else match s.startEval part i s.t.core s.t.prio (some s.t.tid) with
          | some s' => parkOnEntry i h false n s'
          | none => stall s
      else match s.demandWalk (s.named e.evtask) (demandMax + 1) s.t.tid with
        | none => raise .selfdep h s
        | some true => raise .demand h s
        | some false => parkOnEntry i h false n s

/-- SPARK (R96). -/
def execSpark (rd ra : Reg) (s : State) : Out :=
  handleGate (.spark rd ra) 0 s fun s =>
    let h := s.xr ra
    withHandle h s fun i s =>
      let n := s.homeStep s.t.core s.t.part i
      if (s.hGet s.t.part i).state ≠ hSUSP then finAfter n (s.xw rd 2)
      else
        let r := s.offer s.t.core h
        finAfter n (r.2.xw rd (if r.1 then 0 else 1))

/-- BUDGET (R97). -/
def execBudget (rd ra : Reg) (mode : BudgetMode) (s : State) : Out :=
  handleGate (.budget rd ra mode) 0 s fun s =>
    let part := s.t.part
    let p := s.part part
    if s.controlHeld part then stall s
    else
    let s1 := (s.setPart part { p with hcBound := s.xr ra, hcMode := mode.code }).budgetMoved part
    finAfter (s.controlStep s.t.core part) (s1.xw rd (BitVec.ofNat 64 p.hcTotal))

/-- What BoundStep gives (R97). -/
inductive Bound
  | charge
  | budget
  | eager
  | root
  | rootPark
deriving DecidableEq, Repr
/-- BoundStep(c) (R97). -/
def Part.bound (p : Part) (c : Nat) : Bound :=
  if p.hcTotal + c ≤ p.hcBound.toNat then .charge
  else if p.hcMode = 0 then .budget
  else if p.hcMode = 1 then .eager
  else if p.hcTotal ≤ p.hcBound.toNat then .root
  else .rootPark

/-- The charge of an entry (R88). -/
def HEntry.chargeOf (e : HEntry) : Nat := 64 + roundUp64 (e.rows * e.cols * e.ft.width)

/-- KeepArg of each argument in order, with its generation as it was checked; the first whose entry has changed stops it, and the
references taken are returned (R88). -/
def keepArgs (part : Nat) : List W64 → State → Except W64 State
  | [], s => .ok s
  | h :: r, s =>
    if !s.hLive part h then .error h
    else match keepArgs part r (s.keepArg part (hIndex h)) with
      | .ok s' => .ok s'
      | .error b => .error b

/-- Cycles of a SUSP with its descriptor and homes (R383): the descriptor's load, where it has been read this time; one step at
the control block, at each argument's home, and at the entry. -/
def State.suspCycles (s : State) (a : W64) (hs : List W64) (i : Nat) (read : Bool) : Nat :=
  let c := s.t.core
  let p := s.t.part
  (if read then s.loadLatency a else 0) + s.controlStep c p + s.homeStep c p i
    + (hs.map fun h => s.homeStep c p (hIndex h)).foldl (· + ·) 0

/-- SUSP past BoundStep: create the entry with a charge, or at once in evaluation (R88, R97). An argument that has changed since its
check undoes it all. `cycles` are the cycles of R383 for the entry it takes, `s0` the state in which the unit issued. -/
def suspCreate (rd : Reg) (e : HEntry) (hs : List W64) (charged eager : Bool) (cycles : Nat → Nat) (s0 s : State) : Out :=
  let part := s.t.part
  let c := e.chargeOf
  match s.takeFree part with
  | none => raiseAfter .handle (BitVec.allOnes 64) s0 s
  | some (i, s1) =>
    if s.entryHeld part i then stall s0
    else match keepArgs part hs s1 with
    | .error h => raiseAfter .handle h s0 (s1.hFree part i)
    | .ok s2 =>
      let g := s2.takenGen part i
      let s2 := g.2
      let q := s2.nextSeq part
      let p := q.2.part part
      let s3 := if charged then q.2.setPart part { p with hcTotal := p.hcTotal + c } else q.2
      let e := { e with gen := g.1, state := hSUSP, root := true, refcnt := 1, charge := if charged then c % 2 ^ 32 else 0, seq := q.1,
                        a0 := hIndex (hs.getD 0 0), a1 := hIndex (hs.getD 1 0), a2 := hIndex (hs.getD 2 0) }
      let s4 := s3.hPut part i e
      let h := mkHandle part e.gen i
      if eager then
        match s4.startEval part i s.t.core s.t.prio (some s.t.tid) with
        | some s5 => parkOnEntry i h true (cycles i) s5
        | none => stall s0
      else finAfter (cycles i) (s4.xw rd h)

/-- Check the argument handles in order (R88); an entry under an uncorrectable error is MEMERR (log 70). -/
def checkHandles (part : Nat) (s : State) : List W64 → Option Trap
  | [] => none
  | h :: r =>
    if handleShape h part (s.part part).hcCapacity && (s.entryErr part (hIndex h)).isSome then some (.memerr, h)
    else match s.checkHandle part h with
    | .error t => some t
    | .ok _ => checkHandles part s r

/-- The argument handles of a descriptor (R88). -/
def suspHandles (op : SuspOp) (d : List Nat) : List W64 := (d.take (suspArgs op (d.getD 3 0))).map (BitVec.ofNat 64)
/-- The entry that a descriptor describes, with the modes of the task (R88). -/
def suspEntry (op : SuspOp) (d : List Nat) (t : Task) (tile : W64) : HEntry :=
  let shape := d.getD 3 0
  { HEntry.shaped shape with op := op.code, narg := suspArgs op shape, vaddr := bitsOf tile.toNat 0 56,
                             callot := if op = .call then bitsOf shape 32 6 else 0, ent := d.getD 4 0,
                             modes := bitIf t.st.exact 2 + bitIf t.st.apx 1 + bitIf t.st.nft 0 }

/-- SUSP from BoundStep on (R88, R97), with the descriptor n that it has read, now or before it parked in SPARKOLD; `s0` is
the state in which the unit issued. -/
def suspBound (rd ra rb : Reg) (op : SuspOp) (n : Nat) (read : Bool) (s0 s : State) : Out :=
  let part := s.t.part
  let d := words64 n
  let hs := suspHandles op d
  let e := suspEntry op d s.t (s.xr rb)
  let first := hs.headD 0
  let cycles (i : Nat) := s.suspCycles (s.xr ra) hs i read
  let b := (s.part part).bound e.chargeOf
  let all := (b == .root || b == .rootPark) && (List.range (s.part part).hcFresh).any (s.entryHeld part)
  if s.controlHeld part || all then stall s0
  else match b with
  | .charge => suspCreate rd e hs true false cycles s0 s
  | .budget => raiseAfter .budget first s0 s
  | .eager =>
    if demandMax ≤ s.chainLength (demandMax + 1) s.t.tid then raiseAfter .demand first s0 s
    else suspCreate rd e hs false true cycles s0 s
  | .root => suspCreate rd e hs true false cycles s0 (s.sparkRoot part s.t.core)
  | .rootPark =>
    let s := s.sparkRoot part s.t.core
    park (.budget part n) { s with t := { s.t with hold := s.tclock + (if read then s.loadLatency (s.xr ra) else 0) + s.controlStep s.t.core part } }

/-- SUSP (R88, R97). Bits 63:56 of the tile address, which VADDR does not hold, are dropped (DESIGN CHOICE, log 63). -/
def execSusp (rd ra rb : Reg) (op : SuspOp) (s : State) : Out :=
  handleGate (.susp rd ra rb op) (s.xr ra) s fun s => onWake s (fun h => finX rd h s) <|
    match s.t.wake with
    | some (.bound n) => suspBound rd ra rb op n false s s
    | _ =>
      let a := s.xr ra
      let t := s.xr rb
      let part := s.t.part
      if a.toNat % 64 ≠ 0 then raise .align a s
      else if t.toNat % 64 ≠ 0 then raise .align t s
      else loadDesc a s fun n s' =>
        let d := words64 n
        let hs := suspHandles op d
        if !suspOk op d then raiseAfter .illegal a s s'
        else if (hs.filter fun h => handleShape h part (s'.part part).hcCapacity).any fun h => s'.entryHeld part (hIndex h) then stall s
        else match checkHandles part s' hs with
          | some (c, tv) => raiseAfter c tv s s'
          | none =>
            if !shapesAgree op (suspEntry op d s.t t) (hs.map fun h => s'.hGet part (hIndex h)) then raiseAfter .illegal a s s'
            else suspBound rd ra rb op n true s s'

end Sys2Proof.Machine
end

