-- ==== Sys2Proof/Machine/Groups.lean ====
section
/-! DEFINITION. Groups, barriers, followers (R205 to R209), phases and exchange (R178, R210 to R213). -/

namespace Sys2Proof.Machine

/-! ## Groups -/

def State.group (s : State) (k g : Nat) : Group := (s.cluster k).groups.getD g {}
def State.setGroup (s : State) (k g : Nat) (r : Group) : State :=
  let c := s.cluster k
  s.setCluster k { c with groups := if r.members.isEmpty then c.groups.del g else c.groups.put g r }

/-- The leader (R205): the member on the lowest-numbered core. -/
def State.leader (s : State) (k g : Nat) : Option Nat :=
  let ms := (s.group k g).members.filterMap s.task
  (ms.foldl (fun (b : Option Task) t => match b with | none => some t | some u => if t.core < u.core then some t else some u) none).map (·.tid)

/-- The issue cycles of the cores of a cluster. -/
def clusterClk (k : Nat) : Clk := .issue (8 * k)
/-- The exchange clock of a cluster (R211): it stands still while the cluster's cores issue nothing (R323, R324). -/
def State.xclock (s : State) (k : Nat) : Nat := s.reads (clusterClk k) - (s.cluster k).clock
/-- Cycles to the first epoch boundary at least n cycles from now. -/
def State.toEpoch (s : State) (k n : Nat) : Nat := (s.xclock k + n + 63) / 64 * 64 - s.xclock k

/-- Followers of a group get no more units from its old leader; one that still waits goes on by itself (R209). -/
def detachAll (k g : Nat) : List Task → State → State
  | [], s => s
  | t :: r, s =>
    let s := match t.follow with
      | some f =>
        if f.cluster = k ∧ f.g = g then
          if f.begun then s.modTask t.tid fun t => { t with follow := t.follow.map fun f => { f with ended := true } }
          else (s.modTask t.tid fun t => { t with follow := none }).wakeTask t.tid (.value 0)
        else s
      | none => s
    detachAll k g r s
/-- The leader has trapped, been pre-empted or retired (R209): its followers get no more units from it. -/
def leaderGone (leader : Nat) : List Task → State → State
  | [], s => s
  | t :: r, s =>
    leaderGone leader r (match t.follow with
      | some f =>
        if f.leader ≠ leader then s
        else if f.begun then s.modTask t.tid fun t => { t with follow := t.follow.map fun f => { f with ended := true } }
        else (s.modTask t.tid fun t => { t with follow := none }).wakeTask t.tid (.value 0)
      | none => s)
/-- After a change of members: followers of another leader detach. -/
def State.reLead (s : State) (k g : Nat) (old : Option Nat) : State :=
  if s.leader k g = old then s else detachAll k g s.allTasks s

/-- The groups of a cluster whose leader is another one than it was in `b`: their followers detach (R209). -/
def State.reLeadAll (s b : State) (k : Nat) : State := (List.range 16).foldl (fun s g => s.reLead k g (b.leader k g)) s

/-- Every member has arrived: the release is fixed for the first epoch boundary at least 8 cycles on (R207). -/
def State.checkBarrier (s : State) (k g : Nat) : State :=
  let r := s.group k g
  if r.release.isNone && !r.members.isEmpty && r.members.all (fun m => match s.task m with
      | some t => t.run == .parked (.barrier k g)
      | none => false) then
    (s.setGroup k g { r with release := some r.members }).after (clusterClk k) (s.toEpoch k 8) (.gbarRelease k (Fin.ofNat 16 g))
  else s

/-- Remove a task from a group. -/
def State.ungroup (s : State) (k g tid : Nat) : State :=
  let r := s.group k g
  if r.members.contains tid then
    let old := s.leader k g
    ((s.setGroup k g { r with members := r.members.filter (· != tid) }).reLead k g old).checkBarrier k g
  else s
/-- A task leaves every group of a cluster (R20, R206). -/
def State.ungroupAll (s : State) (k tid : Nat) : State := (List.range 16).foldl (fun s g => s.ungroup k g tid) s

/-- The group number's check (R205). -/
def groupGate (i : Instr) (ra : Reg) (s : State) (f : Nat → Nat → State → Out) : Out :=
  gate i s fun s => noCompute 0 s fun s =>
    let g := s.xr ra
    if 15 < g.toNat then raise .illegal g s else f (clusterOf s.t.core) g.toNat s

/-- GJOIN (R206). -/
def execGjoin (rd ra : Reg) (s : State) : Out :=
  groupGate (.gjoin rd ra) ra s fun k g s =>
    let r := s.group k g
    if r.members.contains s.t.tid then finX rd 2 s
    else if (r.members.filterMap s.task).any fun t => t.core == s.t.core then finX rd 1 s
    else
      let old := s.leader k g
      let s' := s.setGroup k g { r with members := r.members ++ [s.t.tid] }
      finX rd 0 (if r.members.isEmpty then s' else s'.reLead k g old)
/-- GLEAVE (R206). -/
def execGleave (rd ra : Reg) (s : State) : Out :=
  groupGate (.gleave rd ra) ra s fun k g s =>
    if (s.group k g).members.contains s.t.tid then finX rd 0 (s.ungroup k g s.t.tid) else finX rd 1 s
/-- GBAR (R207). -/
def execGbar (rd ra : Reg) (s : State) : Out :=
  groupGate (.gbar rd ra) ra s fun k g s => onWake s (fun v => finX rd v s) <|
    if !(s.group k g).members.contains s.t.tid then raise .illegal (BitVec.ofNat 64 g) s
    else released s fun s =>
      match park (.barrier k g) s with
      | .next s' => .next (s'.checkBarrier k g)
      | r => r

/-- Wake the tasks of a list that still wait at the barrier. -/
def wakeBarrier (k g : Nat) (v : W64) : List Nat → State → State
  | [], s => s
  | m :: r, s =>
    wakeBarrier k g v r (match s.task m with
      | some t => if t.run = .parked (.barrier k g) then s.wakeTask m (.value v) else s
      | none => s)
/-- GBAR_RELEASE (R207): every member of the completed barrier is released in the same cycle with the barrier number. -/
def execGbarRelease (cluster : Nat) (g : Fin 16) (s : State) : Out :=
  let r := s.group cluster g.val
  match r.release with
  | none => .next s
  | some ms =>
    if s.xclock cluster % 64 ≠ 0 then .next (s.after (clusterClk cluster) (s.toEpoch cluster 0) (.gbarRelease cluster g)) else
    let s := wakeBarrier cluster g.val (BitVec.ofNat 64 r.barrier) ms s
    .next ((s.setGroup cluster g.val { r with barrier := (r.barrier + 1) % 65536, release := none }).checkBarrier cluster g.val)

/-- The unit that a parked FOLLOW waits for has been issued (R208): the task goes on there, with the leader's units; or its
leader has gone meanwhile, and it goes on by itself (R209). -/
def joinLeader (s : State) : Out :=
  match s.t.follow with
  | some f => .next { s with t := { s.t with pc := f.label, last := .moved, wake := none, follow := some { f with joined := true } } }
  | none => fin s
/-- FOLLOW (R208): with itself as leader the task goes on; otherwise it parks until the leader issues the unit at the
label, and then executes the leader's units from there. A follower that executes it from the stream follows anew. -/
def execFollow (ra rb : Reg) (s : State) : Out :=
  groupGate (.follow ra rb) ra s fun k g s => onWake s (fun _ => joinLeader s) <|
    let L := s.xr rb
    if !(s.group k g).members.contains s.t.tid then raise .illegal (BitVec.ofNat 64 g) s
    else if L.toNat % 4 ≠ 0 then raise .align L s
    else if s.t.slot.isSome ∨ s.t.len ≠ 4 then raise .illegal s.tword s
    else match s.leader k g with
      | some l =>
        if l = s.t.tid then fin s
        else park (.follow k g L) { s with t := { s.t with follow := some { cluster := k, g := g, leader := l, label := L } } }
      | none => fin s

/-! ## Phases (R178, R211, R213) -/

/-- The phase that PHASE starts, once everything has drained (R178): an exchange phase is held until the next epoch boundary
(R211), on an optimiser core, which has no exchange clock, it starts with the next unit (log 17). -/
def startPhase (kind : PhaseKind) (s : State) : Out :=
  let s := if s.t.st.ph = .x then s.clearSlots s.t.core else s
  let t := { s.t with st := { s.t.st with ph := kind }, xphase := s.tissued + 1 }
  if kind = .x ∧ !isOpt t.core then
    let k := clusterOf t.core
    fin (State.after { s with t := { t with xhold := some (s.reads (clusterClk k)) } } (clusterClk k) (s.toEpoch k 1) (.epochBoundary k))
  else fin { s with t := t }
/-- PHASE (R178): drains, then sets STATUS.PH; leaving an exchange phase waits for the pending sends (R213). -/
def execPhase (kind : PhaseKind) (s : State) : Out :=
  gate (.phase kind) s fun s => drained s fun s =>
    if !s.t.answers.isEmpty then stall s
    else if s.t.st.ph = .x ∧ !s.t.xsend.isEmpty then stall s
    else startPhase kind { s with t := s.t.deliverLoads }

/-- Start the held exchange phases of a cluster. -/
def startPhases (k : Nat) : List Task → State → State
  | [], s => s
  | t :: r, s =>
    startPhases k r (match t.xhold with
      | some d => if isCompute t.core && clusterOf t.core == k && decide (d < s.reads (clusterClk k)) then
          s.modTask t.tid fun t => { t with xhold := none, xphase := s.reads (clusterClk k) } else s
      | none => s)
/-- EPOCH_BOUNDARY (R211): held phases whose drain ended in an earlier cycle start cycle 0. -/
def execEpochBoundary (cluster : Nat) (s : State) : Out :=
  if s.xclock cluster % 64 = 0 then .next (startPhases cluster s.allTasks s)
  else if s.allTasks.any fun t => t.xhold.isSome && isCompute t.core && clusterOf t.core == cluster then
    .next (s.after (clusterClk cluster) (s.toEpoch cluster 0) (.epochBoundary cluster))
  else .next s

/-! ## Exchange (R212) -/

/-- SENDAT (R212). -/
def execSendat (vr : Reg) (peer : Fin 8) (cyc : BitVec 14) (s : State) : Out :=
  gate (.sendat vr peer cyc) s fun s =>
    let c : W64 := cyc.setWidth 64
    if s.t.st.ph ≠ .x then raise .phase c s
    else if seqNames s [vr.val] then stallSeq s
    else if (s.t.xsend.find peer.val).isSome then stall s
    else if s.t.xphase + cyc.toNat < s.tissued then raise .phase c s
    else
      let t := { s.t with xsend := s.t.xsend.put peer.val (s.vr vr, cyc.toNat) }
      fin (State.after { s with t := t } (.issue s.t.core) (s.t.xphase + cyc.toNat - s.tissued) (.exchangeTransfer s.t.tid peer))

/-- The contents of a receive slot in this cycle: the latest arrival of a sender. -/
def landed (from_ now : Nat) (l : List (Nat × VReg × Nat × Nat)) : Option (VReg × Nat) :=
  ((l.filter fun e => e.1 == from_ && decide (e.2.2.2 ≤ now)).getLast?).map fun e => (e.2.1, e.2.2.1)
/-- The slot is cleared. -/
def clearLanded (from_ now : Nat) (l : List (Nat × VReg × Nat × Nat)) : List (Nat × VReg × Nat × Nat) :=
  l.filter fun e => !(e.1 == from_ && decide (e.2.2.2 ≤ now))

/-- RECVAT (R212). -/
def execRecvat (vr : Reg) (peer : Fin 8) (cyc : BitVec 14) (s : State) : Out :=
  gate (.recvat vr peer cyc) s fun s =>
    let c : W64 := cyc.setWidth 64
    if s.t.st.ph ≠ .x then raise .phase c s
    else if seqNames s [vr.val] then stallSeq s
    else if s.tissued < s.t.xphase + cyc.toNat + 2 then stall s
    else
      let k := s.core s.t.core
      match landed peer.val s.tissued k.xrecv with
      | some (v, n) =>
        if n = cyc.toNat then fin ((s.setCore s.t.core { k with xrecv := clearLanded peer.val s.tissued k.xrecv }).vw vr v)
        else raise .phase c s
      | none => raise .phase c s

/-- EXCHANGE_TRANSFER (R212): the vector crosses, the send slot is free, and it lands two cycles later in the peer's
receive slot for this core. -/
def execExchangeTransfer (tid : Nat) (peer : Fin 8) (s : State) : Out :=
  match s.task tid with
  | none => .next s
  | some t =>
    match t.xsend.find peer.val with
    | none => .next s
    | some (v, c) =>
      let n := s.issued t.core
      if n < t.xphase + c then .next (s.after (.issue t.core) (t.xphase + c - n) (.exchangeTransfer tid peer))
      else
        let s := s.setTask { t with xsend := t.xsend.del peer.val }
        let dest := t.core / 8 * 8 + peer.val
        let k := s.core dest
        .next (s.setCore dest { k with xrecv := k.xrecv ++ [(t.core % 8, v, c, n + 2)] })

end Sys2Proof.Machine
end

