-- ==== Sys2Proof/Machine/Sequencer.lean ====
section
/-! DEFINITION. The vector sequencer at work (R130, R133, R135, R138): the word at its head executes, and a
vector-precise trap is delivered (R76, R77, R201). -/

namespace Sys2Proof.Machine

/-- Execute a vector word of the sequencer: what its instruction does at execution. Entries hold vector words only
(R130). -/
def runV (e : Entry) (s : State) : VRes :=
  match e.i with
  | .vadd rd ra rb pg ft => runWord e.i (runArith .add rd ra rb pg ft) e s
  | .vsub rd ra rb pg ft => runWord e.i (runArith .sub rd ra rb pg ft) e s
  | .vmul rd ra rb pg ft => runWord e.i (runArith .mul rd ra rb pg ft) e s
  | .vmulz rd ra rb pg ft => runWord e.i (runArith .mulz rd ra rb pg ft) e s
  | .vmin rd ra rb pg ft => runWord e.i (runArith .min rd ra rb pg ft) e s
  | .vmax rd ra rb pg ft => runWord e.i (runArith .max rd ra rb pg ft) e s
  | .vfma rd ra rb pg ft => runWord e.i (runArith .fma rd ra rb pg ft) e s
  | .vfmaz rd ra rb pg ft => runWord e.i (runArith .fmaz rd ra rb pg ft) e s
  | .vaddX rd ra _ pg ft => runWord e.i (runArithX .add rd ra pg ft) e s
  | .vsubX rd ra _ pg ft => runWord e.i (runArithX .sub rd ra pg ft) e s
  | .vmulX rd ra _ pg ft => runWord e.i (runArithX .mul rd ra pg ft) e s
  | .vmulzX rd ra _ pg ft => runWord e.i (runArithX .mulz rd ra pg ft) e s
  | .vminX rd ra _ pg ft => runWord e.i (runArithX .min rd ra pg ft) e s
  | .vmaxX rd ra _ pg ft => runWord e.i (runArithX .max rd ra pg ft) e s
  | .vfmaX rd ra _ pg ft => runWord e.i (runArithX .fma rd ra pg ft) e s
  | .vfmazX rd ra _ pg ft => runWord e.i (runArithX .fmaz rd ra pg ft) e s
  | .vand rd ra rb pg ft => runWord e.i (runLogic (fun _ a b => a &&& b) rd ra rb pg ft) e s
  | .vor rd ra rb pg ft => runWord e.i (runLogic (fun _ a b => a ||| b) rd ra rb pg ft) e s
  | .vxor rd ra rb pg ft => runWord e.i (runLogic (fun _ a b => a ^^^ b) rd ra rb pg ft) e s
  | .vandn rd ra rb pg ft => runWord e.i (runLogic elAndn rd ra rb pg ft) e s
  | .vshl rd ra rb pg ft => runWord e.i (runLogic elShl rd ra rb pg ft) e s
  | .vshr rd ra rb pg ft => runWord e.i (runLogic elShr rd ra rb pg ft) e s
  | .vsar rd ra rb pg ft => runWord e.i (runLogic elSar rd ra rb pg ft) e s
  | .vrotl rd ra rb pg ft => runWord e.i (runLogic elRotl rd ra rb pg ft) e s
  | .vceq rd ra rb pg ft => runWord e.i (runCmp cmpEq rd ra rb pg ft) e s
  | .vcne rd ra rb pg ft => runWord e.i (runCmp cmpNe rd ra rb pg ft) e s
  | .vclt rd ra rb pg ft => runWord e.i (runCmp cmpLt rd ra rb pg ft) e s
  | .vcle rd ra rb pg ft => runWord e.i (runCmp cmpLe rd ra rb pg ft) e s
  | .vcgt rd ra rb pg ft => runWord e.i (runCmp cmpGt rd ra rb pg ft) e s
  | .vcge rd ra rb pg ft => runWord e.i (runCmp cmpGe rd ra rb pg ft) e s
  | .vcnan rd ra pg ft => runWord e.i (runTest FV.isNaN rd ra pg ft) e s
  | .vcinf rd ra pg ft => runWord e.i (runTest FV.isInf rd ra pg ft) e s
  | .vmov rd ra pg => runWord e.i (runVmov rd ra pg) e s
  | .vsel rd ra rb pg => runWord e.i (runVsel rd ra rb pg) e s
  | .vbcast rd _ pg ft => runWord e.i (runVbcast rd pg ft) e s
  | .pand rd ra rb => runWord e.i (runPred (· &&& ·) rd ra rb) e s
  | .por rd ra rb => runWord e.i (runPred (· ||| ·) rd ra rb) e s
  | .pxor rd ra rb => runWord e.i (runPred (· ^^^ ·) rd ra rb) e s
  | .pnot rd ra => runWord e.i (runPred (fun a _ => ~~~ a) rd ra ra) e s
  | .vcvt rd ra rtz fd pg ft => runWord e.i (runVcvt rd ra rtz fd pg ft) e s
  | .vrsum rd ra pg ft => runWord e.i (runRed .sum rd ra pg ft) e s
  | .vrmax rd ra pg ft => runWord e.i (runRed .max rd ra pg ft) e s
  | .vrmin rd ra pg ft => runWord e.i (runRed .min rd ra pg ft) e s
  | .vramax rd ra pg ft => runWord e.i (runRed .amax rd ra pg ft) e s
  | .vrssq rd ra pg ft => runWord e.i (runRed .ssq rd ra pg ft) e s
  | .vshuf rd ra rb pg ft => runWord e.i (runVshuf rd ra rb pg ft) e s
  | .vrotr rd ra _ pg ft => runWord e.i (runVrotr rd ra pg ft) e s
  | .vslup rd ra _ pg ft => runWord e.i (runVslup rd ra pg ft) e s
  | .vsldn rd ra _ pg ft => runWord e.i (runVsldn rd ra pg ft) e s
  | .vzip rd ra rb pg ft => runWord e.i (runVzip rd ra rb pg ft) e s
  | .vunzip rd ra rb pg ft => runWord e.i (runVunzip rd ra rb pg ft) e s
  | .vexp2 rd ra pg ft => runWord e.i (runSF .exp2 rd ra pg ft) e s
  | .vlog2 rd ra pg ft => runWord e.i (runSF .log2 rd ra pg ft) e s
  | .vrcp rd ra pg ft => runWord e.i (runSF .rcp rd ra pg ft) e s
  | .vrsq rd ra pg ft => runWord e.i (runSF .rsq rd ra pg ft) e s
  | .vexp rd ra pg ft => runWord e.i (runSF .exp rd ra pg ft) e s
  | .vtanh rd ra pg ft => runWord e.i (runSF .tanh rd ra pg ft) e s
  | .vsilu rd ra pg ft => runWord e.i (runSF .silu rd ra pg ft) e s
  | .vext rd ra _ ft => runWord e.i (runVext rd ra ft) e s
  | .vins rd _ _ ft => runWord e.i (runVins rd ft) e s
  | .viota rd pg ft => runWord e.i (runViota rd pg ft) e s
  | .vrrd rd ra _ pg len => runWord e.i (runVrrd rd ra pg len) e s
  | .vrwr rd ra _ pg len => runWord e.i (runVrwr rd ra pg len) e s
  | .vnrd rd ra pd pg k => runWord e.i (runVnrd rd ra pd pg k) e s
  | .vstats fin_ ra _ pg ft => runWord e.i (runVstats fin_ ra pg ft) e s
  | .vsmx rd ra _ pg ft => runWord e.i (runVsmx rd ra pg ft) e s
  | .vlse rd _ => runWord e.i (runVlse rd) e s
  | .sbget rd _ pg => runWord e.i (runSbget rd pg) e s
  | .sbset ra _ pg => runWord e.i (runSbset ra pg) e s
  | .vld vr _ _ pg sc => runWord e.i (runLoad 64 addrRow vr pg sc) e s
  | .vst vr _ _ pg sc => runWord e.i (runStore 64 addrRow vr pg sc) e s
  | .vlds vr _ _ pg sc => runWord e.i (runLoad 32 addrStride vr pg sc) e s
  | .vsts vr _ _ pg sc => runWord e.i (runStore 32 addrStride vr pg sc) e s
  | .vldx vr _ _ pg sc => runWord e.i (runLoad 32 addrIndex vr pg sc) e s
  | .vstx vr _ _ pg sc => runWord e.i (runStore 32 addrIndex vr pg sc) e s
  | .vstq vr _ _ => runWord e.i (runVstq vr) e s
  | .vldv vr _ _ pg _ pol => runWord e.i (runVldv vr pg pol) e s
  | _ => .ok s

/-! ## The executing word (R130, R135) -/

/-- What the sequencer of the task in focus does in a cycle. -/
inductive SeqEnd
  /-- It holds no word, or its word does not begin yet: it waits for the unit, for its operands (R136), for an answer that writes one of
  its registers, or for an acquire at row scope. -/
  | idle
  /-- Its word has completed. -/
  | stepped (s : State)
  /-- Its word waits (R150, R183, R281). -/
  | waits (s : State)
  /-- Its word raises a trap: the word's address, what its walks leave, and the place of an error that it met. -/
  | traps (addr : W64) (c : Cause) (tval : W64) (rec : Option (Vector W64 4)) (walks : State) (err : Option Nat)

/-- The word at the head of the sequencer executes; an A word reads what its pair's C word found (R32, R130). -/
def State.seqStep (s : State) : SeqEnd :=
  match s.t.seq.head with
  | none => .idle
  | some u =>
    match u.word? with
    | none => .idle
    | some (e, isA) =>
      if (s.t.seq.wait.isNone && !s.begins e.i (if isA then u.snap else {})) || !s.t.rowWait.all s.published then .idle
      else
        match runV e { s with old := if isA then some (u.snap.over s.t) else none } with
        | .ok s' => .stepped { s' with t := Task.wordDone s.t s'.t, old := none }
        | .wait s' => .waits { s' with old := none }
        | .trap c tv r none => .traps e.addr c tv r s none
        | .trap c tv r (some m) => .traps e.addr c tv r { m.s with t := s.t, old := none } m.err

/-! ## Vector-precise traps (R76, R77, R201) -/

/-- A vector-precise trap may be delivered now: never between a transfer and its delay slot (R58) nor in a capture
(R134), unless the unit at issue waits for the sequencer (R77, R201). A unit that has been woken with a result completes first;
one that tests again, or raises a trap, and waits for the sequencer, has had no effect (R77). -/
def Task.vecDeliverable (t : Task) : Bool :=
  t.run == .running && (t.trapWait || (t.slot.isNone && t.seq.cap.isNone)) && match t.wake with
    | none => true
    | some .retry => t.trapWait
    | some (.trap _ _) => t.trapWait
    | some (.bound _) => t.trapWait
    | some _ => false

/-- The wait of the word at the head is abandoned: the blocks that it has consumed are unread again (R138, R186). -/
def Task.unwait (t : Task) : Task :=
  match t.seq.wait with
  | some w => { t with seq := { t.seq with wait := none }, streams := if w.before.isEmpty then t.streams else w.before }
  | none => t

/-- The A word that a waiting DONE has issued is in the sequencer; it executes again with its pair (R20). -/
def Task.dropDoneWord (t : Task) : Task :=
  if t.doneA then
    { t with doneA := false, seq := { t.seq with items := t.seq.items.filter fun i => match i with
        | .unit u => !(u.c.isNone && u.a.any fun e => e.addr == t.pc + 4)
        | .loop .. => true } }
  else t

/-- Delivery (R76): SEQADDR, ITER, the record of R120, the sequencer into the replay area, the trap with EPC at the next
unit, and the record of R57 in a delay slot; a trap ends an open capture (R134 rule 7). The report that a VSTQ has taken
is gone (R244). -/
def deliverVector (addr : W64) (c : Cause) (tval : W64) (rec : Option (Vector W64 4)) (s : State) : State :=
  let t := s.t.unwait
  let epc := match t.seq.cap with | some k => k.at_ | none => t.pc
  let iter := t.passNow
  let t := { t with seq := { t.seq with cap := none } }.dropDoneWord
  let t := { t with
    seqaddr := addr
    iter := BitVec.ofNat 64 iter
    nfRec := rec.getD t.nfRec
    matrixReport := match t.matrixReport with | some (d, tv, _) => if d = c ∧ tv = tval then none else t.matrixReport | none => none
    replay := { items := t.seq.items }
    seq := { t.seq with items := [] } }
  match t.slot with
  | some T => enterTrap c tval true epc T true { s with t := t }
  | none => enterTrap c tval true epc t.btgt false { s with t := t }

end Sys2Proof.Machine
end

