-- ==== Sys2Proof/Machine/Supersteps.lean ====
section
/-! DEFINITION. Supersteps (R356 to R363): SYNCALL, TREE, and their completion in the routers. -/

namespace Sys2Proof.Machine

/-! ## Launches and reduction trees (R356, R362) -/

def State.setLaunch (s : State) (n : Nat) (l : Launch) : State := { s with launches := s.launches.put n l }
/-- Word k of a packet (R341). -/
def Launch.word (l : Launch) (k : Nat) : Nat := l.d.getD k 0
/-- Tasks of a packet (R341). -/
def packetTasks (d : List Nat) : Nat :=
  let c := d.getD 2 0
  bitsOf c 0 16 * bitsOf c 16 16 * bitsOf c 32 16
/-- Participants (R356): placed or launched, and not retired. -/
def State.participants (s : State) (n : Nat) : List Task := s.allTasks.filter fun t => t.launch == n
/-- Every packet task has been placed; one that has not counts as not arrived (R356). -/
def Launch.allPlaced (l : Launch) : Bool := decide (packetTasks l.d ≤ l.placed)

/-- Dies of a partition (R362). -/
def Part.dies (p : Part) : List Nat := (p.clusters.map (· / 128) ++ p.opts.map (· / 24)).eraseDups
/-- Trees of a partition's dies that launches hold (R362). -/
def State.treesUsed (s : State) (part : Nat) : List Nat :=
  let ds := (s.part part).dies
  s.launches.vals.filterMap fun l => if (s.part l.part).dies.any ds.contains then l.tree else none
/-- The lowest free tree, 0 to 14 (R362). -/
def State.freeTree (s : State) (part : Nat) : Option Nat := (List.range 15).find? fun k => !(s.treesUsed part).contains k
/-- A launch's tree, bound at its first SYNCALL or TREE; none while no tree is free (R362). -/
def State.bindTree (s : State) (n : Nat) : Option State :=
  match s.launches.find n with
  | none => none
  | some l => match l.tree with
    | some _ => some s
    | none => (s.freeTree l.part).map fun k => s.setLaunch n { l with tree := some k }

/-- Tasks that wait for a tree test again (R362). -/
def wakeTrees : List Task → State → State
  | [], s => s
  | t :: r, s => wakeTrees r (match t.run with
    | .parked (.syncall false) => s.wakeTask t.tid .retry
    | .parked (.tree false) => s.wakeTask t.tid .retry
    | _ => s)

/-- Cycles in which a barrier or round completes after its last arrival (R362). -/
def State.treeDelay (s : State) (part : Nat) : Nat := if (s.part part).dies.length ≤ 1 then 520 else 900

/-! ## SYNCALL (R358) -/

/-- Every participant is parked in SYNCALL, and none is missing. -/
def State.syncReady (s : State) (n : Nat) : Bool :=
  match s.launches.find n with
  | none => false
  | some l => l.allPlaced && !(s.participants n).isEmpty && (s.participants n).all fun t => t.run == .parked (.syncall true)
/-- The release follows the last arrival, which a core has made, in cycles that throttling does not hold (R362). -/
def State.checkSync (s : State) (n core : Nat) : State :=
  match s.launches.find n with
  | some l => if s.syncReady n then s.after (.issue core) (s.treeDelay l.part) (.syncallRelease n) else s
  | none => s

/-- Wake every task of a list with a value. -/
def wakeAll (v : W64) : List Task → State → State
  | [], s => s
  | t :: r, s => wakeAll v r (s.wakeTask t.tid (.value v))
/-- SYNCALL_RELEASE (R358): the superstep number advances, and every participant completes with it. -/
def execSyncallRelease (launch : Nat) (s : State) : Out :=
  match s.launches.find launch with
  | none => .next s
  | some l =>
    if s.syncReady launch then
      let n := l.superstep + 1
      .next (wakeAll (n.setWidth 64) (s.participants launch) (s.setLaunch launch { l with superstep := n }))
    else .next s

/-- SYNCALL (R356, R358, R363): an arrival is a release; without a launch it is illegal. -/
def execSyncall (rd : Reg) (s : State) : Out :=
  gate (.syncall rd) s fun s =>
    if s.t.st.ph ≠ .n then raise .phase 0 s
    else onWake s (fun v => finX rd v s) <|
      if (s.launches.find s.t.launch).isNone then raise .illegal s.tword s
      else released s fun s => match s.bindTree s.t.launch with
        | none => park (.syncall false) s
        | some s' => match park (.syncall true) s' with
          | .next s'' => .next (s''.checkSync s.t.launch s.t.core)
          | r => r

/-! ## TREE (R359 to R361) -/

/-- Lane format and lanes of a control word (R360). -/
def treeFmt (c : W64) : Nat := bitsOf c.toNat 4 2
def treeLanes (c : W64) : Nat := bitsOf c.toNat 0 3 + 1
/-- The control word is legal for the operation (R359, R360). -/
def treeOk (op : TreeOp) (c : W64) : Bool :=
  decide (c.toNat / 2 ^ 6 = 0 ∧ bitsOf c.toNat 3 1 = 0 ∧ treeFmt c ≠ 3) && (decide (op.code < 3) || treeFmt c == 0)

/-- The empty pair (R361). -/
def emptyPair : Nat := 0xFF800000FFFFFFFF
/-- Score of a pair. -/
def pairScore (p : Nat) : FV := decodeEl .fp32 (p / 2 ^ 32)
/-- Rank of a score: NaN lowest (R361). -/
def scoreBefore (a b : FV) : Bool :=
  match a, b with
  | .nan, _ => false
  | _, .nan => true
  | x, y => FV.lt y x
/-- Pair a ranks above pair b (R361). -/
def pairBefore (a b : Nat) : Bool :=
  let x := pairScore a
  let y := pairScore b
  scoreBefore x y || (!scoreBefore y x && decide (a % 2 ^ 32 < b % 2 ^ 32))
/-- A pair with its NaN score canonical (R361). -/
def canonPair (p : Nat) : Nat :=
  match pairScore p with
  | .nan => roundNE .fp32 .nan * 2 ^ 32 + p % 2 ^ 32
  | _ => p
/-- Insert in rank order, behind equals. -/
def insertPair (p : Nat) : List Nat → List Nat
  | [] => [p]
  | q :: r => if pairBefore p q then p :: q :: r else q :: insertPair p r
def sortPairs : List Nat → List Nat
  | [] => []
  | p :: r => insertPair p (sortPairs r)

/-- Lane j of a record. -/
def treeLane (v j : Nat) : Nat := bitsOf v (64 * j) 64
/-- A record from its lanes. -/
def recordOf : List Nat → Nat
  | [] => 0
  | x :: r => x % 2 ^ 64 + 2 ^ 64 * recordOf r

/-- Combine two lanes of .sum, .max, .min, .and, .or (R360). -/
def lane2 (op : TreeOp) (fmt a b : Nat) : Nat :=
  match op with
  | .sum => if fmt = 2 then roundNE .fp32 (FV.add (decodeEl .fp32 a) (decodeEl .fp32 b)) else (a + b) % 2 ^ 64
  | .max => if fmt = 2 then maxEl .fp32 a b else if (if fmt = 0 then decide (toSigned 64 a < toSigned 64 b) else decide (a < b)) then b else a
  | .min => if fmt = 2 then minEl .fp32 a b else if (if fmt = 0 then decide (toSigned 64 b < toSigned 64 a) else decide (b < a)) then b else a
  | .and => a &&& b
  | .or => a ||| b
  | .topk8 => 0

/-- A lane of one contribution alone: any NaN of a sum, a maximum or a minimum in fp32 is canonical (R140, R145, R360). -/
def laneAlone (op : TreeOp) (fmt a : Nat) : Nat :=
  if fmt = 2 ∧ op.code < 3 ∧ (decodeEl .fp32 a).isNaN then roundNE .fp32 .nan else a

/-- Combine (R360, R361): the contributions stand in the fixed order. -/
def treeCombine (op : TreeOp) (c : W64) (vs : List Nat) : Nat :=
  let n := treeLanes c
  if op = .topk8 then
    let top := (sortPairs (vs.flatMap fun v => (List.range n).map fun j => canonPair (treeLane v j))).take n
    recordOf (top ++ List.replicate (8 - top.length) emptyPair)
  else
    let width := if treeFmt c = 2 ∧ op.code < 3 then 2 ^ 32 else 2 ^ 64
    recordOf ((List.range n).map fun j =>
      ((treeGo (lane2 op (treeFmt c)) 32 (vs.map fun v => laneAlone op (treeFmt c) (treeLane v j % width))).headD 0))

/-- Contributions in order of core, then TASKID (R360). -/
def arrivalKey (s : State) (a : Arrival) : Nat := s.coreOf a.tid * 2 ^ 32 + a.tid % 2 ^ 32
def insertArrival (s : State) (a : Arrival) : List Arrival → List Arrival
  | [] => [a]
  | b :: r => if arrivalKey s a < arrivalKey s b then a :: b :: r else b :: insertArrival s a r
def sortArrivals (s : State) : List Arrival → List Arrival
  | [] => []
  | a :: r => insertArrival s a (sortArrivals s r)

/-- Every participant has arrived in a round: it waits in it, or has gone past it (R356, R359). -/
def State.roundReady (s : State) (n round : Nat) : Bool :=
  match s.launches.find n with
  | none => false
  | some l => l.allPlaced && (l.arrivals.any fun a => a.round == round) && (s.participants n).all fun t => decide (round < t.treeRound)
/-- Rounds that wait. -/
def Launch.rounds (l : Launch) : List Nat := (l.arrivals.map (·.round)).eraseDups
/-- Start the completion of every round that is ready; 2 cycles more per lane (R362). -/
def checkRounds (n core : Nat) (l : Launch) : List Nat → State → State
  | [], s => s
  | k :: r, s =>
    let lanes := ((l.arrivals.find? fun a => a.round == k).map fun a => treeLanes a.ctl).getD 1
    checkRounds n core l r
      (if s.roundReady n k then s.after (.issue core) (s.treeDelay l.part + 2 * lanes) (.treeRoundCompletion n k) else s)
/-- A participant has arrived or retired on a core: barriers and rounds may complete (R356). -/
def State.checkLaunch (s : State) (n core : Nat) : State :=
  match s.launches.find n with
  | none => s
  | some l => checkRounds n core l l.rounds (s.checkSync n core)

/-- Run with another task in focus. -/
def State.focusing (s : State) (tid : Nat) (f : State → State) : State := (f (s.focus tid)).focus s.t.tid

/-- The result reaches one participant: stored at its record, or the trap of a page that has changed (R359). -/
def treeStore (w : Nat) (a : Arrival) (s : State) : State :=
  s.focusing a.tid fun u =>
    match u.locatePieces 64 64 { w := true } .plain [a.va] with
    | .ok (ps, u') => (u'.store (piecesCells 64 ps w)).wakeTask a.tid (.value (BitVec.ofNat 64 w))
    | .error m => match m.trap with
      | some (c, tv) => (m.s.metError m.err).wakeTask a.tid (.trap c tv)
      | none => m.s
/-- The record of a participant lies in a unit under test: the store waits (R223, R327). -/
def treeWaits (s : State) (a : Arrival) : Bool :=
  match (s.focus a.tid).locatePieces 64 64 { w := true } .plain [a.va] with
  | .error m => m.trap.isNone
  | .ok _ => false
def treeStores (w : Nat) : List Arrival → State → State
  | [], s => s
  | a :: r, s => treeStores w r (treeStore w a s)
def treeTraps : List Arrival → State → State
  | [], s => s
  | a :: r, s => treeTraps r (s.wakeTask a.tid (.trap .illegal a.ctl))

/-- TREE_ROUND_COMPLETION (R359): arrivals that differ take ILLEGAL with their records unchanged; otherwise every
participant's record and register take the result. -/
def execTreeRoundCompletion (launch round : Nat) (s : State) : Out :=
  match s.launches.find launch with
  | none => .next s
  | some l =>
    if s.roundReady launch round then
      let as_ := sortArrivals s (l.arrivals.filter fun a => a.round == round)
      if as_.any (treeWaits s) then .next (s.at_ 16 (.treeRoundCompletion launch round)) else
      let s := s.setLaunch launch { l with arrivals := l.arrivals.filter fun a => a.round != round }
      match as_ with
      | [] => .next s
      | a :: _ =>
        if as_.all fun b => b.op == a.op && b.ctl == a.ctl then .next (treeStores (treeCombine a.op a.ctl (as_.map (·.bytes))) as_ s)
        else .next (treeTraps as_ s)
    else .next s

/-- The task's next arrival in a round. -/
def State.arrive (s : State) (op : TreeOp) (c a : W64) (v : Nat) : State :=
  let n := s.t.launch
  match s.launches.find n with
  | none => s
  | some l =>
    let s := s.setLaunch n { l with arrivals := l.arrivals ++ [⟨s.t.tid, s.t.treeRound, op, c, a, v⟩] }
    { s with t := { s.t with treeRound := s.t.treeRound + 1 } }

/-- TREE (R359, R363). -/
def execTree (rd ra rb : Reg) (op : TreeOp) (s : State) : Out :=
  gate (.tree rd ra rb op) s fun s =>
    let a := s.xr ra
    let c := s.xr rb
    if s.t.st.ph ≠ .n then raise .phase a s
    else onWake s (fun v => finX rd v s) <|
      if (s.launches.find s.t.launch).isNone then raise .illegal s.tword s
      else if !treeOk op c then raise .illegal c s
      else if highAddr a then raise .xlate a s
      else if a.toNat % 64 ≠ 0 then raise .align a s
      else orTrap (s.locatePieces 64 64 { r := true, w := true } .plain [a]) fun (ps, s') =>
        if piecesWait 64 ps s' then stallSeq s
        else orTrap (s'.piecesOk 64 ps) fun s' => released s' fun s' =>
          let v := s'.piecesValue 64 ps
          match s'.bindTree s'.t.launch with
          | none => parkOn a (.tree false) s'
          | some s2 => match parkOn a (.tree true) (s2.arrive op c a v) with
            | .next s3 => .next (s3.checkLaunch s3.t.launch s3.t.core)
            | r => r

end Sys2Proof.Machine
end

