-- ==== Sys2Proof/Machine/Launches.lean ====
section
/-! DEFINITION. Launch queues, the dispatcher, placement and pre-emption (R339 to R346, R349). -/

namespace Sys2Proof.Machine

/-! ## Queues (R339, R340) -/

/-- Descriptor of queue q (R339). -/
def Part.queue (p : Part) (q : Nat) : Nat := p.lqtab + 64 * q
/-- A doubleword in memory as the device reads and writes it. -/
def State.dw (s : State) (a : Nat) : Nat := s.mem.readLE a 8
def State.setDw (s : State) (a v : Nat) : State := { s with mem := s.mem.setBytes (leCells a 8 v) }
/-- HEAD and DONE of a queue, and where packet n stands (R339). -/
def State.qHead (s : State) (part q : Nat) : Nat := s.dw ((s.part part).queue q + 24)
def State.qDone (s : State) (part q : Nat) : Nat := s.dw ((s.part part).queue q + 32)
def State.packetAt (s : State) (part q n : Nat) : Nat :=
  let a := (s.part part).queue q
  bitsOf (s.dw a) 0 48 + 64 * (n % 2 ^ bitsOf (s.dw (a + 8)) 0 5)
/-- The words of packet n (R341). -/
def State.packet (s : State) (part q n : Nat) : List Nat := (List.range 8).map fun k => s.dw (s.packetAt part q n + 8 * k)

/-- Field of a packet word. -/
def pf (d : List Nat) (k lo n : Nat) : Nat := bitsOf (d.getD k 0) lo n
/-- COMPADDR itself is legal (R341, R342). -/
def compOk (d : List Nat) : Bool :=
  let a := pf d 5 0 56
  decide (pf d 5 56 8 = 0 ∧ a % 32 = 0) && (a == 0 || assigned a)
/-- The packet keeps R341. -/
def packetOk (p : Part) (d : List Nat) : Bool :=
  let dim (k : Nat) : Bool := decide (1 ≤ pf d 2 (16 * k) 16 ∧ pf d 1 (16 * k) 16 + pf d 2 (16 * k) 16 ≤ 65536)
  let place := pf d 7 4 2
  decide (pf d 0 56 8 = 0 ∧ pf d 0 0 2 = 0 ∧ pf d 1 48 16 = 0 ∧ pf d 2 48 16 = 0) && dim 0 && dim 1 && dim 2 && compOk d
    && decide (pf d 7 17 15 = 0 ∧ pf d 7 6 2 = 0 ∧ pf d 7 3 1 = 0 ∧ pf d 7 8 6 ≤ 32 ∧ place ≠ 3)
    && !(place == 2 && (pf d 7 15 1 == 1 || pf d 7 14 1 == 1 || (p.opts.filter fun j => !p.gone.contains (0x1000 + j)).isEmpty))

/-- The dispatcher finds the packet at HEAD (R343): it becomes head now, and is rejected when it breaks R341 (R342). -/
def State.findHead (s : State) (part q : Nat) : State :=
  let p := s.part part
  let n := s.qHead part q
  if (match p.heads.find q with | some h => h.n == n | none => false) then s
  else if p.tails.getD q 0 ≤ n then s.setPart part { p with heads := p.heads.del q }
  else
    let d := s.packet part q n
    let bad := !packetOk p d
    let s := s.setPart part { p with heads := p.heads.put q { n := n, d := d, th := s.dtime.toNat, bad := bad } }
    if bad then s.at_ 0 (.packetReject part (Fin.ofNat 16 q)) else s
def findHeads (part : Nat) : List Nat → State → State
  | [], s => s
  | q :: r, s => findHeads part r (s.findHead part q)

/-- Read the TAIL of one queue; an uncorrectable error in its descriptor resets the partition (R354). -/
def State.readTail (s : State) (part q : Nat) : State :=
  let p := s.part part
  if (badIn s.bad (p.queue q) 40).isSome then s.at_ 0 (.partitionReset part 2)
  else s.setPart part { p with tails := p.tails.put q (s.dw (p.queue q + 16)) }
def readTailsGo (part : Nat) : List Nat → State → State
  | [], s => s
  | q :: r, s => readTailsGo part r (s.readTail part q)

/-- Candidates (R343): heads that are not rejected. -/
def Part.candidates (p : Part) : List (Nat × QHead) := p.heads.filter fun h => !h.2.bad
/-- The dispatcher goes on to place: 8 cycles per task (R345), of the die of SUPCORE (log 8). -/
def State.kickPlace (s : State) (part : Nat) : State :=
  if (s.part part).candidates.isEmpty || s.timed.any (fun e => e.2.2 == .placeTask part) then s
  else s.after (dieClk (s.part part).supcore) 8 (.placeTask part)
/-- A unit under test serves what the dispatcher reads and writes: the descriptors, the packet at a HEAD or the one behind it (R313, R327). -/
def State.queuesHeld (s : State) (part : Nat) : Bool :=
  !s.pkg.units.isEmpty && (s.underTest (s.part part).lqtab 1024 || (List.range 16).any fun q =>
    let n := s.qHead part q
    s.underTest (s.packetAt part q n) 64 || s.underTest (s.packetAt part q (n + 1)) 64)
/-- Read every TAIL (R340); while a unit under test serves them the next wave does. -/
def State.readTails (s : State) (part : Nat) : State :=
  if s.queuesHeld part then s
  else (findHeads part (List.range 16) (readTailsGo part (List.range 16) s)).kickPlace part

/-- LAUNCH_DOORBELL (R340): the doorbell write stores TAIL, and the dispatcher reads every TAIL. It covers the host's earlier writes,
and waits for those that a unit under test holds (R319). -/
def execLaunchDoorbell (part : Nat) (q : Fin 16) (tail : W64) (s : State) : Out :=
  if (s.parts.find part).isNone then .next s
  else if s.queuesHeld part || !s.pkg.hostHeld.isEmpty then .next (s.at_ 16 (.launchDoorbell part q tail))
  else .next ((s.setDw ((s.part part).queue q.val + 16) tail.toNat).readTails part)

/-- HEAD advances past a packet; the next one becomes head. -/
def State.advanceHead (s : State) (part q n : Nat) : State :=
  let p := s.part part
  ((s.setPart part { p with heads := p.heads.del q }).setDw (p.queue q + 24) (n + 1)).findHead part q

/-- The longest run from DONE of packets that count (R339). -/
def doneRun : Nat → Nat → List Nat → Nat
  | 0, n, _ => n
  | fuel + 1, n, l => if l.contains n then doneRun fuel (n + 1) l else n
/-- Packet n counts toward DONE (R339, R348); DONE never falls. -/
def State.countDone (s : State) (part q n : Nat) : State :=
  let p := s.part part
  let l := n :: p.doneSet.getD q []
  let d := s.qDone part q
  let d' := doneRun l.length d l
  let s := s.setPart part { p with doneSet := p.doneSet.put q (l.filter fun k => decide (d' ≤ k)) }
  if d < d' then s.setDw (p.queue q + 32) d' else s

/-- The completion record and the MSI-X vector of a packet (R341, R347): d0 last. -/
def State.completionRecord (s : State) (part q n : Nat) (d : List Nat) (missed rejected : Bool) (status : Nat) : State :=
  let a := pf d 5 0 56
  let s := if a = 0 ∨ !compOk d then s else
    let s := (s.storeCells (wordCells (a + 8) [bitIf missed 63 + bitIf rejected 62 + q * 2 ^ 48 + status % 65536, n, s.dtime.toNat])).1
    (s.storeCells (leCells a 8 (d.getD 6 0))).1
  if pf d 7 16 1 = 1 then s.raiseMsix (s.part part).ep (1 + part) else s

/-- A unit under test serves the place of a completion record (R327). -/
def State.recordHeld (s : State) (d : List Nat) : Bool := compOk d && s.underTest (pf d 5 0 56) 32

/-- PACKET_REJECT (R342): no task runs; the record shows REJECTED, HEAD and DONE advance. -/
def execPacketReject (part : Nat) (q : Fin 16) (s : State) : Out :=
  match (s.part part).heads.find q.val with
  | none => .next s
  | some h =>
    if !h.bad then .next s
    else if s.queuesHeld part || s.recordHeld h.d then .next (s.at_ 16 (.packetReject part q))
    else .next ((((s.completionRecord part q.val h.n h.d false true 0).countDone part q.val h.n).advanceHead part q.val h.n).kickPlace part)

/-! ## Choosing (R343) -/

def QHead.prio (h : QHead) : Nat := pf h.d 7 0 3
/-- The level of a head at a DTIME. -/
def QHead.level (h : QHead) (now age : Nat) : Nat :=
  if h.prio = 7 then 7 else Nat.min 6 (h.prio + (now - h.th) / (1000 * age))
/-- Head a is chosen before head b, a on the lower queue. -/
def headBefore (now age : Nat) (a b : QHead) : Bool :=
  let la := a.level now age
  let lb := b.level now age
  if la ≠ lb then decide (lb < la)
  else if la = 7 then decide (a.d.getD 4 0 ≤ b.d.getD 4 0)
  else decide (a.th ≤ b.th)
/-- Insert behind those chosen before. -/
def insertHead (now age : Nat) (h : Nat × QHead) : List (Nat × QHead) → List (Nat × QHead)
  | [] => [h]
  | k :: r => if headBefore now age h.2 k.2 then h :: k :: r else k :: insertHead now age h r
/-- Candidates in the order of choice; the list comes with rising queue numbers. -/
def orderHeads (now age : Nat) : List (Nat × QHead) → List (Nat × QHead)
  | [] => []
  | h :: r => insertHead now age h (orderHeads now age r)

/-! ## Placing (R344 to R346) -/

/-- Compute cores and optimiser cores of a partition, ascending. -/
def Part.computeCores (p : Part) : List Nat :=
  (p.clusters.flatMap fun k => (List.range 8).map (8 * k + ·)).filter fun c => !p.gone.contains c
def Part.optCores (p : Part) : List Nat := (p.opts.map (0x1000 + ·)).filter fun c => !p.gone.contains c

/-- The core of a list with the fewest tasks, the earlier on a tie. -/
def State.fewest (s : State) : List Nat → Option Nat
  | [] => none
  | c :: r => match s.fewest r with
    | none => some c
    | some d => if (s.tasksOn c).length ≤ (s.tasksOn d).length then some c else some d
/-- Cluster whose vault holds an address of the partition, translated at placement (R345). -/
def State.vaultOf (s : State) (part va : Nat) : Option Nat :=
  match s.viewPa part va with
  | some pa =>
    let k := (pa - 0xF00000000000) / 0x800000
    if 0xF00000000000 ≤ pa ∧ pa < 0xF00100000000 ∧ (s.part part).clusters.contains k then some k else none
  | none => none
/-- Cores of a cluster in a partition. -/
def Part.coresOf (p : Part) (k : Nat) : List Nat := p.computeCores.filter fun c => clusterOf c == k

/-- The cores among which task i of a packet may go, and the one it goes to (R345): none where SUPCORE has left (R330, R351). -/
def State.targets (s : State) (part : Nat) (d : List Nat) (i : Nat) : List Nat × Option Nat :=
  let p := s.part part
  let linear := (p.computeCores, p.computeCores[i % p.computeCores.length]?)
  if pf d 7 15 1 = 1 then (if p.gone.contains p.supcore then ([], none) else ([p.supcore], some p.supcore))
  else if pf d 7 4 2 = 2 then (p.optCores, p.optCores[i % p.optCores.length]?)
  else if pf d 7 4 2 = 1 then
    match s.vaultOf part ((d.getD 3 0 + i * pf d 7 32 32) % 2 ^ 64) with
    | some k => (p.coresOf k, s.fewest (p.coresOf k))
    | none => linear
  else linear

/-- The running task of lowest priority among cores, the lowest core number on a tie (R346). A built-in evaluation has no
instruction boundary and is never it (log 65). -/
def State.victim (s : State) : List Nat → Option Task
  | [] => none
  | c :: r =>
    let here := (s.tasksOn c).find? fun t => t.run == .running
    match here, s.victim r with
    | none, o => o
    | some t, none => some t
    | some t, some u => if t.prio ≤ u.prio then some t else some u
/-- Where a task goes now: the core, and the task to pre-empt there; none holds it back (R345, R346). -/
def State.chooseCore (s : State) (part : Nat) (h : QHead) (i : Nat) : Option (Nat × Option Nat) :=
  let ts := s.targets part h.d i
  let room (c : Nat) : Bool := decide ((s.tasksOn c).length < coreTasks)
  if h.prio = 7 then
    let open_ := ts.1.filter room
    match open_.find? s.idle with
    | some c => some (c, none)
    | none => match s.victim open_ with
      | some t => some (t.core, some t.tid)
      | none => open_.head?.map fun c => (c, none)
  else match ts.2 with
    | some c => if room c then some (c, none) else none
    | none => none

/-- A pre-emption request (R349). -/
def State.askHalt (s : State) (tid : Nat) : State :=
  match s.task tid with
  | some t => (s.setCore t.core { s.core t.core with preempt := some tid }).at_ 1 (.preemptHalt t.core)
  | none => s

/-- The task i of a packet as R8 and R341 start it. -/
def packetTask (d : List Nat) (i part core launch : Nat) : Task :=
  let nx := pf d 2 0 16
  let ny := pf d 2 16 16
  let t := Task.start (BitVec.ofNat 64 (pf d 0 0 56)) (BitVec.ofNat 16 (pf d 1 0 16 + i % nx)) (BitVec.ofNat 16 (pf d 1 16 16 + i / nx % ny))
    (BitVec.ofNat 16 (pf d 1 32 16 + i / (nx * ny))) (BitVec.ofNat 64 (d.getD 3 0 + i * pf d 7 32 32)) (pf d 7 8 6) (pf d 7 14 1 == 1)
    (pf d 7 0 3) part core launch
  if pf d 7 15 1 = 1 then { t with st := { t.st with s := true } } else t

/-- The launch of a head, started when its first task is placed (R344). -/
def State.headLaunch (s : State) (part q : Nat) (h : QHead) : Nat × Launch × State :=
  match s.launches.find h.launch with
  | some l => (h.launch, l, s)
  | none =>
    let n := s.nextLaunch
    let l : Launch := { part := part, queue := q, index := h.n, d := h.d,
                        missed := h.prio == 7 && decide (h.d.getD 4 0 < s.dtime.toNat) }
    let p := s.part part
    (n, l, { (s.setPart part { p with heads := p.heads.put q { h with launch := n } }) with
              launches := s.launches.put n l, nextLaunch := n + 1 })

/-- Place the next task of a candidate; none where its target holds it back, or its Hatbox pool is exhausted (R25, R345). -/
def State.placeOne (s : State) (part q : Nat) (h : QHead) : Option State :=
  let i := ((s.launches.find h.launch).map (·.placed)).getD 0
  match s.chooseCore part h i with
  | none => none
  | some (c, victim) =>
    let (n, _, s1) := s.headLaunch part q h
    match s1.spawn (packetTask h.d i part c n) with
    | none => none
    | some s2 =>
      let l := s2.launches.getD n { part := part, queue := q, index := h.n, d := h.d }
      let s3 := s2.setLaunch n { l with placed := i + 1 }
      let s4 := match victim with | some t => s3.askHalt t | none => s3
      some (if packetTasks h.d ≤ i + 1 then s4.advanceHead part q h.n else s4)
/-- The first candidate in order whose target can take its task (R345). -/
def placeFirst (part : Nat) : List (Nat × QHead) → State → Option State
  | [], _ => none
  | (q, h) :: r, s => match s.placeOne part q h with
    | some s' => some s'
    | none => placeFirst part r s

/-- PLACE_TASK (R343 to R346). -/
def execPlaceTask (part : Nat) (s : State) : Out :=
  let p := s.part part
  if p.held then .next s
  else if s.queuesHeld part then .next (s.kickPlace part)
  else match placeFirst part (orderHeads s.dtime.toNat p.age p.candidates) s with
    | some s' => .next (s'.kickPlace part)
    | none => .next s

/-! ## Pre-emption (R28, R349) -/

/-- The task stands at an instruction boundary where R58 and R134 allow the halt. -/
def Task.atBoundary (t : Task) : Bool := t.slot.isNone && t.xfer.isNone && t.seq.cap.isNone

/-- The sequencer's times as the cycles that remain from cycle n on (R28, R181), and from there again (R29). -/
def Seq.remaining (q : Seq) (n : Nat) : Seq :=
  { q with time := q.time - n, ready := q.ready.map fun r => (r.1, r.2 - n), loads := q.loads.map fun l => { l with due := l.due - n } }
def Seq.resumedAt (q : Seq) (n : Nat) : Seq :=
  { q with time := q.time + n, ready := q.ready.map fun r => (r.1, r.2 + n), loads := q.loads.map fun l => { l with due := l.due + n } }

/-- The task as it is saved at a stamp, its core having issued n cycles (R28, R138, R187, R213): waits at issue are abandoned, an
exchange phase ends, and a word that waits in the sequencer has not begun. -/
def Task.halted (t : Task) (stamp n : Nat) : Task :=
  let u := t.endExchange.unwait
  { u with run := .preempted, since := stamp, trapWait := false, lockWait := false, searching := false, near := none, xhold := none,
           follow := none, last := .stalled, seq := u.seq.remaining n, streams := u.streams.map fun b => (b.1, { b.2 with ahead := [] }),
           st := { u.st with ph := if u.st.ph = .x then .n else u.st.ph } }

/-- Halt a task and save it (R28, R349): its followers detach, its accumulators move behind its commands, a search of
it is abandoned; a Hatbox under an uncorrectable error resets the partition (R354). -/
def State.halt (s : State) (tid : Nat) : State :=
  match s.task tid with
  | none => s
  | some t =>
    let s := ((s.endSlots t).setTask (t.halted s.stamp (s.issued t.core))).bump
    let s := (leaderGone tid s.allTasks s).withdrawn t
    let s := if isCompute t.core then s.mPreempt t.core tid else s
    if (badIn s.bad t.hatbox t.hatboxSize).isSome then s.at_ 0 (.partitionReset t.part 2) else s

/-- PREEMPT_HALT (R349): the requested task halts at the next boundary. -/
def execPreemptHalt (core : Nat) (s : State) : Out :=
  match (s.core core).preempt with
  | none => .next s
  | some tid =>
    let done (s : State) : State := s.setCore core { s.core core with preempt := none }
    match s.task tid with
    | none => .next (done s)
    | some t =>
      if t.run ≠ .running then .next (done s)
      else if t.atBoundary then .next ((done s).halt tid)
      else .next (s.at_ 1 (.preemptHalt core))

end Sys2Proof.Machine
end

