-- ==== Sys2Proof/Machine/Regions.lean ====
section
/-! DEFINITION. Counting regions and quiescence (R98 to R102). -/

namespace Sys2Proof.Machine

/-- Cycles between wave boundaries (R99). -/
def waveCycles : Nat := 256

/-- Cores of a partition. -/
def Part.cores (p : Part) : List Nat :=
  ((p.clusters.flatMap fun k => (List.range 8).map (8 * k + ·)) ++ p.opts.map (0x1000 + ·)).filter fun c => !p.gone.contains c
def sumW (l : List W64) : W64 := l.foldl (· + ·) 0
/-- Sent and received totals of a partition (R98, R99). -/
def State.totals (s : State) (part : Nat) : W64 × W64 :=
  let p := s.part part
  (p.leftSent + sumW (p.cores.map fun c => (s.core c).sent),
   p.leftRecv + sumW (p.cores.map fun c => (s.core c).recv) + sumW (p.clusters.map fun k => (s.cluster k).recv))

def Task.isQuiet (t : Task) : Bool := t.run == .parked .quiet
/-- A task that is running or ready; a pre-empted one is ready (R28). -/
def Task.live (t : Task) : Bool :=
  match t.run with
  | .running | .ready | .preempted => true
  | .parked _ => false
/-- Tasks and evaluations of a partition that run or are ready (R99). -/
def State.busy (s : State) (part : Nat) : Bool :=
  (s.allTasks.any fun t => t.part == part && t.live) || s.evals.vals.any fun v => v.part == part && !v.waiting

/-- Reason of a parked task (R101); none for QUIET and HALT. A double trap (R74) is none of these: it counts as another wake
condition (DESIGN CHOICE, log 66). -/
def Park.reason : Park → Option Nat
  | .quiet | .halt => none
  | .handle .. => some 1
  | .message _ => some 2
  | .full .. => some 3
  | .version .. => some 4
  | .window .. => some 5
  | .barrier .. => some 6
  | .syncall _ => some 7
  | _ => some 8

/-- The record of a parked task (R101). -/
def Task.parkRecord (t : Task) : Option (List Nat) :=
  match t.run with
  | .parked p => p.reason.map fun r => [r * 2 ^ 48 + t.core * 2 ^ 32 + t.tid % 2 ^ 32, t.waitOn.toNat]
  | _ => none
/-- Records of a partition's parked tasks and waiting evaluations (R101): in the order of their numbers, tasks first, of which the
first 256 are kept (DESIGN CHOICE, log 66). -/
def State.parkRecords (s : State) (part : Nat) : List (List Nat) :=
  (s.allTasks.filter fun t => t.part == part).filterMap Task.parkRecord
    ++ (s.evals.filter fun p => p.2.part == part && p.2.waiting).map fun p =>
        [2 ^ 48 + p.2.core * 2 ^ 32 + p.1 % 2 ^ 32,
         (s.hHandle part (((s.hGet part p.2.idx).args)[p.2.next]?.getD 0)).toNat]

/-- A message of the counting logic (R195). -/
def countMsg (part kind : Nat) (payload : Nat) : W64 := mkMsg 2 part kind (BitVec.ofNat 48 payload)

/-- Wake the tasks in QUIET with a status. -/
def wakeQuiet (part : Nat) (status : W64) : List Task → State → State
  | [], s => s
  | t :: r, s => wakeQuiet part status r (if t.part == part && t.isQuiet then s.wakeTask t.tid (.value status) else s)
/-- A region closes (R100, R102): its QUIET tasks complete, SUPCORE gets a QUIET message. -/
def State.closeRegion (s : State) (part status : Nat) : State :=
  let p := s.part part
  let nq := (s.allTasks.filter fun t => t.part == part && t.isQuiet).length
  let s := wakeQuiet part (BitVec.ofNat 64 status) s.allTasks s
  let s := s.setPart part { s.part part with regionOpen := false, regionBegun := false, regionSums := none }
  s.deliver p.supcore (countMsg part 9 (p.region.toNat * 2 ^ 32 + Nat.min 65535 nq * 2 ^ 16 + status))

/-- REGION (R100). -/
def execRegion (rd ra : Reg) (s : State) : Out :=
  gate (.region rd ra) s fun s =>
    let a := s.xr ra
    noCompute a s fun s =>
      if a.toNat % 64 ≠ 0 then raise .align a s
      else
        let part := s.t.part
        let s1 := if (s.part part).regionOpen then s.closeRegion part 2 else s
        let p := s1.part part
        let s2 := s1.setPart part { p with region := p.region + 1, regionReport := a, regionCore := s.t.core, regionOpen := true,
                                           regionBegun := false, regionSums := none }
        finX rd ((p.region + 1).setWidth 64) s2

/-- QUIET (R90, R100). -/
def execQuiet (rd : Reg) (s : State) : Out :=
  gate (.quiet rd) s fun s => noCompute 0 s fun s => onWake s (fun v => finX rd v s) <|
    if s.t.handleOps ≠ [] then stall s
    else takeHandle s fun s => if (s.part s.t.part).regionOpen then park .quiet s else raise .illegal s.tword s

/-- Write the records of a deadlock into the report area, for the core that issued REGION: how many were written, none where the area
does not translate or refuses the write, or is versioned and one of its words has no free slot (DESIGN CHOICE, log 66). None while the
write waits for a unit under test. -/
def State.writeRecords (s : State) (part : Nat) (d : Deadlock) : Option (Nat × State) :=
  let bytes := (d.records.flatMap fun r => r.flatMap fun w => leBytes 8 w).zipIdx.map fun b => (d.area.toNat + b.2, b.1)
  match s.mPieces d.core part { w := true } (runsOf (bytesFrom d.area.toNat (16 * d.records.length))) with
  | .error m => m.reason.map fun _ => (0, m.s)
  | .ok (ps, s1) => match s1.engWrite 0 ps bytes with
    | some w => some (if w.refused || w.lost then 0 else d.records.length, w.s)
    | none => some (0, s1)
/-- The deadlocks of a partition in order: each has its records written, and DEADLOCK follows (R101); one whose write waits holds those
behind it. -/
def State.tellDeadlocks (s : State) (part : Nat) : List Deadlock → State
  | [] => s
  | d :: r =>
    match s.writeRecords part d with
    | none => s
    | some (n, s1) => State.tellDeadlocks ((s1.setPart part { s1.part part with deadlocks := r }).at_ 1
        (.deadlock part (BitVec.ofNat 48 (d.region.toNat * 2 ^ 32 + n * 2 ^ 16)))) part r

/-- A wave boundary in one partition (R99 to R102): two successive waves of the region with equal, unchanged totals and
no running or ready task complete the QUIET tasks. The tasks recorded, at most 256, are those parked at the boundary; their records
follow the QUIET message. -/
def State.wave (s : State) (part : Nat) : State :=
  let p := s.part part
  if !p.regionOpen then s
  else if !p.regionBegun then s.setPart part { p with regionBegun := true }
  else
    let t := s.totals part
    let quiet := t.1 == t.2 && !s.busy part
    if quiet && p.regionSums == some t && s.allTasks.any (fun u => u.part == part && u.isQuiet) then
      let rs := s.parkRecords part
      if rs.isEmpty then s.closeRegion part 0
      else
        let s := s.closeRegion part 1
        let q := s.part part
        s.setPart part { q with deadlocks := q.deadlocks ++ [⟨p.region, p.regionReport, p.regionCore, rs.take 256⟩] }
    else s.setPart part { p with regionSums := if quiet then some t else none }
/-- One wave of a partition: the region, the records that are to be written, the dispatcher's reading of every TAIL. -/
def State.waveOf (s : State) (part : Nat) : State :=
  let s := s.wave part
  (s.tellDeadlocks part (s.part part).deadlocks).readTails part

def waveParts : List Nat → State → State
  | [], s => s
  | p :: r, s => waveParts r (s.waveOf p)
/-- WAVE_BOUNDARY (R99, R340): each time the reference count reaches a multiple of 256, in every partition; the
dispatcher reads every TAIL. -/
def execWaveBoundary (s : State) : Out :=
  if s.now % waveCycles = 0 then .next ((waveParts s.parts.keys s).at_ waveCycles .waveBoundary) else .next s

/-- DEADLOCK (R101): the message to SUPCORE once the records are written. -/
def execDeadlock (part : Nat) (payload : BitVec 48) (s : State) : Out :=
  .next (s.deliver (s.part part).supcore (countMsg part 10 payload.toNat))

end Sys2Proof.Machine
end

