-- ==== Sys2Proof/Machine/Package.lean ====
section
/-! DEFINITION. The package's event ring (R331, R332), its clamp and thermal governors (R324, R325), errors and the
targeted self-test (R65, R326 to R330), and the fabric ports' errors (R367, R379). -/

namespace Sys2Proof.Machine

/-! ## Event ring -/

/-- Event kinds (R332). -/
def evClamp : Nat := 1
def evAlert : Nat := 2
def evHold : Nat := 3
def evCritical : Nat := 4
def evTest : Nat := 5
def evUncorrected : Nat := 6
def evScrub : Nat := 7

/-- Write an event (R331, R332): counted in its die's running count; while the ring is full or none is set it is
counted and lost; vector 0 is raised on endpoint 0 (log 18). -/
def State.event (s : State) (kind die data : Nat) : State :=
  let d := s.die die
  let n := d.events.getD kind 0 + 1
  let s := s.setDie die { d with events := d.events.put kind n }
  let p := s.pkg
  if (p.producer - p.consumer).toNat ≥ p.ringSlots then s.setPkg { p with lost := p.lost + 1 }
  else
    let a := hostBase + p.ringBase + 32 * (p.producer.toNat % p.ringSlots)
    let cells := wordCells a [kind * 2 ^ 56 + die * 2 ^ 48 + data % 2 ^ 48, s.dtime.toNat, n, 0]
    ({ s with mem := s.mem.setBytes cells, pkg := { p with producer := p.producer + 1 } }).raiseMsix 0 0

/-! ## Current clamp (R324) -/

/-- CLAMP_SAMPLE (R324): a sample above the limit halves the issue rate, down to one cycle in 8; entry into
throttling writes an event. -/
def execClampSample (die amps : Nat) (s : State) : Out :=
  let d := s.die die
  let cool := if d.limit * 9 ≤ amps * 10 then s.now else d.coolSince
  if d.limit < amps then
    let s' := s.setDie die { d with rate := Nat.min 8 (2 * d.rate), coolSince := s.now }
    if d.rate = 1 then .next ((s'.event evClamp die 0).at_ 1900 (.clampRecovery die)) else .next s'
  else .next (s.setDie die { d with coolSince := cool })

/-- CLAMP_RECOVERY (R324): after 1 µs of samples below 90 % of the limit the rate doubles. -/
def execClampRecovery (die : Nat) (s : State) : Out :=
  let d := s.die die
  if d.rate ≤ 1 then .next s
  else if s.now < d.coolSince + 1900 then .next (s.at_ (d.coolSince + 1900 - s.now) (.clampRecovery die))
  else
    let d' := { d with rate := d.rate / 2, coolSince := s.now }
    let s' := s.setDie die d'
    .next (if d'.rate ≤ 1 then s' else s'.at_ 1900 (.clampRecovery die))

/-! ## Temperature (R325) -/

/-- Reference cycles in 2 ms. -/
def thermalWait : Nat := 3800000

/-- THERMAL_ALERT (R325): a reading above the threshold; the hold follows 2 ms later without a power command. -/
def execThermalAlert (die temp : Nat) (s : State) : Out :=
  let d := s.die die
  if temp ≤ d.alert ∨ d.alertAt.isSome then .next s
  else
    let s' := (s.setDie die { d with alertAt := some s.now, commanded := false }).event evAlert die 0
    .next (s'.at_ thermalWait (.thermalHold die))

/-- THERMAL_HOLD (R325): one issue cycle in 4, and a second event. -/
def execThermalHold (die : Nat) (s : State) : Out :=
  let d := s.die die
  match d.alertAt with
  | none => .next s
  | some a =>
    if d.commanded ∨ d.thermalHold ∨ s.now < a + thermalWait then .next s
    else .next ((s.setDie die { d with thermalHold := true }).event evHold die 0)

/-- THERMAL_HOLD_END (R325): a reading 5 °C below the threshold, once the host has issued a power command, ends the
alert and its hold; what lies above 125 °C is over. -/
def execThermalHoldEnd (die temp : Nat) (s : State) : Out :=
  let d := s.die die
  let d := if temp ≤ 125 then { d with critical := false } else d
  if d.alert < temp + 5 then .next (s.setDie die d)
  else if (d.thermalHold || d.alertAt.isSome) && !d.commanded then .next (s.setDie die d)
  else .next (s.setDie die { d with thermalHold := false, alertAt := none })

/-- CRITICAL_TEMPERATURE (R325): above 125 °C, one cycle in 64 and an event of kind 4. -/
def execCriticalTemperature (die temp : Nat) (s : State) : Out :=
  if temp ≤ 125 then .next s else .next ((s.setDie die { s.die die with critical := true }).event evCritical die 0)

/-! ## Units of the self-test (R327) -/

/-- The index names a unit (R327). -/
def unitExists (cls idx : Nat) : Bool :=
  (cls == 1 && decide (idx < 16384)) || (cls == 2 && decide (idx < 8192))
    || (cls == 3 && (decide (idx < 12) || decide (16 ≤ idx ∧ idx < 22))) || (cls == 4 && decide (idx < 768))
/-- Cluster of a vault bank or matrix lane group. -/
def unitCluster (cls idx : Nat) : Nat := if cls = 1 then idx / 32 else idx / 16
/-- Die of a unit (R195, R316, R317, R327): a die link counts with its lower-numbered die. -/
def unitDie (cls idx : Nat) : Nat :=
  if cls = 4 then idx / 192
  else if cls = 3 then (if idx < 12 then idx / 3 else if idx < 19 then 0 else if idx < 21 then 1 else 2)
  else unitCluster cls idx / 128
/-- The unit serves a partition (R329). -/
def State.unitServes (s : State) (cls idx part : Nat) : Bool := cls == 3 || cls == 4 || (s.part part).clusters.contains (unitCluster cls idx)
/-- Reference cycles of one run (R327). -/
def testCycles (cls : Nat) : Nat := if cls = 1 then 15200 else if cls = 2 then 7600 else if cls = 3 then 38000 else 95000
/-- Spares of a unit (R327). -/
def unitSpares (cls : Nat) : Nat := if cls = 1 then 8 else if cls = 2 then 1 else if cls = 3 then 2 else 32
/-- Spares used; a matrix unit's lane groups share theirs (R327). -/
def State.sparesUsed (s : State) (cls idx : Nat) : Nat :=
  if cls = 2 then ((List.range 16).map fun g => (s.unit 2 (idx / 16 * 16 + g)).used).foldl (· + ·) 0 else (s.unit cls idx).used

/-- A matrix unit starts no command while a lane group is under test (R327). -/
def State.holdMatrix (s : State) (cls idx : Nat) : State :=
  if cls = 2 then
    let k := unitCluster cls idx
    let held := (List.range 16).any fun g => (s.unit 2 (16 * k + g)).testing
    let s := s.setCluster k { s.cluster k with mhold := held }
    if held then s else s.mKick k
  else s

/-- TestUnit up to its runs (R328): an error under test is counted; otherwise the test runs once, and again when the
first run fails. How the runs end is the hardware's; the model leaves it free (log 19). -/
def State.startTest (s : State) (cls idx : Nat) (place : Option Nat) : State :=
  let u := s.unit cls idx
  if u.testing then s.setUnit cls idx { u with errors := u.errors + 1 }
  else
    let r1 := Config.testPasses s.free
    let r2 := Config.testPasses (s.free + 1)
    let s := { s with free := s.free + 2 }.setUnit cls idx { u with testing := true, errors := 0, place := place }
    (s.holdMatrix cls idx).at_ (if r1 then testCycles cls else 2 * testCycles cls) (.testdone cls idx r1 r2)

/-- SELFTEST (R65). -/
def execSelftest (rd ra : Reg) (s : State) : Out :=
  gate (.selftest rd ra) s fun s =>
    let v := s.xr ra
    let cls := bitsOf v.toNat 56 8
    let idx := bitsOf v.toNat 0 32
    if bitsOf v.toNat 32 24 ≠ 0 ∨ !unitExists cls idx ∨ !s.unitServes cls idx s.t.part then finX rd 2 s
    else if (s.unit cls idx).testing then finX rd 1 s
    else
      let s' := s.startTest cls idx none
      let u := s'.unit cls idx
      finX rd 0 (s'.setUnit cls idx { u with askers := u.askers ++ [s.t.core] })

/-- The row of a vault bank that an address lies in, by the addresses of its granules (R203, R224): a bank's row
holds 2 KiB, 32 granules, which lie 2 KiB apart in the vault. -/
def bankRow (pa : Nat) : List Nat :=
  let base := 0xF00000000000 + (pa - 0xF00000000000) / 0x800000 * 0x800000
  let o := (pa - 0xF00000000000) % 0x800000
  (List.range 32).map fun g => base + o / 65536 * 65536 + g * 2048 + o % 2048 / 64 * 64
/-- The place whose row a test finds failing: where the error stood that started it; for a test that no error's address started,
the lowest failing place of the unit (log 20). -/
def State.failingPlace (s : State) (cls idx : Nat) (place : Option Nat) : Option Nat :=
  match place with
  | some pa => some pa
  | none => match s.bad.filter fun b => placeUnit b == some (unitKey cls idx) with
    | [] => none
    | b :: r => some (r.foldl Nat.min b)
/-- The failing granules that a substitution writes as zeros (R224): of the bank row, or of the 4 KiB stripe of a
pseudo-channel, whose row the manual does not lay out (log 20). -/
def State.lostGranules (s : State) (cls idx : Nat) (place : Option Nat) : List Nat :=
  match s.failingPlace cls idx place with
  | none => []
  | some pa =>
    let gs := if cls = 1 then bankRow pa else (List.range 64).map fun g => pa / 4096 * 4096 + 64 * g
    if cls = 1 ∨ cls = 4 then gs.filter fun g => (badIn s.bad g 64).isSome else []
/-- Write granules as zeros with fresh code. -/
def zeroGranules : List Nat → State → State
  | [], s => s
  | g :: r, s => zeroGranules r (s.storeCells (leCells g 64 0)).1

/-- TESTDONE's payload (R329). -/
def testPayload (cls result lost idx : Nat) : Nat := cls * 2 ^ 44 + result * 2 ^ 42 + Nat.min 1023 lost * 2 ^ 32 + idx
/-- Kind of TESTDONE (R195). -/
def kTestdone : Nat := 11
/-- A TESTDONE message (R195). -/
def testMsg (cls idx payload : Nat) : W64 :=
  if cls ≤ 2 then mkMsg 0 (unitCluster cls idx) kTestdone (BitVec.ofNat 48 payload)
  else mkMsg 2 (unitDie cls idx) kTestdone (BitVec.ofNat 48 payload)
/-- Send a message to cores that lie in a partition. -/
def sendTo (m : W64) : List Nat → State → State
  | [], s => s
  | c :: r, s => sendTo m r (if s.owned c then s.deliver c m else s)

/-- Partitions with their resize started for the cores that a retirement makes leave (R330, R350); those of one that runs already join
it. The cluster itself, which holds no task then, stays until the host removes it with its vault (log 21). -/
def retireCluster (k : Nat) : List (Nat × Part) → State → State
  | [], s => s
  | (p, q) :: r, s =>
    let cores := ((List.range 8).map (8 * k + ·)).filter (s.inPart p ·)
    retireCluster k r (if cores.isEmpty then s
      else
        let z := q.resize.getD { leaving := [], clusters := q.clusters, dest := none }
        (s.setPart p { s.part p with resize := some { z with joining := z.joining ++ cores } }).at_ 0 .presize)

/-- Rings of a plan that use a port become dead, in the tables too (R379). -/
def killRings (port : Nat) : List (Nat × Nat) → State → State
  | [], s => s
  | (key, d0) :: r, s =>
    let s := if bitsOf d0 63 1 = 1 ∧ bitsOf d0 61 1 = 0 ∧ (bitsOf d0 4 4 = port ∨ bitsOf d0 0 4 = port) then
        let d := d0 + 2 ^ 61
        let a := (s.part (key / 16)).report + 0x400 + 64 * (key % 16)
        let die := bitsOf d0 8 2
        let mem := if (s.parts.find (key / 16)).isSome then s.mem.setBytes (leCells a 8 d) else s.mem
        State.at_ (State.at_ { s with pkg := { s.pkg with plan := s.pkg.plan.put key d }, mem := mem }
          95000 (.collectiveStart die key false)) 95000 (.collectiveStart die key true)
      else s
    killRings port r s
/-- LINK_DEATH (R379): the port is retired, its rings are DEAD; their descriptors complete with status 1 within 50 µs. -/
def execLinkDeath (port : Nat) (s : State) : Out :=
  if 12 ≤ port then .next s
  else
    let u := s.unit 3 port
    .next (killRings port s.pkg.plan (s.setUnit 3 port { u with retired := true }))

/-- What a retirement does (R330). -/
def State.retireUnit (s : State) (cls idx : Nat) : State :=
  if cls ≤ 2 then retireCluster (unitCluster cls idx) s.parts s
  else if cls = 3 ∧ idx < 12 then s.at_ 0 (.linkDeath idx)
  else s

/-- TESTDONE (R328, R329): classification, a spare or retirement, the messages and the event. -/
def execTestdone (cls idx : Nat) (run1 run2 : Bool) (s : State) : Out :=
  let u := s.unit cls idx
  if !u.testing then .next s
  else
    let pass := run1 || run2
    let recent := u.transients.filter fun t => decide (s.now < t + 1900000000)
    let trans := if pass then recent ++ [s.now] else recent
    let lasting := !pass || decide (8 ≤ trans.length)
    let spare := decide (s.sparesUsed cls idx < unitSpares cls)
    let result := if !lasting then 0 else if spare then 1 else 2
    let gone := if result = 1 then s.lostGranules cls idx u.place else []
    let s := s.setUnit cls idx { u with testing := false, transients := trans, used := u.used + (if result = 1 then 1 else 0),
                                         retired := u.retired || result == 2, askers := [], place := none }
    let s := zeroGranules gone s
    let s := s.holdMatrix cls idx
    let payload := testPayload cls result gone.length idx
    let sups := (s.parts.filter fun p => s.unitServes cls idx p.1).map fun p => p.2.supcore
    let s := sendTo (testMsg cls idx payload) (sups ++ u.askers) s
    let s := s.event evTest (unitDie cls idx) payload
    .next (if result = 2 then s.retireUnit cls idx else s)

/-! ## Errors (R326, R328, R367) -/

/-- The unit of the self-test that a physical address lies in (R203, R316): a vault bank or a pseudo-channel. -/
def unitOf (pa : Nat) : Option (Nat × Nat) :=
  if pa < 0xC000000000 then some (4, pseudoChannel pa)
  else if 0xF00000000000 ≤ pa ∧ pa < 0xF00100000000 then
    let o := pa - 0xF00000000000
    some (1, 32 * (o / 0x800000) + bitsOf o 6 5)
  else none

/-- CORRECTED_ERROR (R328): the unit is tested. -/
def execCorrectedError (cls idx : Nat) (s : State) : Out :=
  if unitExists cls idx then .next (s.startTest cls idx none) else .next s

/-- An address belongs to what a partition cannot lose (R354): its Hatcheck's control block and entries, or a launch
queue descriptor. -/
def Part.vital (p : Part) (pa : Nat) : Bool := decide ((p.hcBase ≤ pa ∧ pa < p.hcBase + 64) ∨ (p.lqtab ≤ pa ∧ pa < p.lqtab + 1024))
def resetVital (pa : Nat) : List (Nat × Part) → State → State
  | [], s => s
  | (p, q) :: r, s => resetVital pa r (if q.vital pa then s.at_ 0 (.partitionReset p 2) else s)

/-- UNCORRECTED_ERROR (R326, R328, R332, R354): the granule fails at every read until it is rewritten; an event; the
unit's test; a partition that meets it in its control block or a queue descriptor is reset. -/
def execUncorrectedError (pa : Nat) (s : State) : Out :=
  if assigned pa && !isHost pa then
    let b := badUnit pa
    let s := { s with bad := if s.bad.contains b then s.bad else b :: s.bad }
    match unitOf pa with
    | none => .next (resetVital pa s.parts (s.event evUncorrected ((pa - 0xF80000000000) / 0x200000 / 24) pa))
    | some (cls, idx) => .next (resetVital pa s.parts ((s.event evUncorrected (unitDie cls idx) pa).startTest cls idx (some pa)))
  else .next s

/-- PATROL_SCRUB (R326, R328): a correction is written back, with an event; an uncorrectable granule gets an event; either
starts the unit's test. -/
def execPatrolScrub (pa : Nat) (found : ScrubFound) (s : State) : Out :=
  match unitOf pa with
  | none => .next s
  | some (cls, idx) =>
    match found with
    | .clean => .next s
    | .corrected => .next ((s.event evScrub (unitDie cls idx) 0).startTest cls idx (some pa))
    | .uncorrected =>
      let b := badUnit pa
      let s := { s with bad := if s.bad.contains b then s.bad else b :: s.bad }
      .next (resetVital pa s.parts ((s.event evUncorrected (unitDie cls idx) pa).startTest cls idx (some pa)))

/-- PORT_ERROR (R367): a lane that loses lock, or a flit that fails after its replays, starts the port's test. -/
def execPortError (port : Nat) (s : State) : Out :=
  if port < 12 then .next (s.startTest 3 port none) else .next s

end Sys2Proof.Machine
end

