-- ==== Sys2Proof/Machine/Collective.lean ====
section
/-! DEFINITION. The collective engines (R368 to R379). -/

namespace Sys2Proof.Machine

/-! ## Descriptors and rings (R368, R369) -/

def CEDesc.word (d : CEDesc) (k : Nat) : Nat := d.d.getD k 0
def CEDesc.op (d : CEDesc) : Nat := bitsOf (d.word 0) 0 3
def CEDesc.ft (d : CEDesc) : Ft := Ft.ofCode (bitsOf (d.word 0) 16 3)
def CEDesc.rop (d : CEDesc) : Nat := bitsOf (d.word 0) 20 2
def CEDesc.mtag (d : CEDesc) : Nat := bitsOf (d.word 0) 32 16
def CEDesc.bucket (d : CEDesc) : Nat := bitsOf (d.word 1) 0 56
def CEDesc.count (d : CEDesc) : Nat := bitsOf (d.word 2) 0 32
def CEDesc.rsig (d : CEDesc) : Nat := bitsOf (d.word 3) 0 56
def CEDesc.msg (d : CEDesc) : Bool := bitsOf (d.word 5) 63 1 == 1
def CEDesc.sig (d : CEDesc) : Bool := bitsOf (d.word 5) 62 1 == 1
def CEDesc.dcore (d : CEDesc) : Nat := bitsOf (d.word 5) 0 16
def CEDesc.csig (d : CEDesc) : Nat := bitsOf (d.word 6) 0 56
/-- SEND and RECV have a stream of their own (R372). -/
def CEDesc.p2p (d : CEDesc) : Bool := decide (4 ≤ d.op)

/-- Fields of a ring's d0 (R368). -/
def State.ring (s : State) (key : Nat) : Nat := s.pkg.plan.getD key 0
def ringValid (r : Nat) : Bool := bitsOf r 63 1 == 1
def ringDead (r : Nat) : Bool := bitsOf r 61 1 == 1
def ringSize (r : Nat) : Nat := bitsOf r 24 6 + 1
def ringPos (r : Nat) : Nat := bitsOf r 16 6
def ringDie (r : Nat) : Nat := bitsOf r 8 2
def ringPorts (r : Nat) : List Nat := [bitsOf r 4 4, bitsOf r 0 4]

/-- The descriptor is legal but for its ring (R369, R371). -/
def ceOk (d : List Nat) : Bool :=
  let f (k lo n : Nat) : Nat := bitsOf (d.getD k 0) lo n
  let op := f 0 0 3
  let at_ (k al : Nat) : Bool := decide (f k 0 56 % al = 0) && (f k 0 56 == 0 || decide (0x01000000 ≤ f k 0 56))
  let ft := Ft.ofCode (f 0 16 3)
  decide (f 0 48 16 = 0 ∧ f 0 22 10 = 0 ∧ f 0 19 1 = 0 ∧ f 0 12 4 = 0 ∧ f 0 3 5 = 0 ∧ f 1 56 8 = 0 ∧ f 2 32 32 = 0 ∧ f 3 56 8 = 0
      ∧ f 5 16 46 = 0 ∧ f 6 56 8 = 0)
    && decide (1 ≤ op ∧ op ≤ 5 ∧ f 0 20 2 ≠ 3) && (decide (op ≤ 2) || f 0 20 2 == 0)
    && decide (1 ≤ f 2 0 32 ∧ f 2 0 32 ≤ 2 ^ 28) && at_ 1 64 && at_ 3 8 && at_ 6 8
    && (decide (4 ≤ op) || f 0 32 16 == 0) && (decide (3 ≤ op) || ft == .fp32 || ft == .bf16 || ft == .fp16 || ft == .int32)

def State.engine (s : State) (die : Nat) : CEngine := s.engines.getD die {}
def State.setEngine (s : State) (die : Nat) (e : CEngine) : State := { s with engines := s.engines.put die e }
/-- Descriptors that an engine holds (R371). -/
def engineEntries : Nat := 64
/-- The head of a stream (R372). -/
def CEngine.head (e : CEngine) (key : Nat) (p2p : Bool) : Option (Nat × CEDesc) := e.list.find? fun d => d.2.ring == key && d.2.p2p == p2p
/-- Put a descriptor back. -/
def State.setDesc (s : State) (die tag : Nat) (d : CEDesc) : State :=
  let e := s.engine die
  s.setEngine die { e with list := e.list.map fun x => if x.1 = tag then (tag, d) else x }

/-- CEPOST (R371). -/
def execCepost (rd ra : Reg) (s : State) : Out :=
  gate (.cepost rd ra) s fun s =>
    let a := s.xr ra
    noCompute a s fun s => loadDesc a s fun n s' =>
      let d := words64 n
      let key := 16 * s.t.part + bitsOf (d.getD 0 0) 8 4
      let r := s'.ring key
      let c : CEDesc := { d := d, ring := key, part := s.t.part, task := s.t.tid, core := s.t.core }
      if !ceOk d || !ringValid r then raiseAfter .illegal a s s'
      else if c.msg && !s'.inPart s.t.part c.dcore then raiseAfter .access (BitVec.ofNat 64 c.dcore) s s'
      else released s' fun s' =>
        let die := ringDie r
        let e := s'.engine die
        if engineEntries ≤ e.list.length then stall s
        else
          let t := e.nextTag
          let s' := s'.setEngine die { list := e.list ++ [(t, c)], nextTag := nextTagOf t }
          finX rd (BitVec.ofNat 64 t) ((s'.countSent s'.t.core).at_ 1 (.collectiveStart die key c.p2p))

/-- CEARB (R378): the partition's weights, the previous ones to xd. -/
def execCearb (rd ra : Reg) (s : State) : Out :=
  gate (.cearb rd ra) s fun s => noCompute 0 s fun s =>
    let v := s.xr ra
    if v.toNat / 2 ^ 12 ≠ 0 then raise .illegal v s
    else
      let p := s.part s.t.part
      finX rd p.weights (s.setPart s.t.part { p with weights := v })

/-! ## Faults of an engine (R376) -/

/-- A failing access stops the descriptor until its RESUME; while no ring slot is free, or a unit under test serves the place
(R327), it tries again. -/
def State.ceFault (die tag : Nat) (d : CEDesc) (write : Bool) (f : EFault) (again : Event) : State :=
  let later := (f.s.setDesc die tag d).at_ 16 again
  match f.cause with
  | none => later
  | some c => match f.s.ringFault die d.part 5 d.core tag d.task write f.va c with
    | none => later
    | some (n, s') => s'.setDesc die tag { d with fault := some n }

/-- The descriptor ends with a status (R375). -/
def State.ceEnd (s : State) (die tag : Nat) (d : CEDesc) (status : Nat) : State :=
  (s.setDesc die tag { d with phase := 3, status := status, write := none, fault := none }).at_ 0 (.collectiveCompletion die d.ring d.p2p)

/-! ## Matching (R374) -/

/-- The first posting of a position in a stream that passes the test. -/
def findPeer (l : List Peer) (key : Nat) (p2p : Bool) (pos : Nat) (ok : Peer → Bool) : Option Peer :=
  l.find? fun p => p.ring == key && p.p2p == p2p && p.pos == pos && ok p
/-- The postings that match a descriptor at its head: none while one is missing. -/
def State.partners (s : State) (d : CEDesc) : Option (List Peer) :=
  let r := s.ring d.ring
  let n := ringSize r
  let q := ringPos r
  if d.op = 4 then (findPeer s.pkg.peers d.ring true ((q + 1) % n) fun p => p.op == 5 && p.mtag == d.mtag).map fun p => [p]
  else if d.op = 5 then (findPeer s.pkg.peers d.ring true ((q + n - 1) % n) fun p => p.op == 4 && p.mtag == d.mtag).map fun p => [p]
  else
    let others := (List.range n).filter (· != q)
    let ps := others.filterMap fun k => findPeer s.pkg.peers d.ring false k fun _ => true
    if ps.length = others.length then some ps else none
/-- Matched postings agree (R374). -/
def CEDesc.agrees (d : CEDesc) (p : Peer) : Bool :=
  p.fmt == d.ft.code && p.count == d.count && (d.p2p || (p.op == d.op && p.rop == d.rop))

/-! ## The ring (R372, R373, R377) -/

/-- Elements of a chunk: the first, and how many (R373). -/
def CEDesc.chunk (d : CEDesc) (n c : Nat) : Nat × Nat :=
  let l := ceilDiv d.count n
  (c * l, Nat.min ((c + 1) * l) d.count - c * l)
/-- Ring steps of the operation (R373). -/
def CEDesc.steps (d : CEDesc) (n : Nat) : Nat := if d.op = 1 then 2 * (n - 1) else if d.p2p then 1 else n - 1
/-- The reduction (R373). -/
def CEDesc.reduce (d : CEDesc) (a b : Nat) : Nat :=
  if d.rop = 1 then maxEl d.ft a b else if d.rop = 2 then minEl d.ft a b
  else if d.ft.isFloat then roundNE d.ft (FV.add (decodeEl d.ft a) (decodeEl d.ft b)) else addSat d.ft a b
/-- Replace elements from a position. -/
def putElems (l : List Nat) (at_ : Nat) (new : List Nat) : List Nat := l.take at_ ++ new ++ l.drop (at_ + new.length)

/-- Write elements to the bucket; the words of FE pages become full (R375). A part that is refused (R326), or whose walk met an
error (R287), is reported and ends the descriptor with status 2. -/
def State.ceWrite (s : State) (die tag : Nat) (d : CEDesc) (at_ : Nat) (codes : List Nat) : Except EFault (Option (CEDesc × State)) :=
  let w := d.ft.width
  let a := d.bucket + w * at_
  (s.engPieces d.part { w := true } (runsOf (bytesFrom a (w * codes.length)))).map fun (ps, s1) =>
    (s1.engWrite d.task ps ((codes.flatMap fun c => leBytes w c).zipIdx.map fun b => (a + b.2, b.1))).map fun w =>
      ({ d with write := none, status := if w.refused || w.lost then 2 else d.status }, w.report die d.part d.core tag d.task)

/-- The descriptor goes on after a step's write: it ends with its last step, with another position's memory error too (R376). -/
def State.ceGoOn (s : State) (die tag : Nat) (d : CEDesc) : State :=
  if d.steps (ringSize (s.ring d.ring)) ≤ d.step then s.ceEnd die tag d (if d.status = 0 then d.ends else d.status) else s.setDesc die tag d
/-- Write what a step leaves to write. -/
def State.ceStore (s : State) (die tag : Nat) (d : CEDesc) (at_ : Nat) (codes : List Nat) : State :=
  let again : Event := .collectiveStart die d.ring d.p2p
  match s.ceWrite die tag d at_ codes with
  | .error f => State.ceFault die tag { d with write := some (at_, codes) } true f again
  | .ok none => (s.setDesc die tag { d with write := some (at_, codes) }).at_ 16 again
  | .ok (some (d', s')) => s'.ceGoOn die tag d'

/-- Read the bucket (R372, R376): each element once; one under an uncorrectable error enters as the canonical NaN, or
as 0 for an integer, and the descriptor will complete with status 2. -/
def State.ceRead (s : State) (die tag : Nat) (d : CEDesc) : State :=
  let w := d.ft.width
  match s.engPieces d.part { r := true } (runsOf (bytesFrom d.bucket (w * d.count))) with
  | .error f => State.ceFault die tag d false f (.collectiveStart die d.ring d.p2p)
  | .ok (ps, s1) =>
    let bs := (s1.engRead ps).map (·.2)
    let s1 := s1.engMet ps
    let elem (k : Nat) : Nat :=
      let e := (bs.drop (w * k)).take w
      if e.any Option.isNone then (if d.ft.isFloat then roundNE d.ft .nan else 0) else ofBytes (e.map (·.getD 0))
    let bad := bs.any Option.isNone
    let s1 := countAbsents (engAbsents ps) s1
    let s1 := if bad then s1.engineMemErr die d.part d.core tag d.task else s1
    let d := { d with phase := 2, data := (List.range d.count).map elem, status := if bad then 2 else d.status }
    let s1 := s1.setDesc die tag d
    if d.op = 4 then s1.at_ 2280 (.ringStep die d.ring true []) else s1

/-- How the matched postings end the descriptor at every position (R376, R379): abandoned, at a dead link, after a memory error. -/
def endOf (l : List Peer) : Nat :=
  if l.any (·.ends == 4) then 4 else if l.any (·.ends == 1) then 1 else if l.any (·.ends == 2) then 2 else 0
/-- COLLECTIVE_START (R372, R374, R379): the head of a stream on a dead ring ends with status 1; it waits for its
partners, then for its threshold, and reads the bucket. A write that a fault has stopped is made again. A signal word under an
uncorrectable error ends it with status 2 (DESIGN CHOICE, log 68). What ends it at another position, with a dead link or abandoned,
ends it here 50 µs after the match (log 5). -/
def execCollectiveStart (die ring : Nat) (p2p : Bool) (s : State) : Out :=
  match (s.engine die).head ring p2p with
  | none => .next s
  | some (tag, d) =>
    if d.phase = 3 then .next s
    else if ringDead (s.ring ring) then .next (s.ceEnd die tag d 1)
    else if d.phase ≠ 0 ∧ (d.ends = 1 ∨ d.ends = 4) ∧ d.endAt ≤ s.now then .next (s.ceEnd die tag d d.ends)
    else if d.fault.isSome then .next s
    else if d.phase = 0 then
      match s.partners d with
      | none => .next (s.at_ 64 (.collectiveStart die ring p2p))
      | some ps =>
        let s := s.setPkg { s.pkg with peers := ps.foldl (fun l p => l.erase p) s.pkg.peers }
        if ps.all d.agrees then
          let e := endOf ps
          let s := State.at_ (s.setDesc die tag { d with phase := 1, ends := e, endAt := s.now + 95000 }) 0 (.collectiveStart die ring p2p)
          .next (if e = 1 ∨ e = 4 then s.at_ 95000 (.collectiveStart die ring p2p) else s)
        else .next (s.ceEnd die tag d 3)
    else if d.phase = 1 then
      if d.rsig = 0 ∨ d.met then .next (s.ceRead die tag d)
      else match s.engPieces d.part { r := true } [(d.rsig, 8)] with
        | .error f => .next (State.ceFault die tag d false f (.collectiveStart die ring p2p))
        | .ok (ps, s1) =>
          let bs := (s1.engRead ps).map (·.2)
          let v := ofBytes (bs.map (·.getD 0))
          let s1 := countAbsents (engAbsents ps) (s1.engMet ps)
          if bs.any Option.isNone then .next ((s1.engineMemErr die d.part d.core tag d.task).ceEnd die tag d 2)
          else if toSigned 64 v < toSigned 64 (d.word 4) then
            let at_ := match ps.map (·.place) with | [some (.at pa, _)] => some pa | _ => none
            .next ((s1.setDesc die tag { d with watch := at_ }).at_ 64 (.collectiveStart die ring p2p))
          else .next (s1.ceRead die tag d)
    else match d.write with
      | some (at_, codes) => .next (s.ceStore die tag d at_ codes)
      | none => .next s

/-- RING_STEP (R373, R377, R379): a chunk arrives from position q − 1 while this position's goes to q + 1; while a port it
needs is under test the step waits. A SEND's bucket leaves, a RECV's arrives. -/
def execRingStep (die ring : Nat) (p2p : Bool) (arrived : List W32) (s : State) : Out :=
  match (s.engine die).head ring p2p with
  | none => .next s
  | some (tag, d) =>
    let r := s.ring ring
    let n := ringSize r
    let q := ringPos r
    let got := arrived.map (·.toNat % 256 ^ d.ft.width)
    if d.phase ≠ 2 ∨ ringDead r then .next s
    else if d.write.isSome ∨ d.fault.isSome ∨ (ringPorts r).any (fun p => (s.unit 3 p).testing) then
      .next (s.at_ 64 (.ringStep die ring p2p arrived))
    else if d.op = 4 then .next (s.ceGoOn die tag { d with step := 1 })
    else if d.op = 5 then (if got.length = d.count then .next (s.ceStore die tag { d with step := 1 } 0 got) else .next s)
    else if d.op ≤ 2 ∧ d.step < n - 1 then
      let c := d.chunk n ((q + n + n - 1 - d.step) % n)
      if got.length ≠ c.2 then .next s
      else
        let new := (got.zip ((d.data.drop c.1).take c.2)).map fun p => d.reduce p.1 p.2
        let d := { d with data := putElems d.data c.1 new, step := d.step + 1 }
        if d.step < n - 1 then .next (s.setDesc die tag d)
        else if d.op = 1 then .next (s.ceStore die tag d c.1 new)
        else
          let rest := d.data.length * d.ft.width
          let bytes := (List.range rest).map fun k => Config.freeByte (s.free + k)
          let all := (List.range d.count).map fun k =>
            if c.1 ≤ k ∧ k < c.1 + c.2 then d.data.getD k 0 else ofBytes ((bytes.drop (d.ft.width * k)).take d.ft.width)
          .next ({ s with free := s.free + rest }.ceStore die tag d 0 all)
    else
      let j := if d.op = 1 then d.step - (n - 1) else d.step
      let c := d.chunk n ((q + n - j) % n)
      if got.length ≠ c.2 then .next s
      else .next (s.ceStore die tag { d with data := putElems d.data c.1 got, step := d.step + 1 } c.1 got)

/-- The last steps of a completion (R375): CEDONE goes out; once it and the descriptor's FAULT have been accepted (R197), the failure
record, the entry, and the next descriptor. -/
def State.ceFinish (s : State) (die tag : Nat) (d : CEDesc) : State :=
  let m := dieMsg die 5 (BitVec.ofNat 48 (d.status * 2 ^ 40 + d.ring % 16 * 2 ^ 36 + tag))
  let s := if d.msg && !d.told then s.deliverFor d.task d.part d.dcore m else s
  if (d.msg && s.holds d.dcore m) || s.holds (s.part d.part).supcore (dieMsg die 6 (faultPayload 0x0D 0xFF d.core tag)) then
    (s.setDesc die tag { d with told := true }).at_ 16 (.collectiveCompletion die d.ring d.p2p)
  else
    let s := if d.status = 0 then s else s.failTask d.task (d.status == 1)
    let e := s.engine die
    let s := s.setEngine die { e with list := e.list.filter fun x => x.1 != tag }
    (s.countEnd d.part d.core).at_ 1 (.collectiveStart die d.ring d.p2p)

/-- COLLECTIVE_COMPLETION (R375): the bucket is visible and its FE words are full, CVAL is stored, CEDONE goes out, and the entry is
free once it has been accepted (R197). -/
def execCollectiveCompletion (die ring : Nat) (p2p : Bool) (s : State) : Out :=
  match (s.engine die).head ring p2p with
  | none => .next s
  | some (tag, d) =>
    let again : Event := .collectiveCompletion die ring p2p
    if d.phase ≠ 3 ∨ d.fault.isSome then .next s
    else
      if d.sig && !d.signalled then
        match s.engSignal d.task d.part d.csig (BitVec.ofNat 64 (d.word 7)) with
        | .error f => .next (State.ceFault die tag d true f again)
        | .ok none => .next ((s.setDesc die tag d).at_ 16 again)
        | .ok (some w) => .next ((w.report die d.part d.core tag d.task).ceFinish die tag { d with signalled := true })
      else .next (s.ceFinish die tag d)

/-- A RESUME reaches a faulted descriptor of a core (R194, R376): it retries, or with ABANDON ends with status 4. -/
def State.resumeCE (s : State) (core tag : Nat) : Option State :=
  let hit := s.engines.findSome? fun e => (e.2.list.find? fun d => d.1 == tag && d.2.core == core && d.2.fault.isSome).map fun d => (e.1, d.2)
  match hit with
  | none => none
  | some (die, d) =>
    let r := s.ringTake d.part (d.fault.getD 0)
    let d := { d with fault := none }
    if r.1 then some (r.2.ceEnd die tag { d with signalled := d.phase == 3 || d.signalled } 4)
    else some ((r.2.setDesc die tag d).at_ 0 (if d.phase = 3 then .collectiveCompletion die d.ring d.p2p else .collectiveStart die d.ring d.p2p))

end Sys2Proof.Machine
end

