-- ==== Sys2Proof/Machine/Hyper.lean ====
section
/-! DEFINITION. Hypervector instructions (R157 to R172). -/

namespace Sys2Proof.Machine

/-- The hypervector unit of the core holds this task's state from now on (R160); no value changes. -/
def State.holdHv (s : State) : State := s.setCore s.t.core { s.core s.t.core with hvTask := s.t.tid }

/-- A hypervector word past its checks (R161, R162). -/
def hvGate (i : Instr) (s : State) (k : State → Out) : Out := gate i s fun s => k s.holdHv

/-- HVBIND (R163). -/
def execHvbind (rd ra rb : HIdx) (s : State) : Out :=
  hvGate (.hvbind rd ra rb) s fun s => fin (s.hw rd (s.hr ra ^^^ s.hr rb))
/-- The 11-bit rotation of the immediate form (R161): hb, xs and aux[2:0]. -/
def permK (k2 : Pg) (xs : Reg) (k0 : Pg) : Nat := k2.val * 256 + xs.val * 8 + k0.val
/-- HVPERM (R163). -/
def execHvperm (rd ra : HIdx) (k2 : Pg) (xs : Reg) (k0 : Pg) (s : State) : Out :=
  hvGate (.hvperm rd ra k2 xs k0) s fun s => fin (s.hw rd (hrot (s.hr ra) (permK k2 xs k0)))
/-- HVPERM.X (R163). -/
def execHvpermX (rd ra : HIdx) (xs : Reg) (s : State) : Out :=
  hvGate (.hvpermX rd ra xs) s fun s => fin (s.hw rd (hrot (s.hr ra) (s.xr xs).toNat))
/-- HVBUND and HVBUND.neg (R164). -/
def execHvbund (rd ra : HIdx) (xs : Reg) (neg : Bool) (s : State) : Out :=
  hvGate (.hvbund rd ra xs neg) s fun s =>
    let w := s.xr xs
    if w.toNat < 1 ∨ 127 < w.toNat then raise .illegal w s
    else
      let k : Int := if neg then -(w.toNat : Int) else w.toNat
      let cw := s.rd.hvcw
      fin (s.bw rd (BArr.mapC (fun c b => cSat cw (c + if b then k else -k)) (s.br rd) (s.hr ra)))
/-- HVTHR (R165): ties by HVTIE; L steps once after it has been read (R159). -/
def execHvthr (rd ra : HIdx) (s : State) : Out :=
  hvGate (.hvthr rd ra) s fun s =>
    let k := s.core s.t.core
    let tie : Nat := match s.rd.hvtie.toNat with
      | 0 => 0
      | 1 => 2 ^ 8192 - 1
      | 2 => (s.hr 7).toNat
      | _ => k.tieL.toNat
    let r : HReg := BitVec.ofNat 8192 (majority 8192 (s.br ra).toNat tie)
    fin ((s.setCore s.t.core { k with tieL := lfsrStep k.tieL }).hw rd r)
/-- HVCLR (R163). -/
def execHvclr (rd : HIdx) (s : State) : Out := hvGate (.hvclr rd) s fun s => fin (s.bw rd 0)
/-- HVCLR.H (R163). -/
def execHvclrH (rd : HIdx) (s : State) : Out := hvGate (.hvclrH rd) s fun s => fin (s.hw rd 0)
/-- HVDIST (R166). -/
def execHvdist (ra rb : HIdx) (xs : Reg) (s : State) : Out :=
  hvGate (.hvdist ra rb xs) s fun s => finX xs (BitVec.ofNat 64 (hamming (s.hr ra) (s.hr rb))) s
/-- HVMOV (R163). -/
def execHvmov (rd ra : HIdx) (s : State) : Out := hvGate (.hvmov rd ra) s fun s => fin (s.hw rd (s.hr ra))
/-- HVMOV.LFSR (R163). -/
def execHvmovLfsr (rd : HIdx) (s : State) : Out :=
  hvGate (.hvmovLfsr rd) s fun s => fin (s.hw rd (s.core s.t.core).tieL)
/-- HVMOV.SEED (R159, R163). -/
def execHvmovSeed (ra : HIdx) (s : State) : Out :=
  hvGate (.hvmovSeed ra) s fun s =>
    let h := s.hr ra
    fin (s.setCore s.t.core { s.core s.t.core with tieL := if h = 0 then BitVec.allOnes 8192 else h })

/-! ## Memory (R167) -/

/-- Granule addresses of a transfer of n granules. -/
def granuleVas (a : W64) (n : Nat) : List W64 := (List.range n).map fun k => a + BitVec.ofNat 64 (64 * k)

/-- The pieces of a hypervector transfer: what a store's code releases first (R175, R251), then ALIGN, then the granules as
a vector access (R167, R179). -/
def hvPieces (i : Instr) (xs : Reg) (n : Nat) (rel : Sc) (need : Need) (s : State) (k : List Piece → State → Out) : Out :=
  gate i s fun s => ordered rel s fun s =>
    let a := s.xr xs
    noCompute a s fun s =>
      if a.toNat % 64 ≠ 0 then raise .align a s
      else orTrap (s.locatePieces 64 64 need .plain (granuleVas a n)) fun (ps, s') =>
        if piecesWait 64 ps s' then stallSeq s' else k ps (flushPieces 64 ps s').holdHv

/-- A load of n granules (R167, R177, R268, R293). -/
def hvLoad (i : Instr) (xs : Reg) (n : Nat) (sc : Sc) (s : State) (k : Nat → State → State) : Out :=
  hvPieces i xs n .plain { r := true } s fun ps s =>
    orTrap (s.piecesOk 64 ps) fun s => fin (piecesRow sc 64 ps (k (s.piecesValue 64 ps) (s.meetAbsent (absents (ps.map (·.place))))))
/-- A store of n granules (R167, R268). -/
def hvStore (i : Instr) (xs : Reg) (n : Nat) (sc : Sc) (v : State → Nat) (s : State) : Out :=
  hvPieces i xs n sc { w := true } s fun ps s => fin (piecesRow sc 64 ps (s.store (piecesCells 64 ps (v s))))

/-- HVLD (R167). -/
def execHvld (rd : HIdx) (xs : Reg) (sc : Sc) (s : State) : Out :=
  hvLoad (.hvld rd xs sc) xs 16 sc s fun v s => s.hw rd (BitVec.ofNat 8192 v)
/-- HVLD.B (R167): each slot is stored as CSat of it. -/
def execHvldB (rd : HIdx) (xs : Reg) (sc : Sc) (s : State) : Out :=
  hvLoad (.hvldB rd xs sc) xs 256 sc s fun v s =>
    s.bw rd (BArr.mapC (fun c _ => cSat s.rd.hvcw c) (BitVec.ofNat 131072 v) 0)
/-- HVST (R167). -/
def execHvst (ra : HIdx) (xs : Reg) (sc : Sc) (s : State) : Out :=
  hvStore (.hvst ra xs sc) xs 16 sc (fun s => (s.hr ra).toNat) s
/-- HVST.B (R167). -/
def execHvstB (ra : HIdx) (xs : Reg) (sc : Sc) (s : State) : Out :=
  hvStore (.hvstB ra xs sc) xs 256 sc (fun s => (s.br ra).toNat) s

/-! ## The item memory (R168 to R171) -/

/-- Capacity C and byte offset B (R168). -/
def imCap (v : W64) : Nat := bitsOf v.toNat 0 12
def imBase (v : W64) : Nat := bitsOf v.toNat 16 7 * 65536

/-- HVMEMST (R169): one step at the item memory, between searches; it waits while its bank is under test (R223). -/
def execHvmemst (ra : HIdx) (xs : Reg) (s : State) : Out :=
  hvGate (.hvmemst ra xs) s fun s => noCompute 0 s fun s =>
    let j := s.xr xs
    let k := clusterOf s.t.core
    let im := (s.cluster k).imctl
    if imCap im ≤ j.toNat then raise .illegal j s
    else
      let pa := vaultBase k + imBase im + 1024 * j.toNat
      if s.mustWait pa 1024 then stallSeq s
      else if s.underTest pa 1024 then stall s
      else fin ((s.flush pa 1024).store (leCells pa 1024 (s.hr ra).toNat))

/-- Order of candidates: distance, then index (R170). -/
def better (a b : Nat × Nat) : Bool := decide (a.1 < b.1 ∨ (a.1 = b.1 ∧ a.2 < b.2))
/-- The two best candidates (distance, index) of a list, best first. -/
def bestTwo : List (Nat × Nat) → Option (Nat × Nat) → Option (Nat × Nat) → Option (Nat × Nat) × Option (Nat × Nat)
  | [], b, c => (b, c)
  | x :: r, none, _ => bestTwo r (some x) none
  | x :: r, some b, c =>
    if better x b then bestTwo r (some x) (some b)
    else match c with
      | none => bestTwo r (some b) (some x)
      | some d => bestTwo r (some b) (if better x d then some x else some d)
/-- distance << 32 | index, or all ones (R170). -/
def nearWord : Option (Nat × Nat) → W64
  | some (d, j) => BitVec.ofNat 64 (d * 2 ^ 32 + j)
  | none => BitVec.allOnes 64

/-- A search of a cluster's item memory (R170): its two results, or the trap it raises. -/
def State.search (s : State) (k : Nat) (h : HReg) (q : W64) : Wake :=
  let im := (s.cluster k).imctl
  let count := bitsOf q.toNat 16 12
  let first := bitsOf q.toNat 0 11
  if imCap im < first + count then .trap .illegal q
  else
    let js := (List.range count).map (first + ·)
    match js.find? fun j => (badIn s.bad (vaultBase k + imBase im + 1024 * j) 1024).isSome with
    | some j => .trap .memerr (BitVec.ofNat 64 (imBase im + 1024 * j))
    | none =>
      let ds := js.map fun j => (hamming h (BitVec.ofNat 8192 (s.loadLE (vaultBase k + imBase im + 1024 * j) 1024)), j)
      let r := bestTwo ds none none
      .values (nearWord r.1) (nearWord r.2)

/-- A search that met an uncorrectable error: the unit there is tested (R326, R328). -/
def State.searchMet (s : State) (k : Nat) (w : Wake) : State :=
  match w with
  | .trap .memerr o => s.metError (badIn s.bad (vaultBase k + o.toNat) 1024)
  | _ => s

/-- Cycles of a search (R171). -/
def searchCycles (q : W64) : Nat := (bitsOf q.toNat 16 12 + 15) / 16

/-- A bank that holds items of the search is under test: it waits (R223). -/
def State.searchHeld (s : State) (k : Nat) (q : W64) : Bool :=
  s.underTest (vaultBase k + imBase (s.cluster k).imctl + 1024 * bitsOf q.toNat 0 11) (1024 * bitsOf q.toNat 16 12)

/-- A table specification with a nonzero reserved field (R170). -/
def specBad (q : W64) : Bool := decide (q.toNat / 2 ^ 28 ≠ 0 ∨ bitsOf q.toNat 11 5 ≠ 0)

/-- A search word (R170, R171): it starts at once when the item memory is free, else it waits in arrival order. -/
def nearOp (i : Instr) (ra : HIdx) (xs : Reg) (write : W64 → W64 → State → State) (s : State) : Out :=
  hvGate i s fun s => noCompute 0 s fun s =>
    let q := s.xr xs
    let k := clusterOf s.t.core
    let c := s.cluster k
    let finish (w : Wake) (s : State) : Out :=
      let u := { s with t := { s.t with searching := false, near := none } }
      match w with
      | .values a b => fin (write a b u)
      | .trap cz tv => raise cz tv (if s.t.seqEmpty then u else s)
      | _ => stall s
    if specBad q then raise .illegal q s
    else match s.t.near with
      | some (.values a b) => finish (.values a b) s
      | some (.trap cz tv) => finish (.trap cz tv) s
      | _ =>
        if s.t.searching then stall s
        else if c.searches.isEmpty && decide (c.searchEnd ≤ s.tissued) then
          if s.searchHeld k q then stall s else
          let w := s.search k (s.hr ra) q
          finish w ((s.searchMet k w).setCluster k { c with searchEnd := s.tissued + searchCycles q })
        else
          stall (({ s with t := { s.t with searching := true } }.setCluster k
            { c with searches := c.searches ++ [(s.t.tid, s.hr ra, q)] }).after (.issue s.t.core) (c.searchEnd - s.tissued) (.itemMemorySearch k))

/-- HVNEAR (R170). -/
def execHvnear (ra : HIdx) (xs : Reg) (s : State) : Out := nearOp (.hvnear ra xs) ra xs (fun a _ s => s.xw xs a) s
/-- HVNEAR2 (R170): also x(xs+1). -/
def execHvnear2 (ra : HIdx) (xs : Reg) (s : State) : Out :=
  nearOp (.hvnear2 ra xs) ra xs (fun a b s => (s.xw xs a).xw (xs + 1) b) s

/-- ITEM_MEMORY_SEARCH (R171): the oldest waiting search of a cluster runs. -/
def execItemMemorySearch (cluster : Nat) (s : State) : Out :=
  let c := s.cluster cluster
  match c.searches with
  | [] => .next s
  | (tid, h, q) :: r =>
    let n := s.issued (8 * cluster)
    if n < c.searchEnd then .next (s.after (.issue (8 * cluster)) (c.searchEnd - n) (.itemMemorySearch cluster))
    else if s.searchHeld cluster q then .next (s.after (.issue (8 * cluster)) 16 (.itemMemorySearch cluster))
    else
      let w := s.search cluster h q
      let s := s.setCluster cluster { c with searches := r, searchEnd := n + searchCycles q }
      .next ((s.searchMet cluster w).modTask tid fun t => { t with near := some w })

end Sys2Proof.Machine
end

