-- ==== Sys2Proof/Machine/Kv.lean ====
section
/-! DEFINITION. Translation control, remap windows and key-value blocks (R286 to R301). -/

namespace Sys2Proof.Machine

/-! ## Translation -/

/-- TRANSLATION_WALK (R286): a walk for a core of a partition fills its translation cache; a failed one leaves it, but for the test
that an error starts (R328); one that meets a unit under test waits (R313). -/
def execTranslationWalk (core part : Nat) (va : W64) (s : State) : Out :=
  let k := tlbHome core
  match tlbFind part va.toNat (s.cluster k).tlb with
  | some _ => .next s
  | none => match s.walk part va.toNat with
    | .error (some _, e) => .next (s.metError e)
    | .error (none, _) => .next (s.at_ 16 (.translationWalk core part va))
    | .ok (e, s') => .next (s'.setCluster k { s'.cluster k with tlb := (e :: (s'.cluster k).tlb).take tlbSize })

/-- Drop the cached leaves of a partition that overlap a range; what the Ferry knows of its masters follows the tables again
(R288). -/
def invalidate (part a n : Nat) (s : State) : State :=
  let s := { s with clusters := s.clusters.map fun (p : Nat × Cluster) =>
      (p.1, { p.2 with tlb := p.2.tlb.filter fun e => !(e.part == part && overlap e.base e.size a n) }) }
  let p := s.part part
  s.setPart part { p with views := p.views.map fun (v : Nat × View) => (v.1, v.2.refresh part s) }

/-- A parked access of the range that used its leaf already (R259, R265): it has not been performed. -/
def Task.holdsLeaf (a n : Nat) (t : Task) : Bool :=
  match t.run with
  | .parked (.full ..) | .parked (.version ..) | .parked (.room ..) => overlap t.waitOn.toNat 8 a n
  | _ => false

/-- TLBINV (R288): a release; completes once the accesses that used the leaves have been performed. -/
def execTlbinv (ra rb : Reg) (s : State) : Out :=
  gate (.tlbinv ra rb) s fun s =>
    let a := s.xr ra
    let n := s.xr rb
    noCompute a s fun s =>
      let whole := n == BitVec.allOnes 64
      if !whole && decide (a.toNat % 65536 ≠ 0 ∨ n = 0 ∨ n.toNat % 65536 ≠ 0 ∨ 2 ^ 56 < a.toNat + n.toNat) then raise .illegal a s
      else released s fun s =>
        let (b, m) := if whole then (0, 2 ^ 56) else (a.toNat, n.toNat)
        let s := invalidate s.t.part b m s
        if !s.posted.isEmpty || s.allTasks.any fun t => t.part == s.t.part && t.holdsLeaf b m then stall s else fin s

/-- CheckKind of a page operand (R259, R289): the page's leaf; `shown` is the address that ALIGN reports. -/
def State.pageOf (s : State) (a shown : W64) (k : PageKind) : Except Miss (TlbEntry × State) :=
  if highAddr a then s.refuse .xlate a
  else if a.toNat % 8 ≠ 0 then s.refuse .align shown
  else if s.t.st.ph = .c then s.refuse .phase a
  else if a.toNat < 0x01000000 then s.refuse .access a
  else match s.xlate a.toNat with
    | .error (c, e) => .error ⟨c.map (·, a), s, e⟩
    | .ok (e, s') => if e.allows { r := true, w := true } && e.kind == k then .ok (e, s') else s'.refuse .access a
/-- Go on with a page operand's leaf. -/
def checkPage (a shown : W64) (k : PageKind) (s : State) (f : TlbEntry → State → Out) : Out :=
  orTrap (s.pageOf a shown k) fun (e, s) => f e s

/-- Translate the bytes t .. t+n-1 of a row (R292): the leaf of the first, and the state; a row meets at most two pages. -/
def State.rowPages (s : State) (t : W64) (n : Nat) : Except Miss (TlbEntry × State) :=
  let go (va : Nat) (s : State) : Except Miss (TlbEntry × State) :=
    match s.xlate va with
    | .error (c, e) => .error ⟨c.map (·, t), s, e⟩
    | .ok r => .ok r
  if 2 ^ 56 < t.toNat + n then s.refuse .xlate t
  else if t.toNat < 0x01000000 then s.refuse .access t
  else (go t.toNat s).bind fun (d, s) => if t.toNat + n ≤ d.base + d.size then .ok (d, s) else (go (d.base + d.size) s).map fun r => (d, r.2)

/-- RMAPSET (R292). -/
def execRmapset (ra rb : Reg) (s : State) : Out :=
  gate (.rmapset ra rb) s fun s =>
    let a := s.xr ra
    let t := s.xr rb
    checkPage a a .remap s fun e s =>
      let pa := e.frame + 64 + 8 * ((a.toNat - e.base) / e.rowSize)
      let put (v : Nat) (s : State) : Out := fin ((s.flush pa 8).store (leCells pa 8 v))
      if s.mustWait pa 8 then stallSeq s
      else if s.underTest pa 8 then stall s
      else if t = 0 then put 1 s
      else if t.toNat % 64 ≠ 0 then raise .align t s
      else orTrap (s.rowPages t e.rowSize) fun (d, s) =>
        let o := t.toNat - d.base
        let held := assigned (d.frame + o) && assigned (d.frame + o + (e.rowSize - 1))
        if d.size < o + e.rowSize || d.kind != .plain || !held || !d.allows { r := e.readable, w := e.writable } then raise .access t s
        else put (d.frame + o) s

/-! ## Key-value sequences (R294 to R297) -/

/-- A key-value descriptor (R294). -/
structure KvDesc where
  surv : Nat
  res : Nat
  base : Nat
  refcnt : Nat
deriving DecidableEq, Repr

def State.kvGet (s : State) (part i : Nat) : KvDesc :=
  let d := kvDescAddr (s.part part) i
  let d1 := s.mem.readLE (d + 8) 8
  ⟨s.mem.readLE d 8, bitsOf d1 62 2, bitsOf d1 0 48, bitsOf (s.mem.readLE (d + 16) 8) 32 32⟩
def State.kvPut (s : State) (part i : Nat) (d : KvDesc) : State :=
  { s with mem := s.mem.setBytes (wordCells (kvDescAddr (s.part part) i) [d.surv, d.res * 2 ^ 62 + d.base, d.refcnt * 2 ^ 32, 0]) }
where
  wordCells (a : Nat) : List Nat → List (Nat × Byte)
    | [] => []
    | w :: r => leCells a 8 w ++ wordCells (a + 8) r

/-- Region size of a partition (R294). -/
def Part.regSize (p : Part) : Nat := 2 ^ p.logreg

/-- A sequence: its leaf, slot size and length (R295). -/
structure KvSeq where
  e : TlbEntry
  ss : Nat
  len : Nat
deriving DecidableEq, Repr
def State.kvSeq (s : State) (e : TlbEntry) : KvSeq :=
  let h := s.mem.readLE e.frame 8
  ⟨e, 64 * 2 ^ bitsOf h 32 4, bitsOf h 0 32⟩
/-- Address of block j's map entry. -/
def KvSeq.entryPa (q : KvSeq) (j : Nat) : Nat := q.e.frame + 64 + 8 * j
def State.kvMap (s : State) (q : KvSeq) (j : Nat) : Nat := bitsOf (s.mem.readLE (q.entryPa j) 8) 0 32
def State.kvSetMap (s : State) (q : KvSeq) (j : Nat) (d : Option Nat) : State :=
  { s with mem := s.mem.setBytes (leCells (q.entryPa j) 8 (match d with | some i => 2 ^ 63 + i | none => 0)) }
def State.kvSetLen (s : State) (q : KvSeq) (n : Nat) : State := { s with mem := s.mem.setBytes (leCells q.e.frame 4 n) }

/-- Latency of a step at a sequence's map (R296). -/
def kvStep (s : State) (q : KvSeq) : Nat := s.pathLatency s.t.core q.e.frame + 8

/-- Take a descriptor from the head of the free list (R297): the freed ones, the last first, then those never used, in ascending
order (log 67). -/
def State.kvTake (s : State) (part : Nat) : Option (Nat × State) :=
  let p := s.part part
  match p.kvFree with
  | i :: r => some (i, s.setPart part { p with kvFree := r })
  | [] => if p.kvFresh < p.kvn then some (p.kvFresh, s.setPart part { p with kvFresh := p.kvFresh + 1 }) else none
/-- Take a region of the vault pool or the HBM pool. -/
def State.vaultRegion (s : State) (part : Nat) : Option (Nat × State) :=
  let p := s.part part
  match p.vFree with
  | b :: r => some (b, s.setPart part { p with vFree := r })
  | [] => if p.vFresh < p.vcount then
      some (bitsOf (s.mem.readLE (p.vpool + 8 * p.vFresh) 8) 0 48, s.setPart part { p with vFresh := p.vFresh + 1 }) else none
def State.hbmRegion (s : State) (part : Nat) : Option (Nat × State) :=
  let p := s.part part
  match p.hFree with
  | b :: r => some (b, s.setPart part { p with hFree := r })
  | [] => if p.hFresh < p.hcount then
      some (bitsOf (s.mem.readLE (p.hpool + 8 * p.hFresh) 8) 0 48, s.setPart part { p with hFresh := p.hFresh + 1 }) else none
/-- A region of a residency kind: 0 VAULT, 1 HBM; an absent block has none. -/
def State.regionOf (s : State) (part res : Nat) : Option (Nat × State) :=
  if res = 0 then s.vaultRegion part else if res = 1 then s.hbmRegion part else some (0, s)
/-- A region from the vault pool, or from the HBM pool if that is empty (R297): its residency and base. -/
def State.anyRegion (s : State) (part : Nat) : Option (Nat × Nat × State) :=
  match s.vaultRegion part with
  | some (b, s') => some (0, b, s')
  | none => (s.hbmRegion part).map fun q => (1, q.1, q.2)
/-- A region returns to its pool. -/
def State.giveRegion (s : State) (part res base : Nat) : State :=
  let p := s.part part
  if res = 0 then s.setPart part { p with vFree := base :: p.vFree }
  else if res = 1 then s.setPart part { p with hFree := base :: p.hFree } else s

/-- A block loses one reference; at zero its descriptor and region are free (R297, R300). -/
def State.kvDrop (s : State) (part i : Nat) : State :=
  let d := s.kvGet part i
  if 1 < d.refcnt then s.kvPut part i { d with refcnt := d.refcnt - 1 }
  else
    let s := s.giveRegion part d.res d.base
    let p := s.part part
    let next := match p.kvFree with | j :: _ => j | [] => p.kvFresh
    let a := kvDescAddr p i
    ({ s with mem := s.mem.setBytes (leCells a 8 0 ++ leCells (a + 8) 8 0 ++ leCells (a + 16) 8 (next % 2 ^ 32) ++ leCells (a + 24) 8 0) }).setPart part
      { p with kvFree := i :: p.kvFree }

/-- Copy n bytes between regions (R299, R301); what lies under an uncorrectable error is copied as free bytes, and its unit tested
(DESIGN CHOICE, log 70). -/
def State.kvCopy (s : State) (src dst n : Nat) : State :=
  match badIn s.bad src n with
  | none => (s.storeCells ((List.range n).map fun k => (dst + k, s.byteAt (src + k)))).1
  | some u =>
    ({ s with free := s.free + n }.storeCells ((List.range n).map fun k =>
      (dst + k, if (badIn s.bad (src + k) 1).isSome then Config.freeByte (s.free + k) else s.byteAt (src + k)))).1.metError (some u)

/-- New slots hold unspecified bytes until the program stores to them (R299, log 4). -/
def freeCells (a : Nat) : Nat → State → State
  | 0, s => s
  | n + 1, s => freeCells (a + 1) n { s with mem := s.mem.setByte a (Config.freeByte s.free), free := s.free + 1 }

/-- Bits below position b. -/
def lowBits (b : Nat) (n : Nat) : Nat := n % 2 ^ b
/-- Bits b to b + n − 1. -/
def bitRun (b n : Nat) : Nat := (2 ^ n - 1) * 2 ^ b

/-- Copy on write (R299): a new block for map entry j of a sequence, holding the survivors below `top`; none while no
descriptor or region is free. -/
def State.kvUnshare (s : State) (part : Nat) (q : KvSeq) (j top : Nat) : Option (Nat × State) :=
  let i := s.kvMap q j
  let d := s.kvGet part i
  match s.kvTake part with
  | none => none
  | some (n, s1) => match s1.regionOf part d.res with
    | none => none
    | some (base, s2) =>
      let surv := lowBits top d.surv
      let s3 := if d.res = 2 then s2 else s2.kvCopy d.base base (popCount 64 surv * q.ss)
      let s4 := (s3.kvPut part n ⟨surv, d.res, base, 1⟩).kvPut part i { d with refcnt := d.refcnt - 1 }
      some (n, s4.kvSetMap q j (some n))

/-- The KV logic takes an operation on a page's sequence, a release (R297); it waits while a unit under test serves the map or the
blocks (R223, R327). -/
def onSequence (e : TlbEntry) (s : State) (f : KvSeq → State → Out) : Out :=
  released s fun s =>
    let q := s.kvSeq e
    let blocks := (List.range ((q.len + 63) / 64)).any fun j =>
      let d := s.kvGet s.t.part (s.kvMap q j)
      s.underTest (kvDescAddr (s.part s.t.part) (s.kvMap q j)) 32 || (d.res != 2 && s.underTest d.base (64 * q.ss))
    if !s.pkg.units.isEmpty && (s.underTest e.frame 8 || blocks) then stall s else f q s
/-- The place of an uncorrectable error in a sequence's header, or in the map entries and descriptors of some of its blocks. -/
def State.kvErr (s : State) (part : Nat) (q : KvSeq) (js : List Nat) : Option Nat :=
  (badIn s.bad q.e.frame 16).or (js.findSome? fun j =>
    (badIn s.bad (q.entryPa j) 8).or (badIn s.bad (kvDescAddr (s.part part) (s.kvMap q j)) 32))
/-- The KV logic reads blocks of a sequence for an instruction: MEMERR with its operand where they lie under an uncorrectable error
(DESIGN CHOICE, log 70). -/
def kvRead (a : W64) (q : KvSeq) (js : List Nat) (s : State) (k : State → Out) : Out :=
  match s.kvErr s.t.part q js with
  | some u => raise .memerr a (if s.t.seqEmpty then s.metError (some u) else s)
  | none => k s
/-- The page check of a key-value instruction, and its operation (R289, R297). -/
def kvGate (i : Instr) (a : W64) (s : State) (f : KvSeq → State → Out) : Out :=
  gate i s fun s => checkPage a a .kv s fun e s => onSequence e s f

/-- KVSLOT (R298). -/
def execKvslot (rd ra rb : Reg) (s : State) : Out :=
  kvGate (.kvslot rd ra rb) (s.xr ra) s fun q s =>
    let p := (s.xr rb).toNat
    kvRead (s.xr ra) q (if p < q.len then [p / 64] else []) s fun s =>
    let r : W64 :=
      if q.len ≤ p then -3
      else
        let d := s.kvGet s.t.part (s.kvMap q (p / 64))
        if d.res = 2 then -2 else if bitsOf d.surv (p % 64) 1 = 0 then -1
        else BitVec.ofNat 64 (64 * (p / 64) + popCount (p % 64) d.surv)
    finAfter (kvStep s q) (s.xw rd r)

/-- Append n positions to block j, which is descriptor i (R299). -/
def kvExtend (rd : Reg) (q : KvSeq) (i n : Nat) (s : State) : Out :=
  let part := s.t.part
  let b := q.len % 64
  let d := s.kvGet part i
  let surv := Nat.lor d.surv (bitRun b n)
  let s := s.kvPut part i { d with surv := surv }
  let s := freeCells (d.base + popCount b surv * q.ss) (n * q.ss) s
  finAfter (kvStep s q) ((s.kvSetLen q (q.len + n)).xw rd (BitVec.ofNat 64 q.len))

/-- KVAPP (R299). -/
def execKvapp (rd ra rb : Reg) (s : State) : Out :=
  kvGate (.kvapp rd ra rb) (s.xr ra) s fun q s => kvRead (s.xr ra) q (if q.len % 64 = 0 then [] else [q.len / 64]) s fun s =>
    let n := (s.xr rb).toNat
    let part := s.t.part
    let b := q.len % 64
    let j := q.len / 64
    let full : Out := finAfter (kvStep s q) (s.xw rd (-1))
    if n = 0 ∨ 64 - b < n then raise .illegal (s.xr rb) s
    else if (s.part part).regSize < 64 * q.ss then raise .illegal (s.xr ra) s
    else if b = 0 then
      match s.kvTake part with
      | none => full
      | some (i, s1) => match s1.anyRegion part with
        | none => full
        | some (res, base, s2) => kvExtend rd q i n ((s2.kvPut part i ⟨0, res, base, 1⟩).kvSetMap q j (some i))
    else
      let i := s.kvMap q j
      let d := s.kvGet part i
      if d.res = 2 then finAfter (kvStep s q) (s.xw rd (-2))
      else if 1 < d.refcnt then
        match s.kvUnshare part q j b with
        | none => full
        | some (m, s1) => kvExtend rd q m n s1
      else kvExtend rd q i n s

/-- Drop the blocks j, …, j + k − 1 of a sequence. -/
def State.kvDropRun (s : State) (part : Nat) (q : KvSeq) (j : Nat) : Nat → State
  | 0 => s
  | k + 1 =>
    let s := State.kvDropRun s part q j k
    (s.kvDrop part (s.kvMap q (j + k))).kvSetMap q (j + k) none
/-- Blocks that n positions need. -/
def kvBlocks (n : Nat) : Nat := (n + 63) / 64

/-- Truncation (R300): blocks at or past n go; an unshared tail clears its bits above n. -/
def State.kvTruncate (s : State) (part : Nat) (q : KvSeq) (n : Nat) : State :=
  let s := s.kvDropRun part q (kvBlocks n) (kvBlocks q.len - kvBlocks n)
  let s := if n % 64 = 0 then s
    else
      let i := s.kvMap q (n / 64)
      let d := s.kvGet part i
      if d.refcnt = 1 then s.kvPut part i { d with surv := lowBits (n % 64) d.surv } else s
  s.kvSetLen q n

/-- Share blocks 0 to k − 1 of a sequence. -/
def State.kvShare (s : State) (part : Nat) (src dst : KvSeq) : Nat → State
  | 0 => s
  | k + 1 =>
    let s := State.kvShare s part src dst k
    let i := s.kvMap src k
    let d := s.kvGet part i
    (s.kvPut part i { d with refcnt := d.refcnt + 1 }).kvSetMap dst k (some i)

/-- KVTRUNC (R300): truncation, or a fork of another sequence's first positions. -/
def execKvtrunc (rd ra rb : Reg) (s : State) : Out :=
  kvGate (.kvtrunc rd ra rb) (s.xr ra) s fun q s =>
    let n := s.xr rb
    let src := s.xr rd
    let part := s.t.part
    let old (n : Nat) := (List.range (kvBlocks q.len)).filter fun j => decide (n / 64 ≤ j)
    if src = 0 then
      kvRead (s.xr ra) q (old n.toNat) s fun s =>
      if q.len < n.toNat then raise .illegal n s else finAfter (kvStep s q) (s.kvTruncate part q n.toNat)
    else checkPage src src .kv s fun e s =>
      let p := s.kvSeq e
      kvRead (s.xr ra) q (old 0) s fun s => kvRead src p (List.range (kvBlocks (Nat.min p.len n.toNat))) s fun s =>
      if p.len < n.toNat ∨ p.e.frame = q.e.frame ∨ p.ss ≠ q.ss then raise .illegal n s
      else
        let s := s.kvTruncate part q 0
        finAfter (kvStep s q) ((s.kvShare part p q (kvBlocks n.toNat)).kvSetLen q n.toNat)

/-- Move a block's packed slots to a region of the other kind (R301). -/
def State.kvMove (s : State) (part i res : Nat) (ss : Nat) : Option State :=
  let d := s.kvGet part i
  match s.regionOf part res with
  | none => none
  | some (base, s1) =>
    let s2 := s1.kvCopy d.base base (popCount 64 d.surv * ss)
    some ((s2.giveRegion part d.res d.base).kvPut part i { d with res := res, base := base })

/-- The surviving slots of a block after an eviction, in position order: (old slot, new slot). -/
def compaction (old new : Nat) : List (Nat × Nat) :=
  ((List.range 64).filter fun b => bitsOf new b 1 = 1).map fun b => (popCount b old, popCount b new)
/-- Move slots down so that they stay packed (R301). -/
def moveSlots (base ss : Nat) : List (Nat × Nat) → State → State
  | [], s => s
  | (a, b) :: r, s => moveSlots base ss r (if a = b then s else s.kvCopy (base + a * ss) (base + b * ss) ss)

/-- Eviction of positions from a block (R301). -/
def kvEvictBlock (rd : Reg) (mask : Nat) (q : KvSeq) (i : Nat) (s : State) : Out :=
  let part := s.t.part
  let d := s.kvGet part i
  let new := Nat.land d.surv (2 ^ 64 - 1 - mask)
  let s := if d.res = 2 then s else moveSlots d.base q.ss (compaction d.surv new) s
  finAfter (kvStep s q) ((s.kvPut part i { d with surv := new }).xw rd (BitVec.ofNat 64 new))

/-- KVEVICT (R301). -/
def execKvevict (rd ra rb : Reg) (s : State) : Out :=
  let a := s.xr ra
  gate (.kvevict rd ra rb) s fun s => checkPage (a &&& ~~~3) a .kv s fun e s => onSequence e s fun q s =>
    let part := s.t.part
    let j := (a.toNat - e.base) / q.ss / 64
    kvRead a q (if 64 * j < q.len then [j] else []) s fun s =>
    let i := s.kvMap q j
    let d := s.kvGet part i
    let done (v : W64) (s : State) : Out := finAfter (kvStep s q) (s.xw rd v)
    if q.len ≤ 64 * j then raise .illegal a s
    else match a.toNat % 4 with
      | 0 =>
        if 1 < d.refcnt then
          match s.kvUnshare part q j (if q.len / 64 = j then q.len % 64 else 64) with
          | none => done (-1) s
          | some (m, s1) => kvEvictBlock rd (s.xr rb).toNat q m s1
        else kvEvictBlock rd (s.xr rb).toNat q i s
      | 1 =>
        if d.res ≠ 0 then done 0 s
        else match s.kvMove part i 1 q.ss with
          | some s1 => done 0 s1
          | none => done (-1) s
      | 2 =>
        if d.res = 2 then done (-2) s
        else if d.res = 0 then done 0 s
        else match s.kvMove part i 0 q.ss with
          | some s1 => done 0 s1
          | none => done (-1) s
      | _ => done 0 ((s.giveRegion part d.res d.base).kvPut part i { d with res := 2, base := 0 })

end Sys2Proof.Machine
end

