-- ==== Sys2Proof/Machine/Resize.lean ====
section
/-! DEFINITION. Moving the work of departing cores and vaults (R350 to R352). -/

namespace Sys2Proof.Machine

/-! ## The room that is needed (R352) -/

/-- Header of the records for the supervisor: their number, those lost, the lowest (R351). -/
def State.moveRecords (s : State) (part : Nat) : Nat := s.dw (s.part part).report
/-- The part of SPILL that no record takes (R351, R352). -/
def State.spillPool (s : State) (part : Nat) : Nat × Nat :=
  let p := s.part part
  (p.spill, p.spilln - 640 * s.moveRecords part)

/-- Cores that remain of each kind. -/
def State.remaining (s : State) (part : Nat) (r : Resize) : List Nat :=
  let p := s.part part
  (Part.cores { p with clusters := r.clusters }).filter fun c => !r.leaving.contains c
/-- Tasks and built-in evaluations that leave. -/
def State.leavers (s : State) (r : Resize) : List Task := s.allTasks.filter fun t => r.leaving.contains t.core
def State.evalLeavers (s : State) (r : Resize) : List (Nat × Eval) := s.evals.filter fun e => r.leaving.contains e.2.core

/-- Where a moved Hatbox lies (R350): where it is, if its core shares the pool of the new one; else in the new core's pool, else in
SPILL. -/
def State.hatboxAnywhere (s : State) (part old core h n : Nat) : Option Nat :=
  let pool := s.hatboxPool part core
  if s.hatboxPool part old == pool && decide (pool.1 ≤ h ∧ h < pool.1 + pool.2) then some h
  else match placeIn pool n s.hatboxesUsed with
    | some h => some h
    | none => placeIn (s.spillPool part) n s.hatboxesUsed

/-- Banks of a core without an owner, and those that a task owns (R230). -/
def Core.freeBanks (k : Core) : Nat := (if k.bank.owner.isNone then 1 else 0) + (if k.mitten.owner.isNone then 1 else 0)
def Core.banksOf (k : Core) (tid : Nat) : List Bank := [k.bank, k.mitten].filter (·.owner == some tid)
/-- Take a task's banks out of a core, and put one into a bank without an owner. -/
def Core.dropBanks (k : Core) (tid : Nat) : Core :=
  let f (b : Bank) : Bank := if b.owner = some tid then {} else b
  { k with bank := f k.bank, mitten := f k.mitten }
def Core.putBank (b : Bank) (k : Core) : Core := if k.mitten.owner.isNone then { k with mitten := b } else { k with bank := b }

/-! ## Moving tasks (R350) -/

/-- The partner of an optimiser core (R302). -/
def partner (c : Nat) : Nat := 0x1000 + (if (c - 0x1000) % 2 = 0 then c - 0x1000 + 1 else c - 0x1000 - 1)
/-- The core a task moves to: for an optimiser core its partner (R313), otherwise the remaining compute core with the
fewest tasks; it holds fewer than 16 tasks (R9), and as many banks without an owner as the task owns. -/
def State.moveTarget (s : State) (rest : List Nat) (core banks : Nat) : Option Nat :=
  s.fewest (rest.filter fun c => (if isOpt core then c == partner core else isCompute c)
    && decide ((s.tasksOn c).length < coreTasks) && decide (banks ≤ (s.core c).freeBanks))

/-- Links and EVCORE fields that name a moved task are rewritten to its new core (R350). -/
def relink (part tid core : Nat) : List Nat → State → State
  | [], s => s
  | i :: r, s =>
    let e := s.hGet part i
    let n := tid % 2 ^ 32
    let waits := match e.waiter with | some w => w.2 == n && w.1 != core | none => false
    let evals := e.state == hEVAL && e.evtask == n && e.evcore != core
    let e := if waits then { e with waiter := some (core, n) } else e
    let e := if evals then { e with evcore := core } else e
    relink part tid core r (if waits || evals then s.hPut part i e else s)

/-- A task on its new core: what it counts in cycles of the old one goes on by the new one's clocks; an exchange phase ends. -/
def State.movedOn (s : State) (t : Task) (c h : Nat) : Task :=
  let u := t.unwait.endExchange
  { u with core := c, hatbox := h, hold := s.clock (dieOf c) + (t.hold - s.clock (dieOf t.core)),
           seq := if t.run = .preempted then u.seq else (u.seq.remaining (s.issued t.core)).resumedAt (s.issued c),
           st := { u.st with ph := if u.st.ph = .x then .n else u.st.ph } }

/-- Move one task. A barrier it waits at or a leader it follows stays behind with its cluster. None where no core, bank or Hatbox
has room. -/
def State.moveTask (s : State) (rest : List Nat) (t : Task) : Option State :=
  let bs := (s.core t.core).banksOf t.tid
  match s.moveTarget rest t.core bs.length with
  | none => none
  | some c => match s.hatboxAnywhere t.part t.core c t.hatbox t.hatboxSize with
    | none => none
    | some h =>
      let s := if isCompute t.core && clusterOf c != clusterOf t.core then s.ungroupAll (clusterOf t.core) t.tid else s
      let s := s.setCore t.core ((s.core t.core).dropBanks t.tid)
      let s := s.setCore c (bs.foldr Core.putBank (s.core c))
      let b := s
      let s := s.modTask t.tid fun u => s.movedOn u c h
      let s := if isCompute c && clusterOf c == clusterOf t.core then s.reLeadAll b (clusterOf c) else s
      let s := match t.run with
        | .parked (.barrier ..) | .parked (.window ..) => s.wakeTask t.tid .retry
        | .parked (.follow ..) => (s.modTask t.tid fun u => { u with follow := none }).wakeTask t.tid (.value 0)
        | _ => s
      some (relink t.part t.tid c (List.range (s.part t.part).hcFresh) s)
def moveTasks (rest : List Nat) : List Task → State → Option State
  | [], s => some s
  | t :: r, s => (s.moveTask rest t).bind (moveTasks rest r)
/-- Move one built-in evaluation, to the remaining core with the fewest tasks that has a slot. -/
def State.moveEval (s : State) (rest : List Nat) (tid : Nat) (v : Eval) : Option State :=
  match s.fewest (rest.filter fun c => isCompute c && decide ((s.evalsOn c).length < evalSlots)) with
  | none => none
  | some c => (s.hatboxAnywhere v.part v.core c v.hatbox 0x2800).map fun h =>
    relink v.part tid c (List.range (s.part v.part).hcFresh)
      { s with evals := s.evals.put tid { v with core := c, hatbox := h, running := false } }
def moveEvals (rest : List Nat) : List (Nat × Eval) → State → Option State
  | [], s => some s
  | (tid, v) :: r, s => (s.moveEval rest tid v).bind (moveEvals rest r)
/-- Every task and evaluation of the departing cores moves; none where something finds no room. -/
def State.moveWork (s : State) (part : Nat) (r : Resize) : Option State :=
  let rest := s.remaining part r
  (moveTasks rest (s.leavers r) s).bind (moveEvals rest (s.evalLeavers r))

/-- The departing work has room (R352): every Hatbox, bank and task finds its place as the cores stand. -/
def State.roomFor (s : State) (part : Nat) (r : Resize) : Bool := !(s.remaining part r).isEmpty && (s.moveWork part r).isSome

/-! ## Records for the supervisor (R351) -/

/-- A waiting-task entry as its TASKW descriptor (R16). -/
def WEntry.words (e : WEntry) : List Nat :=
  [e.entry.toNat, e.ctr.val * 2 ^ 48 + e.tz.toNat * 2 ^ 32 + e.ty.toNat * 2 ^ 16 + e.tx.toNat,
   bitIf e.hv 43 + e.prio * 2 ^ 40 + e.allot * 2 ^ 32 + e.thr.toNat, e.arg.toNat]
/-- The 640 bytes of a core's record. -/
def Core.moveRecord (k : Core) (c : Nat) : List Nat :=
  [k.table.length * 2 ^ 16 + c, 0, 0, 0, 0, 0, 0, 0]
    ++ ((List.range 16).flatMap fun n => match k.table.find n with | some e => e.words | none => [0, 0, 0, 0])
    ++ (List.range 8).map fun n => (k.ctr.get (Fin.ofNat 16 (2 * n))).toNat + 2 ^ 32 * (k.ctr.get (Fin.ofNat 16 (2 * n + 1))).toNat

/-- Write the record of one departing core, or count it as lost; the header's other words are zero. -/
def State.writeMove (s : State) (part c : Nat) : State :=
  let p := s.part part
  let n := s.dw p.report
  let lost := s.dw (p.report + 8)
  let low := s.dw (p.report + 16)
  let a := p.spill + p.spilln - 640 * (n + 1)
  let header (n lost low : Nat) (s : State) : State := { s with mem := s.mem.setBytes (wordCells p.report [n, lost, low, 0, 0, 0, 0, 0]) }
  if p.spilln < 640 * (n + 1) ∨ s.hatboxesUsed.any (fun u => overlap a 640 u.1 u.2) then header n (lost + 1) low s
  else header (n + 1) lost a { s with mem := s.mem.setBytes (wordCells a ((s.core c).moveRecord c)) }
def writeMoves (part : Nat) : List Nat → State → State
  | [], s => s
  | c :: r, s => writeMoves part r (s.writeMove part c)

/-- A launch that has lost a waiting-task entry may be complete (R348). -/
def checkLaunches : List WEntry → State → State
  | [], s => s
  | e :: r, s => checkLaunches r (if e.launch = 0 then s else s.at_ 0 (.launchCompletion e.launch))
/-- Totals of what leaves stay in the partition's sums (log 21). -/
def State.keepTotals (s : State) (part : Nat) (sent recv : W64) : State :=
  let p := s.part part
  s.setPart part { p with leftSent := p.leftSent + sent, leftRecv := p.leftRecv + recv }
/-- A core that has left: its entries, counters, mailbox, statistics and L are gone; engine commands go on. -/
def State.leaveCore (s : State) (part c : Nat) : State :=
  let k := s.core c
  let s := s.keepTotals part k.sent k.recv
  checkLaunches k.table.vals (s.setCore c
    { copies := k.copies, nextTag := k.nextTag, tagLog := k.tagLog, mq := k.mq, mtail := k.mtail, fmt := k.fmt, bank := k.bank,
      mitten := k.mitten, idle := k.idle })
def leaveCores (part : Nat) : List Nat → State → State
  | [], s => s
  | c :: r, s => leaveCores part r (s.leaveCore part c)

/-! ## Vaults and page tables (R350) -/

/-- An address after a vault of 8 MiB has moved. -/
def movedTo (src dst a : Nat) : Nat := if src ≤ a ∧ a < src + 0x800000 then dst + (a - src) else a
/-- A map keyed by physical addresses, after the move; what stood at the destination is gone. -/
def moveMap {α : Type} (src dst : Nat) (m : NMap α) : NMap α :=
  (m.filter fun p => !decide (dst ≤ p.1 ∧ p.1 < dst + 0x800000)).foldr (fun p acc => NMap.put acc (movedTo src dst p.1) p.2) []
def moveRanges (src dst : Nat) (l : List (Nat × Nat)) : List (Nat × Nat) := l.map fun r => (movedTo src dst r.1, r.2)

/-- Entries of the leaves under a table (R283): address of the entry and the entry. -/
def leafEntries (m : Memory) : List (Nat × Nat × Nat) → Nat → List (Nat × Nat)
  | [], _ => []
  | (_, n, _) :: rest, table =>
    (List.range (2 ^ n)).flatMap fun k =>
      let ea := table + 8 * k
      let e := m.readLE ea 8
      if bitsOf e 0 1 = 0 then []
      else if bitsOf e 1 1 = 1 then [(ea, e)]
      else match rest with
        | [] => []
        | _ => leafEntries m rest (bitsOf e 8 40 * 2 ^ 8)
/-- Rewrite the leaves whose frame lies in a departing vault (R350). -/
def rewriteLeaves (src dst : Nat) : List (Nat × Nat) → Memory → Memory
  | [], m => m
  | (ea, e) :: r, m =>
    let f := bitsOf e 16 32 * 2 ^ 16
    let g := movedTo src dst f
    rewriteLeaves src dst r (if g = f then m else m.setBytes (leCells ea 8 (e - f + g)))

/-- The physical place that a task's park waits on, after the move. -/
def Park.movedTo (src dst : Nat) : Park → Park
  | .full pa e => .full (Machine.movedTo src dst pa) e
  | .version pa v => .version (Machine.movedTo src dst pa) v
  | .room pa x => .room (Machine.movedTo src dst pa) x
  | p => p
/-- The physical places that a task holds, after the move. -/
def Task.placesMoved (src dst : Nat) (t : Task) : Task :=
  { t with run := match t.run with | .parked p => .parked (p.movedTo src dst) | r => r
           lock := t.lock.map fun l => (l.1, l.2.1, movedTo src dst l.2.2)
           rowWrites := t.rowWrites.map (movedTo src dst), rowWait := t.rowWait.map (movedTo src dst) }
/-- A departing vault's contents and side state move, and the leaves with them; what accesses under way name moves too. A lock bit of
a word that has moved is held at its new home. -/
def State.moveVault (s : State) (part src dst : Nat) : State :=
  let s := s.unfocus
  let mv := movedTo src dst
  let inDst (a : Nat) : Bool := decide (dst ≤ a ∧ a < dst + 0x800000)
  let leaves := leafEntries s.mem walkLevels (s.part part).root
  let mem := s.mem.copy src dst 0x800000
  let p := s.part part
  let views := p.views.map fun v => (v.1, { v.2 with master := v.2.master.map fun (m : Nat × Nat × Nat) => (m.1, m.2.1, mv m.2.2) })
  let lock (l : Nat × Nat × Nat) : Nat × Nat × Nat :=
    match (s.tasks.find l.2.2).bind (·.lock) with
    | some (_, _, pa) => if lockKey pa = (l.1, l.2.1) then ((lockKey (mv pa)).1, (lockKey (mv pa)).2, l.2.2) else l
    | none => l
  ({ s with
      mem := rewriteLeaves src dst (leaves.map fun (l : Nat × Nat) => (mv l.1, l.2)) mem
      fullBits := moveMap src dst s.fullBits
      versions := moveMap src dst s.versions
      mseq := moveMap src dst s.mseq
      feInit := moveRanges src dst s.feInit
      verInit := moveRanges src dst s.verInit
      masterInit := moveRanges src dst s.masterInit
      masters := s.masters.map fun (m : TlbEntry) => { m with entry := m.entry - BitVec.ofNat 64 m.frame + BitVec.ofNat 64 (mv m.frame) }
      bad := (s.bad.filter fun b => !inDst b).map mv
      posted := s.posted.map fun (q : Posted) => { q with cells := q.cells.map fun (c : Nat × Byte) => (mv c.1, c.2) }
      locks := s.locks.map lock
      tasks := s.tasks.map fun (t : Nat × Task) => (t.1, t.2.placesMoved src dst) }).setPart part { p with views := views }
def moveVaults (part dst : Nat) : List Nat → State → State
  | [], s => s
  | k :: r, s => moveVaults part (dst + 0x800000) r (s.moveVault part (vaultBase k) dst)

/-- Departing accumulator banks go to SPILL (R350), 128 KiB each, one after another from the lowest place that no Hatbox or record
takes; how their bytes stand there the manual does not say: they are free (log 47). A bank that finds no place leaves none. -/
def State.spillBanks (s : State) (part : Nat) : List (Nat × Nat) → List Task → State
  | _, [] => s
  | used, t :: r =>
    let n := ((s.core t.core).banksOf t.tid).length * 0x20000
    match if n = 0 then none else placeIn (s.spillPool part) n used with
    | none => State.spillBanks s part used r
    | some a => State.spillBanks { s with mem := s.mem.fill ⟨a, n, s.free + 1, a⟩, free := s.free + 1 } part ((a, n) :: used) r

/-- Drop a partition's leaves from every translation cache (R350). -/
def State.dropTlb (s : State) (part : Nat) : State :=
  { s with clusters := s.clusters.map fun c => (c.1, { c.2 with tlb := c.2.tlb.filter fun e => e.part != part }) }
/-- A cluster that leaves keeps its spark counters; its pool is emptied, which counts as received, and its groups are gone (R222). -/
def emptyPools (part : Nat) : List Nat → State → State
  | [], s => s
  | k :: r, s =>
    let c := s.cluster k
    emptyPools part r ((s.keepTotals part 0 (c.recv + BitVec.ofNat 64 c.sparks.length)).setCluster k
      { c with sparks := [], groups := [], searches := [], recv := 0 })

/-! ## The watchdog's clock (R353) -/

/-- The hang watchdog counts (R353). -/
def State.wdogCounts (s : State) (p : Part) : Bool := p.resize.isNone && p.clusters.all fun k => s.clusterPower k == .run
/-- The hang watchdog of a partition is looked at again when it could first have run out (R354). -/
def State.watch (s : State) (part : Nat) : State :=
  let p := s.part part
  if p.wdog = 0 then s
  else { s with sched := s.sched.filter fun e => e.2 != Event.watchdogExpiry part }.at_ (p.wdogBase + p.wdog * 1900 - s.now)
    (.watchdogExpiry part)
/-- Stop or resume the watchdogs after a change. -/
def tendWdogs : List (Nat × Part) → State → State
  | [], s => s
  | (n, _) :: r, s =>
    let p := s.part n
    tendWdogs r (match s.wdogCounts p, p.wdogPaused with
      | true, some e => (s.setPart n { p with wdogBase := s.now - e, wdogPaused := none }).watch n
      | false, none => s.setPart n { p with wdogPaused := some (s.now - p.wdogBase) }
      | _, _ => s)

/-! ## The steps (R350) -/

/-- Clusters that leave the partition, and those none of whose cores remain in it: their pools are emptied. -/
def Resize.emptied (r : Resize) (p : Part) : List Nat :=
  p.clusters.filter fun k => !r.clusters.contains k || (List.range 8).all fun j => (p.gone ++ r.leaving).contains (8 * k + j)
/-- The last steps, once no departing core runs a task. None while something that has come meanwhile finds no room. -/
def State.finishResize (s : State) (part : Nat) (r : Resize) : Option State :=
  let out := (s.part part).clusters.filter fun k => !r.clusters.contains k
  let s := s.unfocus
  let s := (match r.dest with | some d => moveVaults part d out s | none => s).dropTlb part
  ((s.spillBanks part s.hatboxesUsed (s.leavers r)).moveWork part r).map fun s =>
    let s := writeMoves part (r.leaving.filter fun c => s.inPart part c) s
    let s := leaveCores part r.leaving s
    let s := emptyPools part (r.emptied (s.part part)) s
    let p := s.part part
    let s := s.setPart part { p with clusters := r.clusters, held := false, resize := none,
                                      gone := (p.gone ++ r.leaving).filter fun c => isOpt c || r.clusters.contains (clusterOf c) }
    (tendWdogs s.parts s).kickPlace part

/-- A task of a departing core that runs is asked to halt (R349), once. -/
def askHalts : List Task → State → State
  | [], s => s
  | t :: r, s => askHalts r (if t.run = .running ∧ (s.core t.core).preempt ≠ some t.tid then s.askHalt t.tid else s)
/-- A departing core still works for a task that leaves: it runs one, or its matrix unit has commands of the owner of a bank. -/
def State.stillWorks (s : State) (t : Task) : Bool :=
  t.run == .running || (!((s.core t.core).banksOf t.tid).isEmpty && (s.core t.core).mq.any fun c => c.task == t.tid)
/-- The core leaves its partition in a resize that has begun: it chooses no task any more (R350). -/
def State.departing (s : State) (c : Nat) : Bool :=
  s.parts.any fun p => p.2.held && (match p.2.resize with | some r => r.leaving.contains c | none => false)
/-- A resize begins, or goes on with more cores: placement is held, and the departing cores' tasks are asked to halt (R350). -/
def State.beginResize (s : State) (part : Nat) (r : Resize) : State :=
  let s := s.setPart part { s.part part with held := true, resize := some r }
  (askHalts (s.leavers r) (tendWdogs s.parts s)).at_ 1 .presize
/-- The resize with the cores that have joined it, ascending. -/
def Resize.joined (r : Resize) : Resize := { r with leaving := r.joining.foldl (fun l c => insertOnce c l) r.leaving, joining := [] }
/-- One step of the resize or retirement of a partition: where the device has made cores leave, it begins with the reckoning of room,
which it pays with a reset, after which the cores leave without their tasks (R352); then it waits until the departing cores' tasks
have halted. -/
def State.resizeStep (s : State) (part : Nat) : State :=
  match (s.part part).resize with
  | none => s
  | some r =>
    if !r.joining.isEmpty then
      let z := s.beginResize part r.joined
      if s.roomFor part r.joined then z else z.at_ 0 (.partitionReset part 4)
    else if (s.leavers r).any s.stillWorks then (askHalts (s.leavers r) s).at_ 16 .presize
    else (s.finishResize part r).getD (s.at_ 16 .presize)
def resizeSteps : List Nat → State → State
  | [], s => s
  | p :: r, s => resizeSteps r (s.resizeStep p)

end Sys2Proof.Machine
end

