-- ==== Sys2Proof/Machine/Partitions.lean ====
section
/-! DEFINITION. Launch completion, hangs and partition reset (R347, R348, R354, R355), and the partition commands of the
management mailbox (R320, R337, R338, R350, R353). -/

namespace Sys2Proof.Machine

/-! ## Launch completion (R347, R348) -/

/-- Tasks and waiting-task entries of a launch are gone. -/
def State.launchEmpty (s : State) (n : Nat) : Bool :=
  (s.participants n).isEmpty && s.cores.vals.all fun k => k.table.vals.all fun e => e.launch != n
/-- An engine, matrix or collective command of a task has not completed (R348 step 2). -/
def State.commandsOf (s : State) (tids : List Nat) : Bool :=
  (s.cores.vals.any fun k => (k.copies.vals.any fun c => tids.contains c.task) || k.mq.any fun c => tids.contains c.task)
    || s.engines.vals.any fun e => e.list.any fun d => tids.contains d.2.task
/-- An access of a task is on its way (R348 step 3). -/
def State.accessesOf (s : State) (tids : List Nat) : Bool :=
  (s.posted.any fun p => tids.contains p.tid) || s.sends.any fun m => tids.contains m.tid
/-- The status of a launch (R348): the OR of its tasks' records and the fence's own. -/
def Launch.fence (l : Launch) : Nat :=
  l.status ||| (l.lateCount * 2 ^ 8 + bitIf l.lateRefused 1 + bitIf l.lateDead 0)

/-- LAUNCH_COMPLETION (R348): once every task, entry, command and access of the launch is done, the record is written;
with status 0 the launch counts toward DONE; its tree is free (R362). -/
def execLaunchCompletion (launch : Nat) (s : State) : Out :=
  match s.launches.find launch with
  | none => .next s
  | some l =>
    if !l.allPlaced || !s.launchEmpty launch then .next s
    else if s.commandsOf l.tids || s.accessesOf l.tids || s.queuesHeld l.part || s.recordHeld l.d then .next (s.at_ 64 (.launchCompletion launch))
    else
      let s := s.completionRecord l.part l.queue l.index l.d l.missed false l.fence
      let s := if l.fence = 0 then s.countDone l.part l.queue l.index else s
      let s := { s with launches := s.launches.del launch }
      .next ((wakeTrees s.allTasks s).kickPlace l.part)

/-! ## Reset (R355) -/

/-- An event on its way that a reset discards with what it belongs to. -/
def Event.dropped (s : State) (part : Nat) (tids : List Nat) : Event → Bool
  | .wrcArrival c _ _ _ => s.inPart part c
  | .handleHomeCheck t _ _ => tids.contains t
  | .hready t _ _ _ => tids.contains t
  | .evaluationCompletion p _ => p == part
  | .deadlock p _ => p == part
  | _ => false

/-- A core after partition reset: everything as R10, R110, R151, R159, R195, R229 and R230 say it is then; the tag counter of its
copy port goes on. -/
def Core.afterReset (k : Core) : Core := { nextTag := k.nextTag, idle := k.idle }
def resetCores : List Nat → State → State
  | [], s => s
  | c :: r, s => resetCores r (s.setCore c (s.core c).afterReset)
/-- A cluster after partition reset: IMCTL zero (R168), its exchange clock counts from now (R211), its table the identity (R238). -/
def Cluster.afterReset (c : Cluster) (now : Nat) : Cluster := { clock := now, idle := c.idle, tlb := c.tlb, mhold := c.mhold }
def resetClusters : List Nat → State → State
  | [], s => s
  | k :: r, s => resetClusters r (s.setCluster k ((s.cluster k).afterReset (s.issued (8 * k))))
/-- Engine and matrix commands of a partition on cores that have left it are abandoned too (R355); a unit that ran one is free. -/
def abandon (part : Nat) : List (Nat × Core) → State → State
  | [], s => s
  | (c, k) :: r, s =>
    let mine := (k.copies.any fun q => q.2.part == part) || k.mq.any fun q => q.part == part
    let ran := match k.mq with | q :: _ => q.started && q.part == part | [] => false
    let s := if mine then
        s.setCore c { k with copies := k.copies.filter fun q => q.2.part != part, mq := k.mq.filter fun q => q.part != part }
      else s
    abandon part r (if ran then s.setCluster (clusterOf c) { s.cluster (clusterOf c) with mbusy := none } else s)
/-- A partition after reset: what its configuration block and its shape give stays, and a resize goes on. -/
def Part.afterReset (p : Part) (now : Nat) : Part :=
  { root := p.root, logcap := p.logcap, hcBase := p.hcBase, fring := p.fring, gqtab := p.gqtab, lqtab := p.lqtab, kvdesc := p.kvdesc,
    logreg := p.logreg, kvn := p.kvn, vpool := p.vpool, vcount := p.vcount, hpool := p.hpool, hcount := p.hcount, hbn := p.hbn,
    hboff := p.hboff, ep := p.ep, supcore := p.supcore, wdog := p.wdog, age := p.age, spill := p.spill, spilln := p.spilln,
    report := p.report, clusters := p.clusters, opts := p.opts, gone := p.gone, region := p.region, wdogBase := now, held := p.held,
    resize := p.resize }

/-- Each queue's HEAD is set to DONE (R355). -/
def rewind (part : Nat) : List Nat → State → State
  | [], s => s
  | q :: r, s => rewind part r (s.setDw ((s.part part).queue q + 24) (s.qDone part q))

/-- Every entry of a Hatcheck is FREE with GEN 0 (R82): its bytes are zero, as bytes that nothing has written read; the write
renews its granules. -/
def State.freeEntries (s : State) (p : Part) : State :=
  let f : Fill := ⟨p.entryPa 0, 64 * p.hcCapacity, 0, 0⟩
  { s with mem := s.mem.fill f, bad := s.bad.filter fun u => !f.has u }

/-- Perform the posted writes of a list of tasks. -/
def performAll : List Posted → State → State
  | [], s => s
  | p :: r, s => performAll r (s.perform p)

/-- Reset a partition (R355); cause 1 watchdog, 2 uncorrectable error, 3 host, 4 no room. -/
def State.resetPart (s : State) (part cause : Nat) : State :=
  let s := s.unfocus
  let p := s.part part
  let tids := (s.allTasks.filter fun t => t.part == part).map (·.tid) ++ (s.evals.filter fun e => e.2.part == part).map (·.1)
  let mine (n : Nat) : Bool := tids.contains n
  let s := performAll (s.posted.filter fun q => mine q.tid) { s with posted := s.posted.filter fun q => !mine q.tid }
  let s := { s with
    sched := s.sched.filter fun e => !e.2.dropped s part tids
    timed := s.timed.filter fun e => !e.2.2.dropped s part tids
    tasks := s.tasks.filter fun t => t.2.part != part
    evals := s.evals.filter fun e => e.2.part != part
    launches := s.launches.filter fun l => l.2.part != part
    locks := s.locks.filter fun l => !mine l.2.2
    lockQueue := s.lockQueue.filter fun l => !mine l.2.2
    sends := s.sends.filter fun m => !mine m.tid && !s.inPart part m.core
    engines := s.engines.map fun e => (e.1, { e.2 with list := e.2.list.filter fun d => d.2.part != part }) }
  let s := resetClusters p.clusters (resetCores p.cores s)
  let s := abandon part s.cores s
  let s := s.setPart part (p.afterReset s.now)
  let s := rewind part (List.range 16) (s.freeEntries p)
  let s := { s with mem := s.mem.setBytes (wordCells (p.report + 0x800) [cause, s.dtime.toNat]) }
  let s := s.raiseMsix p.ep (1 + part)
  let s := wakeTrees s.allTasks s
  let s := tendWdogs s.parts s
  let s := (s.watch part).kickFerries
  s.readTails part

/-- PARTITION_RESET (R354, R355). -/
def execPartitionReset (part cause : Nat) (s : State) : Out :=
  if (s.parts.find part).isSome then .next (s.resetPart part cause) else .next s

/-- WATCHDOG_EXPIRY (R353, R354): for WDOG µs no task has retired while work remains; otherwise the watchdog goes on. -/
def execWatchdogExpiry (part : Nat) (s : State) : Out :=
  let p := s.part part
  if p.wdog = 0 then .next s
  else if p.wdogPaused.isSome ∨ !s.holdsWork part then .next (s.at_ (p.wdog * 1900) (.watchdogExpiry part))
  else if s.now < p.wdogBase + p.wdog * 1900 then .next (s.at_ (p.wdogBase + p.wdog * 1900 - s.now) (.watchdogExpiry part))
  else .next (s.resetPart part 1)

/-! ## The management mailbox (R320) -/

/-- Word k of the command in the mailbox. -/
def State.cw (s : State) (k : Nat) : Nat := (s.pkg.cmd.get (Fin.ofNat 8 k)).toNat
/-- Fields of c0 (R320). -/
def State.cOp (s : State) : Nat := bitsOf (s.cw 0) 0 8
def State.cFirst (s : State) : Nat := bitsOf (s.cw 0) 16 16
def State.cCount (s : State) : Nat := bitsOf (s.cw 0) 32 16
def State.cState (s : State) : Nat := bitsOf (s.cw 0) 48 4
def State.cClk (s : State) : Nat := bitsOf (s.cw 0) 52 2
/-- The zero fields of c0 are zero, and the state is one of the four. -/
def State.c0Ok (s : State) : Bool := decide (bitsOf (s.cw 0) 54 10 = 0 ∧ bitsOf (s.cw 0) 8 8 = 0 ∧ s.cState ≤ 3)
def State.cRange (s : State) : List Nat := (List.range s.cCount).map (s.cFirst + ·)

/-- The response is written, and only then the doorbell cleared (R320). -/
def State.respond (s : State) (status : Nat) : State :=
  s.setPkg { s.pkg with resp := #v[BitVec.ofNat 64 status, 0, 0, 0, 0, 0, 0, 0], doorbell := false, busy := false }
/-- Run a command that stands in the mailbox under a code. -/
def command (op : Nat) (s : State) (k : State → State) : Out :=
  if s.pkg.booted && s.pkg.doorbell && !s.pkg.busy && s.cOp == op then .next (k s) else .next s

/-! ## Partition commands (R337) -/

/-- The partition named in c1, which must exist. -/
def partCommand (op : Nat) (s : State) (k : Nat → State → State) : Out :=
  command op s fun s =>
    if !s.c0Ok ∨ 7 < s.cw 1 ∨ (s.parts.find (s.cw 1)).isNone then s.respond 2 else k (s.cw 1) s

/-- A physical device address (R315). -/
def onDevice (pa : Nat) : Bool := assigned pa && !isHost pa
/-- An area of n bytes lies in HBM (R315). -/
def inHbm (pa n : Nat) : Bool := decide (pa < 0xC000000000 ∧ pa + n ≤ 0xC000000000)
/-- The configuration block at an address is legal (R338): SPILL is an area in HBM. -/
def blockOk (d : List Nat) (cores : List Nat) : Bool :=
  let f (k lo n : Nat) : Nat := pf d k lo n
  let high (k : Nat) : Bool := decide (f k 48 16 = 0)
  high 0 && decide (f 0 0 15 = 0) && decide (f 1 53 11 = 0 ∧ 10 ≤ f 1 48 5 ∧ f 1 48 5 ≤ 32 ∧ f 1 0 6 = 0)
    && high 2 && high 3 && high 4 && high 5 && decide (f 6 36 28 = 0 ∧ 12 ≤ f 6 32 4 ∧ f 6 32 4 ≤ 20 ∧ f 6 24 8 = 0)
    && high 7 && high 9 && decide (f 10 56 8 = 0 ∧ f 10 40 8 = 0 ∧ f 10 17 15 = 0) && decide (f 10 0 16 < 4096) && cores.contains (f 10 0 16)
    && decide (1 ≤ f 11 0 32) && high 12 && high 13 && high 14 && decide (d.getD 15 0 = 0)
    && inHbm (f 12 0 48) (f 13 0 48) && [0, 1, 2, 3, 4, 5, 7, 9, 14].all fun k => onDevice (f k 0 48)
/-- The partition that a block describes. -/
def Part.ofBlock (d : List Nat) (clusters opts : List Nat) : Part :=
  let f (k lo n : Nat) : Nat := pf d k lo n
  { root := f 0 0 48, logcap := f 1 48 5, hcBase := f 1 0 48, fring := f 2 0 48, gqtab := f 3 0 48, lqtab := f 4 0 48,
    kvdesc := f 5 0 48, logreg := f 6 32 4, kvn := f 6 0 24, vpool := f 7 0 48, vcount := f 8 0 32, hcount := f 8 32 32,
    hpool := f 9 0 48, hbn := f 10 48 8, hboff := f 10 32 8, ep := f 10 16 1, supcore := f 10 0 16, wdog := f 11 32 32,
    age := f 11 0 32, spill := f 12 0 48, spilln := f 13 0 48, report := f 14 0 48, clusters := clusters, opts := opts }

/-- Clusters and optimiser cores that belong to partitions. -/
def State.clusterTaken (s : State) (k : Nat) : Bool := s.parts.vals.any fun p => p.clusters.contains k
def State.optTaken (s : State) (j : Nat) : Bool := s.parts.vals.any fun p => p.opts.contains j
/-- The ring table of a partition from the fabric plan (R368). -/
def State.writeRings (s : State) (part : Nat) : State :=
  let a := (s.part part).report + 0x400
  { s with mem := s.mem.setBytes (wordCells a ((List.range 16).flatMap fun i => [s.pkg.plan.getD (16 * part + i) 0, 0, 0, 0, 0, 0, 0, 0])) }

/-- PCREATE (R337, R338). -/
def execPcreate (s : State) : Out :=
  command 0x10 s fun s =>
    let part := s.cw 1
    let blk := s.cw 2
    let j := bitsOf (s.cw 3) 0 16
    let n := bitsOf (s.cw 3) 16 16
    let clusters := s.cRange
    let opts := (List.range n).map (j + ·)
    let d := (List.range 16).map fun k => s.dw (blk + 8 * k)
    if !s.c0Ok ∨ 7 < part ∨ (s.parts.find part).isSome ∨ blk % 64 ≠ 0 ∨ 2 ^ 48 ≤ blk ∨ !onDevice blk ∨ s.cw 3 / 2 ^ 32 ≠ 0
        ∨ s.cCount = 0 ∨ 512 < s.cFirst + s.cCount ∨ 96 < n ∨ 96 < j + n then s.respond 2
    else if s.underTest blk 128 then s.at_ 16 .pcreate
    else if !blockOk d (clusters.flatMap fun k => (List.range 8).map (8 * k + ·)) then s.respond 2
    else if (clusters.any fun k => s.clusterTaken k || s.clusterPower k != .run) || opts.any fun j => s.optTaken j || s.optPower j != .run then
      s.respond 1
    else if clusters.any s.clusterRetired then s.respond 3
    else
      let s := s.setPart part (Part.ofBlock d clusters opts)
      ((s.writeRings part).resetPart part 3).respond 0

/-- Where departing vaults may go (R350): vaults of the new range, or HBM, 8 MiB each. -/
def destOk (range : List Nat) (dest n : Nat) : Bool :=
  (List.range n).all fun i =>
    let a := dest + 0x800000 * i
    decide (a % 65536 = 0 ∧ a + 0x800000 ≤ 0xC000000000) || range.any fun k => a == vaultBase k

/-- PRESIZE (R350, R352): the steps of every resize in progress, then of a command that has just come or has ended. -/
def execPresize (s : State) : Out :=
  let s := resizeSteps s.parts.keys s
  let running := s.pkg.booted && s.pkg.doorbell && s.pkg.busy && (s.cOp == 0x11 || s.cOp == 0x12)
  if running then
    if (s.part (s.cw 1)).resize.isSome then .next s else .next (s.respond 0)
  else partCommand 0x11 s fun part s =>
    let p := s.part part
    let range := s.cRange
    let dest := s.cw 2
    let r : Resize := { leaving := p.computeCores.filter fun c => !range.contains (clusterOf c), clusters := range, dest := some dest }
    if p.resize.isSome then s.at_ 64 .presize
    else if s.cCount = 0 ∨ 512 < s.cFirst + s.cCount ∨ !destOk range dest (p.clusters.filter fun k => !range.contains k).length then s.respond 2
    else if range.any fun k => !p.clusters.contains k && (s.clusterTaken k || s.clusterPower k != .run) then s.respond 1
    else if range.any fun k => !p.clusters.contains k && s.clusterRetired k then s.respond 3
    else if !s.roomFor part r then s.respond 1
    else (s.beginResize part r).setPkg { s.pkg with busy := true }

/-- PRETIRE (R350, R352): one core leaves; the steps go on as those of a resize. -/
def execPretire (s : State) : Out :=
  partCommand 0x12 s fun part s =>
    let p := s.part part
    let c := s.cFirst
    let r : Resize := { leaving := [c], clusters := p.clusters, dest := none }
    if p.resize.isSome then s.at_ 64 .pretire
    else if s.cCount ≠ 1 ∨ !s.inPart part c then s.respond 2
    else if !s.roomFor part r then s.respond 1
    else (s.beginResize part r).setPkg { s.pkg with busy := true }

/-- PRESET (R355). -/
def execPreset (s : State) : Out := partCommand 0x13 s fun part s => (s.resetPart part 3).respond 0

/-- PDESTROY (R337). -/
def execPdestroy (s : State) : Out :=
  partCommand 0x14 s fun part s =>
    let busy := s.holdsWork part || (s.cores.vals.any fun k => (k.copies.vals.any fun c => c.part == part) || k.mq.any fun c => c.part == part)
      || s.engines.vals.any fun e => e.list.any fun d => d.2.part == part
    if busy then s.respond 1
    else
      let s := emptyPools part (s.part part).clusters s
      ({ s with parts := s.parts.del part }.kickFerries).respond 0

/-- PTUNE (R337): AGE and WDOG. -/
def execPtune (s : State) : Out :=
  partCommand 0x15 s fun part s =>
    let age := s.cw 2
    let wdog := s.cw 3
    if age = 0 ∨ 2 ^ 32 ≤ age ∨ 2 ^ 32 ≤ wdog then s.respond 2
    else
      ((s.setPart part { s.part part with age := age, wdog := wdog }).watch part).respond 0

end Sys2Proof.Machine
end

