-- ==== Sys2Proof/Machine/Manage.lean ====
section
/-! DEFINITION. Power commands (R321 to R323), limits, attestation, the event ring's command (R331 to R335), boot, and what
the host does through the Landing (R318 to R320). -/

namespace Sys2Proof.Machine

/-! ## Power (R321 to R323) -/

/-- Classes of the units that a power command names. -/
def pDie : Nat := 0
def pCluster : Nat := 1
def pOpt : Nat := 2
def State.unitPower (s : State) (cls idx : Nat) : Power :=
  if cls = pDie then (s.die idx).power else if cls = pCluster then s.pkg.clusterPower.getD idx .run else s.pkg.optPower.getD idx .run
def State.setUnitPower (s : State) (cls idx : Nat) (p : Power) : State :=
  if cls = pDie then s.setDie idx { s.die idx with power := p }
  else if cls = pCluster then s.setPkg { s.pkg with clusterPower := s.pkg.clusterPower.put idx p }
  else s.setPkg { s.pkg with optPower := s.pkg.optPower.put idx p }
/-- The die that a unit lies on. -/
def pUnitDie (cls idx : Nat) : Nat := if cls = pDie then idx else if cls = pCluster then idx / 128 else idx / 24

/-- Clusters and optimiser cores of a unit. -/
def pClusters (cls idx : Nat) : List Nat :=
  if cls = pDie then (List.range 128).map (128 * idx + ·) else if cls = pCluster then [idx] else []
def pOpts (cls idx : Nat) : List Nat :=
  if cls = pDie then (List.range 24).map (24 * idx + ·) else if cls = pOpt then [idx] else []
def pCores (cls idx : Nat) : List Nat :=
  ((pClusters cls idx).flatMap fun k => (List.range 8).map (8 * k + ·)) ++ (pOpts cls idx).map (0x1000 + ·)

/-- A unit belongs to a partition or holds a task or a waiting-task entry (R322). -/
def State.resident (s : State) (cls idx : Nat) : Bool :=
  (pClusters cls idx).any s.clusterTaken || (pOpts cls idx).any s.optTaken
    || (pCores cls idx).any fun c => !(s.tasksOn c).isEmpty || !(s.core c).table.isEmpty
/-- A bank or lane group of the unit has been retired (R330). -/
def State.unitRetired (s : State) (cls idx : Nat) : Bool := cls == pCluster && s.clusterRetired idx

/-- Physical ranges of a unit's memory (R315). -/
def pMemory (cls idx : Nat) : List (Nat × Nat) :=
  (if cls = pDie then [(idx * 0x3000000000, 0x3000000000)] else [])
    ++ (pClusters cls idx).map (fun k => (vaultBase k, 0x800000)) ++ (pOpts cls idx).map fun j => (scratchBase j, 0x200000)

/-- RETAIN and OFF lose the state of cores; OFF loses memory and its side state: what stood in memory then reads as free bytes
(R321). -/
def loseCores : List Nat → State → State
  | [], s => s
  | c :: r, s => loseCores r (s.setCore c { idle := (s.core c).idle })
def loseClusters : List Nat → State → State
  | [], s => s
  | k :: r, s => loseClusters r (s.setCluster k { clock := s.issued (8 * k), idle := (s.cluster k).idle })
def State.losePower (s : State) (cls idx : Nat) (p : Power) : State :=
  let s := if 2 ≤ p.depth then loseClusters (pClusters cls idx) (loseCores (pCores cls idx) s) else s
  if p = .off then
    let keeps (a : Nat) : Bool := !inRanges (pMemory cls idx) a
    { s with mem := (pMemory cls idx).foldl (fun m r => m.fill ⟨r.1, r.2, s.free + 1, r.1⟩) s.mem, free := s.free + 1, bad := s.bad.filter keeps, fullBits := s.fullBits.filter fun b => keeps b.1,
             versions := s.versions.filter fun v => keeps v.1, mseq := s.mseq.filter fun m => keeps m.1,
             feInit := s.feInit.filter fun r => keeps r.1, verInit := s.verInit.filter fun r => keeps r.1,
             masterInit := s.masterInit.filter fun r => keeps r.1 }
  else s

/-- Reference cycles from a state to RUN (R321). -/
def Power.exitCycles : Power → Nat
  | .run => 0 | .idle => 1900 | .retain => 95000 | .off => 3800000

/-- Put one unit into a state: a deeper one at once, a shallower one after the exit time (R321). -/
def State.powerUnit (s : State) (cls idx : Nat) (p : Power) : State :=
  let now := s.unitPower cls idx
  let d := pUnitDie cls idx
  let s := s.setDie d { s.die d with commanded := true }
  let key := unitKey cls idx
  let s := s.setPkg { s.pkg with exits := s.pkg.exits.del key }
  if now.depth ≤ p.depth then (s.setUnitPower cls idx p).losePower cls idx p
  else (s.setPkg { s.pkg with exits := s.pkg.exits.put key p }).at_ now.exitCycles (.powerStateExit cls idx)
def powerUnits (cls : Nat) (p : Power) : List Nat → State → State
  | [], s => s
  | i :: r, s => powerUnits cls p r (s.powerUnit cls i p)

/-- A clock change (R323): the die holds for 10 µs. -/
def clockHold : Nat := 19000
/-- A die that has come to RUN changes to the clock point it was told meanwhile. -/
def State.changeClock (s : State) (d : Nat) : State :=
  let x := s.die d
  if x.nextClk = x.clk then s else (s.setDie d { x with holdEnd := s.now + clockHold }).at_ clockHold (.clockHoldEnd d)

/-- POWER_STATE_EXIT (R321): the unit reaches the state it was told; a die changes to the clock point it was told (R323). -/
def execPowerStateExit (cls idx : Nat) (s : State) : Out :=
  match s.pkg.exits.find (unitKey cls idx) with
  | none => .next s
  | some p =>
    let s := (s.setPkg { s.pkg with exits := s.pkg.exits.del (unitKey cls idx) }).setUnitPower cls idx p
    let s := if cls = pDie then s.changeClock idx else s
    .next (tendWdogs s.parts s)

def State.clockDie (s : State) (clk d : Nat) : State :=
  let x := s.die d
  if x.power ≠ .run then s.setDie d { x with nextClk := clk }
  else if x.clk = clk ∧ x.nextClk = clk then s
  else (s.setDie d { x with nextClk := clk, holdEnd := s.now + clockHold }).at_ clockHold (.clockHoldEnd d)
def clockDies (clk : Nat) : List Nat → State → State
  | [], s => s
  | d :: r, s => clockDies clk r (s.clockDie clk d)
/-- CLOCK_HOLD_END (R323): cores and matrix units resume at the new point. -/
def execClockHoldEnd (die : Nat) (s : State) : Out :=
  let x := s.die die
  if s.now < x.holdEnd then .next s else .next (s.setDie die { x with clk := x.nextClk })

/-- A power command over a class of units (R320 to R322). -/
def powerCommand (op cls n : Nat) (s : State) (k : State → State) : Out :=
  command op s fun s =>
    let p := Power.ofCode s.cState
    if !s.c0Ok ∨ s.cCount = 0 ∨ n < s.cFirst + s.cCount then s.respond 2
    else if s.cRange.any (s.unitRetired cls) then s.respond 3
    else if 2 ≤ p.depth ∧ s.cRange.any (s.resident cls) then s.respond 1
    else
      let s := k (powerUnits cls p s.cRange s)
      (tendWdogs s.parts s).respond 0
/-- DIE (R321, R323). -/
def execDie (s : State) : Out :=
  powerCommand 1 pDie 4 s fun s => if s.cState = 0 then clockDies s.cClk s.cRange s else s
/-- CLUSTERS (R321): CLK is ignored. -/
def execClusters (s : State) : Out := powerCommand 2 pCluster 512 s id
/-- OPTCORES (R321). -/
def execOptcores (s : State) : Out := powerCommand 3 pOpt 96 s id

/-! ## Limits, event ring, attestation -/

def limitDies (amps alert : Nat) : List Nat → State → State
  | [], s => s
  | d :: r, s => limitDies amps alert r (s.setDie d { s.die d with limit := amps, alert := alert })
/-- LIMITS (R324, R325): of the dies it names. -/
def execLimits (s : State) : Out :=
  command 4 s fun s =>
    let amps := s.cw 1
    let alert := s.cw 2
    if !s.c0Ok ∨ s.cCount = 0 ∨ 4 < s.cFirst + s.cCount ∨ amps < 500 ∨ 2000 < amps ∨ 255 < alert then s.respond 2
    else (limitDies amps alert s.cRange s).respond 0

/-- EVENTRING (R331): 65,536 slots, which do not fit c2[15:0], are asked for as 0 (log 18). -/
def execEventring (s : State) : Out :=
  command 6 s fun s =>
    let base := s.cw 1
    let n := if bitsOf (s.cw 2) 0 16 = 0 then 65536 else bitsOf (s.cw 2) 0 16
    let pow := (List.range 11).any fun k => n == 64 * 2 ^ k
    if !s.c0Ok ∨ base % 4096 ≠ 0 ∨ !pow ∨ 2 ^ 48 < hostBase + base + 32 * n then s.respond 2
    else (s.setPkg { s.pkg with ringBase := base, ringSlots := n, producer := 0, consumer := 0, lost := 0 }).respond 0

/-- Reserve a block of leaf indices when none is left (R334): none where the store does not acknowledge, or the
indices are spent. -/
def Pkg.takeLeaf (p : Pkg) : Option (Nat × Pkg) :=
  if p.hssNext < p.hssEnd then some (p.hssNext, { p with hssNext := p.hssNext + 1 })
  else if !p.storeAck ∨ 2 ^ 40 ≤ p.hssEnd then none
  else some (p.hssEnd, { p with hssNext := p.hssEnd + 1, hssEnd := p.hssEnd + 1024 })

/-- A digest as the six doublewords of its bytes, the first byte first. -/
def digestWords (d : BitVec 384) : List Nat := (List.range 6).map fun k => bitsOf d.toNat (64 * k) 64
/-- The partition configuration, as the words of every partition's block and its units. -/
def State.configWords (s : State) : List Nat :=
  s.parts.flatMap fun q =>
    let p := q.2
    [q.1, p.root, p.logcap, p.hcBase, p.fring, p.gqtab, p.lqtab, p.kvdesc, p.logreg, p.kvn, p.vpool, p.vcount, p.hpool, p.hcount, p.hbn,
     p.hboff, p.ep, p.supcore, p.wdog, p.age, p.spill, p.spilln, p.report] ++ p.clusters ++ p.opts
/-- The doublewords of an attestation report (R335): the digests are those of the images that booted and of the partition
configuration, the signatures the device's own (log 13). -/
def State.report_ (s : State) (leaf : Nat) : List Nat :=
  [0x0000000147463952] ++ (List.range 6).map (fun k => s.cw (k + 1)) ++ [s.dtime.toNat, bitsOf s.pkg.serial.toNat 0 64, bitsOf s.pkg.serial.toNat 64 64]
    ++ (List.range 3).flatMap (fun k => digestWords (Config.sha384 (s.pkg.images.getD k {}).bytes)) ++ digestWords (Config.configDigest s.configWords)
    ++ [leaf, 0] ++ (List.range 463).map fun k => (Config.freeWord (s.free + k)).toNat
/-- ATTEST (R334, R335). -/
def execAttest (s : State) : Out :=
  command 5 s fun s =>
    let a := s.cw 7
    if !s.c0Ok ∨ a % 4096 ≠ 0 ∨ 2 ^ 48 < hostBase + a + 4096 then s.respond 2
    else match s.pkg.takeLeaf with
      | none => s.respond 4
      | some (leaf, p) =>
        let cells := (wordCells (hostBase + a) (s.report_ leaf)).take 3988
        ({ s.setPkg p with mem := s.mem.setBytes cells, free := s.free + 463 }).respond 0

/-! ## Boot (R333) -/

/-- The bytes of a public key, the first byte lowest. -/
def keyBytes {w : Nat} (k : BitVec w) : List Byte := leBytes (w / 8) k.toNat
/-- Each signature verifies with a key whose digest is fused. -/
def Image.ecdsaOk (i : Image) (keys : BitVec 384 × BitVec 384) : Bool :=
  Config.sha384 (keyBytes i.ecdsaKey) == keys.1 && Config.ecdsaVerifies i.ecdsaKey i.bytes i.ecdsaSig
def Image.hssOk (i : Image) (keys : BitVec 384 × BitVec 384) : Bool :=
  Config.sha384 (keyBytes i.hssKey) == keys.2 && Config.hssVerifies i.hssKey i.bytes i.hssSig
/-- What the verification of one image answers under the fused digests and the fused version: 0, or the boot status. -/
def Image.verify (i : Image) (keys : BitVec 384 × BitVec 384) (fused : Nat) : Nat :=
  if !i.wellFormed then 4 else if !i.ecdsaOk keys then 1 else if !i.hssOk keys then 2
  else if i.version < fused then 3 else 0
/-- The first image that fails decides. -/
def bootStatusOf (keys : BitVec 384 × BitVec 384) (fused : Nat) : List Image → Nat
  | [] => 0
  | i :: r => if i.verify keys fused = 0 then bootStatusOf keys fused r else i.verify keys fused
/-- BOOT (R333): stage one, stage two and the management firmware are verified in order; any failure stops boot. -/
def execBoot (s : State) : Out :=
  if s.pkg.booted then .next s
  else
    let st := bootStatusOf s.pkg.fusedKeys s.pkg.fusedVersion s.pkg.images
    if st ≠ 0 then .next (s.setPkg { s.pkg with bootStatus := st })
    else .next ((s.setPkg { s.pkg with booted := true }).at_ (waveCycles - s.now % waveCycles) .waveBoundary)

/-! ## The Landing (R318 to R320) -/

/-- Bytes laid from an address. -/
def byteCells (a : Nat) : List Byte → List (Nat × Byte)
  | [] => []
  | b :: r => (a, b) :: byteCells (a + 1) r
/-- Bytes of the host-access aperture, BAR2 (R318). -/
def apertureSize : Nat := 2 ^ 36
/-- One host write takes effect at its home and advances MSEQ. What lies outside the window or in no assigned range is discarded. -/
def State.hostStore (s : State) (off : Nat) (data : List Byte) : State :=
  (s.storeCells ((byteCells (s.pkg.aperture.toNat + off) data).filter fun c => assigned c.1 && decide (c.1 < s.pkg.aperture.toNat + apertureSize))).1
/-- The host's writes through an endpoint, in order: one whose place a unit under test serves waits (R223, R313), and those behind it
with it. -/
def State.hostWrites (s : State) (ep : Fin 2) : List (Nat × List Byte) → State
  | [] => if (s.pkg.hostHeld.find ep.val).isNone then s else s.setPkg { s.pkg with hostHeld := s.pkg.hostHeld.del ep.val }
  | (off, d) :: r =>
    if s.underTest (s.pkg.aperture.toNat + off) d.length then
      (s.setPkg { s.pkg with hostHeld := s.pkg.hostHeld.put ep.val ((off, d) :: r) }).at_ 16 (.hostWrite ep 0 [])
    else State.hostWrites (s.hostStore off d) ep r
/-- HOST_WRITE (R319): a write through the aperture, after those that wait at its endpoint. -/
def execHostWrite (ep : Fin 2) (off : Nat) (data : List Byte) (s : State) : Out :=
  if !s.pkg.booted then .next s
  else .next (s.hostWrites ep (s.pkg.hostHeld.getD ep.val [] ++ if data.isEmpty then [] else [(off, data)]))
/-- HOST_READ (R319): the aligned 8-byte word, read at once; under an uncorrectable error, or where nothing is served, its value is
free, and the error starts the unit's test (R328). It waits while a unit under test serves its place. -/
def execHostRead (off : Nat) (s : State) : Out :=
  if !s.pkg.booted then .next s
  else
    let a := (s.pkg.aperture.toNat + off) / 8 * 8
    let out : Bool := !s.served a || !assigned a || decide (apertureSize ≤ off)
    if !out && s.underTest a 8 then .next (s.at_ 16 (.hostRead off))
    else if (badIn s.bad a 8).isSome || out then
      let s := if out then s else s.metError (badIn s.bad a 8)
      .next { s with pkg := { s.pkg with hostData := Config.freeWord s.free }, free := s.free + 1 }
    else .next (s.setPkg { s.pkg with hostData := BitVec.ofNat 64 (s.loadLE a 8) })
/-- APERTURE_BASE_WRITE (R318): a multiple of 64 GiB. -/
def execApertureBaseWrite (v : W64) (s : State) : Out :=
  if s.pkg.booted then .next (s.setPkg { s.pkg with aperture := v &&& ~~~(BitVec.ofNat 64 (2 ^ 36 - 1)) }) else .next s

/-- The event that an operation code starts (R320, R337). -/
def opEvent (op : Nat) : Option Event :=
  if op = 1 then some .die else if op = 2 then some .clusters else if op = 3 then some .optcores else if op = 4 then some .limits
  else if op = 5 then some .attest else if op = 6 then some .eventring else if op = 0x10 then some .pcreate
  else if op = 0x11 then some .presize else if op = 0x12 then some .pretire else if op = 0x13 then some .preset
  else if op = 0x14 then some .pdestroy else if op = 0x15 then some .ptune else none

/-- REGISTER_WRITE (R318, R320, R331): a register of BAR0, whose 64 MiB the offset counts, or behind them a word of the MSI-X table of
an endpoint in BAR4, 16 KiB each (log 64). A doorbell write starts the command; while the doorbell is 1 it is
discarded. -/
def execRegisterWrite (off : Nat) (v : W64) (s : State) : Out :=
  let p := s.pkg
  if !p.booted then .next s
  else if off = 8 then execApertureBaseWrite v s
  else if 0x1000 ≤ off ∧ off < 0x1040 then
    .next (if p.doorbell then s else s.setPkg { p with cmd := p.cmd.set ((off - 0x1000) / 8 % 8) v (by omega) })
  else if off = 0x1040 then
    if p.doorbell ∨ v ≠ 1 then .next s
    else
      let s := s.setPkg { p with doorbell := true }
      match opEvent s.cOp with
      | some e => .next (s.at_ 0 e)
      | none => .next (s.respond 2)
  else if off = 0x10C8 then .next (s.setPkg { p with consumer := v })
  else if 0x100000 ≤ off ∧ off < 0x108000 then
    .next (if off % 0x1000 < 0x80 then s.at_ 0 (.launchDoorbell ((off - 0x100000) / 0x1000) (Fin.ofNat 16 (off % 0x1000 / 8)) v) else s)
  else if off = 0 ∨ off = 0x10C0 ∨ off = 0x10D0 ∨ (0x1080 ≤ off ∧ off < 0x10C0) then .next s
  else if off < 0x4000000 then .next (s.setPkg { p with bar := p.bar.put off v })
  else if off < 0x4008000 then .next (s.setPkg { p with bar4 := p.bar4.put (off - 0x4000000) v })
  else .next s

/-- What the host reads in BAR0 (R318, R320, R331, R333). -/
def State.bar0 (s : State) (off : Nat) : W64 :=
  let p := s.pkg
  if off = 0 then BitVec.ofNat 64 p.bootStatus
  else if !p.booted then 0
  else if off = 8 then p.aperture
  else if 0x1000 ≤ off ∧ off < 0x1040 then p.cmd.get (Fin.ofNat 8 ((off - 0x1000) / 8))
  else if off = 0x1040 then (if p.doorbell then 1 else 0)
  else if 0x1080 ≤ off ∧ off < 0x10C0 then p.resp.get (Fin.ofNat 8 ((off - 0x1080) / 8))
  else if off = 0x10C0 then p.producer
  else if off = 0x10C8 then p.consumer
  else if off = 0x10D0 then p.lost
  else p.bar.getD off 0

/-- What the host reads in BAR4 of an endpoint (R318): its MSI-X table as written; no bit is pending (log 64). -/
def State.bar4 (s : State) (ep : Fin 2) (off : Nat) : W64 := s.pkg.bar4.getD (0x4000 * ep.val + off) 0

/-- ENDPOINT_LINK_TRAINING (R318): at ×16 or ×8, at 128 GT/s or a lower rate. -/
def execEndpointLinkTraining (ep : Fin 2) (x16 : Bool) (rate : Nat) (s : State) : Out :=
  if 1 ≤ rate ∧ rate ≤ 128 then .next (s.setPkg { s.pkg with links := s.pkg.links.put ep.val (x16, rate) }) else .next s

end Sys2Proof.Machine
end

