-- ==== Sys2Proof/Machine/Queues.lean ====
section
/-! DEFINITION. Gradient queues (R305 to R311, R313). -/

namespace Sys2Proof.Machine

/-- An entry of the queue table (R305). -/
structure GQueue where
  valid : Bool
  fmt : Nat
  recv : Nat
  hi : Nat
  lo : Nat
  ring : Nat
  slots : Nat
  occ : Nat
  head : Nat
  w : Nat
deriving DecidableEq, Repr

def Part.gqPa (p : Part) (q : Nat) : Nat := p.gqtab + 64 * q
def State.gq (s : State) (part q : Nat) : GQueue :=
  let a := (s.part part).gqPa q
  let d (k : Nat) := s.mem.readLE (a + 8 * k) 8
  ⟨bitsOf (d 0) 63 1 == 1, bitsOf (d 0) 48 3, bitsOf (d 0) 32 16, bitsOf (d 0) 16 16, bitsOf (d 0) 0 16, bitsOf (d 1) 0 56,
    bitsOf (d 2) 0 16, bitsOf (d 3) 32 16, bitsOf (d 3) 16 16, bitsOf (d 3) 0 16⟩
/-- The hardware keeps d3 (R305). -/
def State.gqSet (s : State) (part q occ head w : Nat) : State :=
  { s with mem := s.mem.setBytes (leCells ((s.part part).gqPa q + 24) 8 (occ % 65536 * 2 ^ 32 + head % 65536 * 2 ^ 16 + w % 65536)) }

/-- Bytes of a slot (R306). -/
def gqSlot : Nat := 1088
/-- The bytes of a record (R306): header, then the elements from byte 64. -/
def recordBytes (h : W64) (data : Nat) : List Byte := leBytes 64 h.toNat ++ leBytes 1024 data

/-- Locate a slot of a ring (R305, R306): pages with no kind bit. -/
def State.slotPieces (s : State) (part : Nat) (g : GQueue) (slot : Nat) : Except EFault (List EPiece × State) :=
  (s.engPieces part { r := true, w := true } (runsOf (bytesFrom (g.ring + gqSlot * slot) gqSlot))).bind fun (ps, s') =>
    match ps.find? fun p => match p.place with | some (_, .plain) => false | _ => true with
    | some p => .error ⟨some (if p.place.isNone then .memerr else .access), p.va, s', none⟩
    | none => .ok (ps, s')

/-- A unit under test serves a queue's entry: its steps wait (R313). -/
def State.queueHeld (s : State) (part q : Nat) : Bool := s.underTest ((s.part part).gqPa q) 64

/-- The push step at the home for a task (R308); a write that meets a failing granule is reported as its own store's (R255, R326). -/
def State.pushStep (s : State) (part q : Nat) (t : Task) (h : W64) (data : Nat) : Except EFault State :=
  let g := s.gq part q
  let slot := (g.head + g.occ) % g.slots
  (s.slotPieces part g slot).map fun (ps, s1) =>
    let bytes := (recordBytes h data).zipIdx.map fun b => (g.ring + gqSlot * slot + b.2, b.1)
    let r := s1.storeCells (engCells (fun _ => true) ps bytes)
    let s2 := if r.2 then
        (r.1.failTask t.tid false).deliver (s.part part).supcore (coreMsg t.core 6 (faultPayload 0x0D 0xFF t.core 0))
      else r.1
    s2.gqSet part q (g.occ + 1) g.head (g.w - 1)

/-- The pop step at the home (R309): header, elements, and the state; a slot that fails leaves the record. -/
def State.popStep (s : State) (part q : Nat) : Except EFault (W64 × Nat × State) :=
  let g := s.gq part q
  (s.slotPieces part g g.head).bind fun (ps, s1) =>
    let d := s1.engRead ps
    match d.find? fun b => b.2.isNone with
    | some b => .error ⟨some .memerr, b.1 / 64 * 64, s1.engMet ps, none⟩
    | none =>
      let n := ofBytes (d.map fun b => b.2.getD 0)
      .ok (BitVec.ofNat 64 n, bitsOf n 512 8192, s1.gqSet part q (g.occ - 1) ((g.head + 1) % g.slots) (g.w + 1))

/-- The four destinations of a pop. -/
def popRegs (vb data : Nat) : List (Reg × VReg) :=
  (List.range 4).map fun j => (Fin.ofNat 32 (vb + j), BitVec.ofNat 2048 (data / 2 ^ (2048 * j)))

/-- The task parked longest as a pusher, or as a popper, of a queue. -/
def State.pusher (s : State) (part q : Nat) : Option Task :=
  oldest (fun t => match t.run with | .parked (.window p k _ _) => p == part && k == q | _ => false) s.allTasks
def State.popper (s : State) (part q : Nat) : Option Task :=
  oldest (fun t => match t.run with | .parked (.empty p k _) => p == part && k == q | _ => false) s.allTasks

/-- A parked task's step has failed: the task wakes to its trap, or stays parked while a unit under test serves the ring. -/
def State.stepFault (s : State) (t : Task) (e : EFault) : State :=
  match e.cause with
  | some c => e.s.wakeTask t.tid (.trap c (BitVec.ofNat 64 e.va))
  | none => s
/-- The pusher parked longest on a queue takes its step (R308, R309). -/
def State.servePusher (s : State) (part q : Nat) : State :=
  match s.pusher part q with
  | none => s
  | some t => match t.run with
    | .parked (.window _ _ h d) => match s.pushStep part q t h d with
      | .ok s' => s'.wakeTask t.tid (.value 0)
      | .error e => s.stepFault t e
    | _ => s
/-- The popper parked longest on a queue takes its step (R309). -/
def State.servePopper (s : State) (part q : Nat) : State :=
  match s.popper part q with
  | none => s
  | some t => match t.run with
    | .parked (.empty _ _ vb) => match s.popStep part q with
      | .ok (h, d, s') =>
        (s'.modTask t.tid fun t => (popRegs vb d).foldl (fun t r => t.vw r.1 r.2) t).wakeTask t.tid (.value h)
      | .error e => s.stepFault t e
    | _ => s
/-- The parked tasks of a queue take the steps that its entry allows, each in the order in which it parked (R308, R309); the second
number bounds the steps. -/
def serveQueue (part q : Nat) : Nat → State → State
  | 0, s => s
  | n + 1, s =>
    let g := s.gq part q
    if g.w ≠ 0 ∧ (s.pusher part q).isSome then serveQueue part q n (s.servePusher part q)
    else if g.occ ≠ 0 ∧ (s.popper part q).isSome then serveQueue part q n (s.servePopper part q)
    else s
/-- A queue that a task is parked on. -/
def Task.queue? (t : Task) : Option (Nat × Nat) :=
  match t.run with
  | .parked (.window p q _ _) => some (p, q)
  | .parked (.empty p q _) => some (p, q)
  | _ => none
/-- A store may have changed a queue's entry (R305): its parked tasks take their steps. The pushers of a queue whose receiver has been
retired issue again (R313). -/
def State.tendQueues (s : State) : State :=
  let s := s.allTasks.foldl (fun s t => match t.run with
    | .parked (.window p q _ _) => if (s.part p).gone.contains (s.gq p q).recv then s.wakeTask t.tid .retry else s
    | _ => s) s
  ((s.allTasks.filterMap (·.queue?)).eraseDups).foldl
    (fun s k => if s.queueHeld k.1 k.2 then s else serveQueue k.1 k.2 s.allTasks.length s) s

/-- Latency of a queue step at its entry's home. -/
def gqLatency (s : State) (q : Nat) : Nat := s.pathLatency s.t.core ((s.part s.t.part).gqPa q) + 8

/-- The first non-finite element among c elements of width w (R308): its index and value. -/
def firstBadEl (f : Ft) (data : Nat) : Nat → Nat → Option (Nat × FV)
  | _, 0 => none
  | k, n + 1 =>
    let v := decodeEl f (data / 256 ^ (f.width * k) % 256 ^ f.width)
    if v.nonFinite then some (k, v) else firstBadEl f data (k + 1) n

/-- A queue step of the task that issues it (R308, R309): its trap, or the wait for a unit under test (R313). -/
def orStep {α : Type} (s : State) (r : Except EFault α) (k : α → Out) : Out :=
  match r with
  | .ok x => k x
  | .error e => match e.cause with
    | some c => raise c (BitVec.ofNat 64 e.va) (if s.t.seqEmpty then e.s else s)
    | none => stall s

/-- An instruction reads a queue's entry: it waits while a unit under test serves it (R313), and raises MEMERR with the queue's number for
one under an uncorrectable error (DESIGN CHOICE, log 70). -/
def queueRead (q : W64) (s : State) (k : State → Out) : Out :=
  if 63 < q.toNat then k s
  else if s.queueHeld s.t.part q.toNat then stall s
  else match badIn s.bad ((s.part s.t.part).gqPa q.toNat) 64 with
    | some u => raise .memerr q (if s.t.seqEmpty then s.metError (some u) else s)
    | none => k s

/-- GQPUSH (R308, R311). -/
def execGqpush (vr ra rb : Reg) (s : State) : Out :=
  gate (.gqpush vr ra rb) s fun s => noCompute 0 s fun s => onWake s (fun _ => fin s) <| queueRead (s.xr ra) s fun s =>
    let part := s.t.part
    let q := s.xr ra
    let h := s.xr rb
    let g := s.gq part q.toNat
    if 63 < q.toNat then raise .gqtype q s
    else if !g.valid then raise .gqtype q s
    else if !s.inPart part g.recv then raise .access (BitVec.ofNat 64 g.recv) s
    else
      let f := Ft.ofCode g.fmt
      let tid := bitsOf h.toNat 48 16
      let c := bitsOf h.toNat 0 16
      let n := (c * f.width + 255) / 256
      if tid < g.lo ∨ g.hi < tid ∨ c = 0 ∨ 1024 / f.width < c then raise .gqtype q s
      else if 32 < vr.val + n then raise .illegal h s
      else
        let regs := (List.range n).map (vr.val + ·)
        match firstOver s.rd.allotn regs with
        | some r => raise .allot (BitVec.ofNat 64 r) s
        | none =>
          if seqNames s regs then stallSeq s
          else
            let data := runValue s vr.val n % 256 ^ (c * f.width)
            match if s.rd.st.nft && f.isFloat then firstBadEl f data 0 c else none with
            | some (k, v) =>
              let r := nfRecord 2 s.t.wordAddr.toNat s.t g.fmt g.fmt v (k * f.width % 256) 0 0 0
              raise .nonfinite r[0] (if s.t.seqEmpty then { s with t := { s.t with nfRec := r } } else s)
            | none => released s fun s =>
              if g.w = 0 then park (.window part q.toNat h data) s
              else orStep s (s.pushStep part q.toNat s.t h data) fun s' => finAfter (gqLatency s q.toNat) (s'.servePopper part q.toNat)

/-- GQPOP (R309, R311). -/
def execGqpop (rd ra vb : Reg) (s : State) : Out :=
  gate (.gqpop rd ra vb) s fun s => noCompute 0 s fun s => onWake s (fun h => finX rd h s) <| acquired s fun s => queueRead (s.xr ra) s fun s =>
    let part := s.t.part
    let q := s.xr ra
    let g := s.gq part q.toNat
    if 63 < q.toNat ∨ !g.valid ∨ s.t.core ≠ g.recv then raise .gqtype q s
    else if 28 < vb.val then raise .illegal s.tword s
    else
      let regs := (List.range 4).map (vb.val + ·)
      match firstOver s.rd.allotn regs with
      | some r => raise .allot (BitVec.ofNat 64 r) s
      | none =>
        if seqNames s regs then stallSeq s
        else if g.occ = 0 then park (.empty part q.toNat vb.val) s
        else orStep s (s.popStep part q.toNat) fun (h, d, s') => answer (gqLatency s q.toNat) (some rd) h (popRegs vb.val d) (s'.servePusher part q.toNat)

/-- GQWIN (R310). -/
def execGqwin (rd ra : Reg) (s : State) : Out :=
  gate (.gqwin rd ra) s fun s => noCompute 0 s fun s => acquired s fun s => queueRead (s.xr ra) s fun s =>
    let q := s.xr ra
    let g := s.gq s.t.part q.toNat
    if 63 < q.toNat ∨ !g.valid then raise .gqtype q s
    else finAfter (gqLatency s q.toNat) (s.xw rd (BitVec.ofNat 64 (g.occ * 2 ^ 32 + g.w)))

end Sys2Proof.Machine
end

