-- ==== Sys2Proof/Machine/Retire.lean ====
section
/-! DEFINITION. DONE (R20), the RESUME message (R66, R194), user-level interrupts (R79), and the register storage of a core
(R26, R27). -/

namespace Sys2Proof.Machine

/-! ## DONE (R20) -/

/-- Entries of a core whose condition is met launch now that a task has left (R9). -/
def launchMet (core : Nat) : List (Nat × WEntry) → State → State
  | [], s => s
  | (slot, e) :: r, s => launchMet core r (if e.met then s.at_ 0 (.entryLaunch core (Fin.ofNat 16 slot)) else s)

/-- The focused task is gone (R20): its remote writes are performed (R247), it leaves its groups, its lock, its banks; what waited for a place goes on; the
entry it evaluated completes (R94); its failure record joins its launch's status (R348), whose barriers and rounds it
no longer takes part in (R356). -/
def State.retire (s : State) : State :=
  let s := s.flush 0 (2 ^ 48)
  let t := s.t
  let s := if isCompute t.core then s.ungroupAll (clusterOf t.core) t.tid else s
  let k := s.core t.core
  let k := { k.disown t.tid with phys := k.phys.filter fun p => p.1 != t.tid, hvTask := if k.hvTask = t.tid then 0 else k.hvTask }
  let s := (s.setCore t.core k).wdogAnew t.part
  let s := { s with
    t := { last := .retired }
    old := none
    locks := s.locks.filter fun l => l.2.2 != t.tid
    lockQueue := s.lockQueue.filter fun l => l.2.2 != t.tid
    launches := match s.launches.find t.launch with
      | some l => s.launches.put t.launch { l with status := l.status ||| t.failRecord.toNat }
      | none => s.launches }
  let s := leaderGone t.tid s.allTasks s
  let s := launchMet t.core k.table s
  let s := match t.evalOf with | some (q, i) => s.at_ 1 (.evaluationCompletion q i) | none => s
  let s := if t.launch = 0 then s else (s.checkLaunch t.launch t.core).at_ 0 (.launchCompletion t.launch)
  s.kickPlace t.part

/-- DONE (R20): the deferred HANDLE report, then the matrix report; it waits until the sequencer has drained, every load
has delivered (a compute phase's loads in flight deliver with it) and every write and command is accepted; then the task
retires. An A word paired with it has executed before (execDonePair). -/
def execDone (s : State) : Out :=
  gate .done s fun s => takeHandle s fun s => takeMatrix s fun s => drained s fun s =>
    if !s.t.answers.isEmpty ∨ !s.t.handleOps.isEmpty ∨ s.ownHeld then stall s else .next ({ s with t := s.t.deliverLoads } : State).retire

/-! ## RESUME (R66, R74, R194) -/

/-- A task parked by HALT or by a double trap goes on. -/
def State.resumeTask (s : State) (core taskid : Nat) : State :=
  match (s.tasksOn core).find? fun t => t.tid % 2 ^ 32 == taskid with
  | none => s
  | some t =>
    match t.run with
    | .parked .halt => s.wakeTask t.tid (.value 0)
    | .parked .doubleTrap => (s.setTask { t.continueAt with run := .ready, since := s.stamp, wake := none }).bump
    | _ => s
/-- A nonzero tag with no task resumes the Ferry for the view of that number (R279). -/
def resumeFerries (core id : Nat) : List Nat → State → State
  | [], s => s
  | p :: r, s => resumeFerries core id r ((s.resumeFerry p core id).getD s)

/-- RESUME_MESSAGE (R66, R194): the named task goes on, and a tag resumes the faulted engine command; what matches
nothing is discarded. -/
def execResumeMessage (core : Nat) (payload : BitVec 48) (s : State) : Out :=
  let taskid := bitsOf payload.toNat 0 32
  let tag := bitsOf payload.toNat 32 16
  let s := s.resumeTask core taskid
  if tag = 0 then .next s
  else if taskid = 0 then .next (resumeFerries core tag s.parts.keys s)
  else match s.resumeCopy core tag with
    | some s' => .next s'
    | none => .next ((s.resumeCE core tag).getD s)

/-! ## User-level interrupts (R79) -/

/-- The conditions of R79, at a boundary that R58 does not defer; a DONE whose pair's A word has issued is no boundary
(R20). -/
def State.userPending (s : State) : Bool :=
  let t := s.t
  t.wake.isNone && !t.doneA && t.st.uie && !t.st.uia && !t.st.s && t.st.ph == .n && t.slot.isNone && t.seq.cap.isNone && (s.core t.core).mailbox.any fun m => selects t.uiMask (msgKind m)
/-- USER_INTERRUPT (R79): at T level, 8 cycles. What older words wait for from their homes is written before the shadow is
taken, and what V waits for at issue is withdrawn (log 49). -/
def execUserInterrupt (s : State) : Out :=
  if s.userPending then
    let s := s.withdraw
    let t := s.t.landAll
    .next { s with t := { t with uiepc := t.pc, uiShadow := t.high, st := { t.st with uia := true }, pc := t.uivec, last := .moved,
                                 wake := none, hold := s.tclock + 8 } }
  else .next s

/-! ## Register storage (R26, R27) -/

/-- Physical vector registers of a core (R26). -/
def physRegs : Nat := 128
/-- A register whose LIVEM bit is clear. -/
def State.deadReg (s : State) (r : Nat × Nat) : Bool := match s.task r.1 with | some t => !t.livem.getLsbD r.2 | none => true
/-- A register of the running task of the core. -/
def State.runningReg (s : State) (r : Nat × Nat) : Bool := match s.task r.1 with | some t => t.run == .running | none => false
/-- The last of a list that passes, else none. -/
def lastThat {α : Type} (p : α → Bool) (l : List α) : Option α := (l.filter p).getLast?
/-- The registers used last, which the unit at issue may name: at most seven (R219, R129). -/
def lastUsed : Nat := 8
/-- The victim (R27): a dead register, which one the core leaves open, but none of those used last, which a unit that waits for
another fill may need (log 12); else the least recently used of a task that does not run; else of the running task. The list stands
in order of last use, the latest first. -/
def State.physVictim (s : State) (l : List (Nat × Nat)) : Option (Nat × Nat) :=
  let dead := (l.drop lastUsed).filter s.deadReg
  if dead.isEmpty then
    match lastThat (fun r => !s.runningReg r) l with
    | some r => some r
    | none => l.getLast?
  else dead[Config.evictPick s.free % dead.length]?
/-- Discard a register: a dead one reads zero from now on (R27). -/
def State.discard (s : State) (r : Nat × Nat) : State :=
  if s.deadReg r then s.modTask r.1 fun t => { t with v := t.v.set (Fin.ofNat 32 r.2) 0 } else s

/-- REGISTER_FILL (R26): the register of the task in focus comes into the core's storage after 20 cycles; where the
storage is full a victim leaves. A register already there counts as used. -/
def execRegisterFill (n : Reg) (s : State) : Out :=
  if s.t.tid = 0 then .next s
  else
    let k := s.core s.t.core
    let me := (s.t.tid, n.val)
    if k.phys.contains me then .next (s.setCore s.t.core { k with phys := me :: k.phys.erase me })
    else
      let s := { s with t := { s.t with hold := s.tclock + 20 } }
      if k.phys.length < physRegs then .next (s.setCore s.t.core { k with phys := me :: k.phys })
      else match s.physVictim k.phys with
        | none => .next s
        | some r =>
          let s := s.discard r
          .next { s.setCore s.t.core { s.core s.t.core with phys := me :: k.phys.erase r } with free := s.free + 1 }

end Sys2Proof.Machine
end

