-- ==== Sys2Proof/Machine/Scalar.lean ====
section
/-! DEFINITION. Scalar arithmetic (R50 to R53): NOP, ANOP, the 24 ALU words, the immediate words, LI, LIS, LEA. -/

namespace Sys2Proof.Machine

/-- Bits 127:64 of the signed product (R50). -/
def mulHigh (a b : W64) : W64 := (a.signExtend 128 * b.signExtend 128).extractLsb' 64 64
/-- Bits 127:64 of the unsigned product (R50). -/
def mulHighU (a b : W64) : W64 := (a.setWidth 128 * b.setWidth 128).extractLsb' 64 64
/-- Signed quotient toward zero (R50, R51). -/
def divS (a b : W64) : W64 := if b = 0 then BitVec.allOnes 64 else a.sdiv b
/-- Unsigned quotient (R50, R51). -/
def divU (a b : W64) : W64 := if b = 0 then BitVec.allOnes 64 else a / b
/-- Signed remainder, with the sign of a (R50, R51). -/
def remS (a b : W64) : W64 := if b = 0 then a else a.srem b
/-- Unsigned remainder (R50, R51). -/
def remU (a b : W64) : W64 := if b = 0 then a else a % b
/-- Leading zero bits; 64 for 0 (R50). -/
def clz64 (a : W64) : W64 := if a = 0 then 64 else BitVec.ofNat 64 (63 - a.toNat.log2)
/-- Trailing zero bits; 64 for 0 (R50). -/
def ctz64 (a : W64) : W64 := if a = 0 then 64 else BitVec.ofNat 64 (a &&& -a).toNat.log2
/-- Number of 1 bits (R50). -/
def popc64 (a : W64) : W64 := BitVec.ofNat 64 (popCount 64 a.toNat)

/-- An ALU word (R50): the checks of R33, then XWrite(rd, v). -/
def alu (i : Instr) (rd : Reg) (v : W64) (s : State) : Out := gate i s (finX rd v)

/-- NOP (R64). -/
def execNop (s : State) : Out := gate .nop s fin
/-- ANOP (R38). -/
def execAnop (s : State) : Out := gate .anop s fin

/-- ADD (R50). -/
def execAdd (rd ra rb : Reg) (s : State) : Out := alu (.add rd ra rb) rd ((s.xr ra) + (s.xr rb)) s
/-- SUB (R50). -/
def execSub (rd ra rb : Reg) (s : State) : Out := alu (.sub rd ra rb) rd ((s.xr ra) - (s.xr rb)) s
/-- AND (R50). -/
def execAnd (rd ra rb : Reg) (s : State) : Out := alu (.and rd ra rb) rd ((s.xr ra) &&& (s.xr rb)) s
/-- OR (R50). -/
def execOr (rd ra rb : Reg) (s : State) : Out := alu (.or rd ra rb) rd ((s.xr ra) ||| (s.xr rb)) s
/-- XOR (R50). -/
def execXor (rd ra rb : Reg) (s : State) : Out := alu (.xor rd ra rb) rd ((s.xr ra) ^^^ (s.xr rb)) s
/-- SLL (R50). -/
def execSll (rd ra rb : Reg) (s : State) : Out := alu (.sll rd ra rb) rd ((s.xr ra) <<< ((s.xr rb).toNat % 64)) s
/-- SRL (R50). -/
def execSrl (rd ra rb : Reg) (s : State) : Out := alu (.srl rd ra rb) rd ((s.xr ra) >>> ((s.xr rb).toNat % 64)) s
/-- SRA (R50). -/
def execSra (rd ra rb : Reg) (s : State) : Out := alu (.sra rd ra rb) rd ((s.xr ra).sshiftRight ((s.xr rb).toNat % 64)) s
/-- MUL (R50). -/
def execMul (rd ra rb : Reg) (s : State) : Out := alu (.mul rd ra rb) rd ((s.xr ra) * (s.xr rb)) s
/-- MULH (R50). -/
def execMulh (rd ra rb : Reg) (s : State) : Out := alu (.mulh rd ra rb) rd (mulHigh (s.xr ra) (s.xr rb)) s
/-- MULHU (R50). -/
def execMulhu (rd ra rb : Reg) (s : State) : Out := alu (.mulhu rd ra rb) rd (mulHighU (s.xr ra) (s.xr rb)) s
/-- DIV (R50). -/
def execDiv (rd ra rb : Reg) (s : State) : Out := alu (.div rd ra rb) rd (divS (s.xr ra) (s.xr rb)) s
/-- DIVU (R50). -/
def execDivu (rd ra rb : Reg) (s : State) : Out := alu (.divu rd ra rb) rd (divU (s.xr ra) (s.xr rb)) s
/-- REM (R50). -/
def execRem (rd ra rb : Reg) (s : State) : Out := alu (.rem rd ra rb) rd (remS (s.xr ra) (s.xr rb)) s
/-- REMU (R50). -/
def execRemu (rd ra rb : Reg) (s : State) : Out := alu (.remu rd ra rb) rd (remU (s.xr ra) (s.xr rb)) s
/-- MIN (R50). -/
def execMin (rd ra rb : Reg) (s : State) : Out := alu (.min rd ra rb) rd (if (s.xr ra).slt (s.xr rb) then (s.xr ra) else (s.xr rb)) s
/-- MAX (R50). -/
def execMax (rd ra rb : Reg) (s : State) : Out := alu (.max rd ra rb) rd (if (s.xr ra).slt (s.xr rb) then (s.xr rb) else (s.xr ra)) s
/-- MINU (R50). -/
def execMinu (rd ra rb : Reg) (s : State) : Out := alu (.minu rd ra rb) rd (if (s.xr ra).ult (s.xr rb) then (s.xr ra) else (s.xr rb)) s
/-- MAXU (R50). -/
def execMaxu (rd ra rb : Reg) (s : State) : Out := alu (.maxu rd ra rb) rd (if (s.xr ra).ult (s.xr rb) then (s.xr rb) else (s.xr ra)) s
/-- SLT (R50). -/
def execSlt (rd ra rb : Reg) (s : State) : Out := alu (.slt rd ra rb) rd (if (s.xr ra).slt (s.xr rb) then 1 else 0) s
/-- SLTU (R50). -/
def execSltu (rd ra rb : Reg) (s : State) : Out := alu (.sltu rd ra rb) rd (if (s.xr ra).ult (s.xr rb) then 1 else 0) s
/-- CLZ (R50). -/
def execClz (rd ra : Reg) (s : State) : Out := alu (.clz rd ra) rd (clz64 (s.xr ra)) s
/-- CTZ (R50). -/
def execCtz (rd ra : Reg) (s : State) : Out := alu (.ctz rd ra) rd (ctz64 (s.xr ra)) s
/-- POPC (R50). -/
def execPopc (rd ra : Reg) (s : State) : Out := alu (.popc rd ra) rd (popc64 (s.xr ra)) s
/-- ADDI (R52). -/
def execAddi (rd ra : Reg) (imm : BitVec 14) (s : State) : Out := alu (.addi rd ra imm) rd ((s.xr ra) + imm14 imm) s
/-- ANDI (R52). -/
def execAndi (rd ra : Reg) (imm : BitVec 14) (s : State) : Out := alu (.andi rd ra imm) rd ((s.xr ra) &&& imm14 imm) s
/-- ORI (R52). -/
def execOri (rd ra : Reg) (imm : BitVec 14) (s : State) : Out := alu (.ori rd ra imm) rd ((s.xr ra) ||| imm14 imm) s
/-- XORI (R52). -/
def execXori (rd ra : Reg) (imm : BitVec 14) (s : State) : Out := alu (.xori rd ra imm) rd ((s.xr ra) ^^^ imm14 imm) s
/-- SLTI (R52). -/
def execSlti (rd ra : Reg) (imm : BitVec 14) (s : State) : Out := alu (.slti rd ra imm) rd (if (s.xr ra).slt (imm14 imm) then 1 else 0) s
/-- SLLI (R52). -/
def execSlli (rd ra : Reg) (imm : BitVec 6) (s : State) : Out := alu (.slli rd ra imm) rd ((s.xr ra) <<< imm.toNat) s
/-- SRLI (R52). -/
def execSrli (rd ra : Reg) (imm : BitVec 6) (s : State) : Out := alu (.srli rd ra imm) rd ((s.xr ra) >>> imm.toNat) s
/-- SRAI (R52). -/
def execSrai (rd ra : Reg) (imm : BitVec 6) (s : State) : Out := alu (.srai rd ra imm) rd ((s.xr ra).sshiftRight imm.toNat) s
/-- LI (R53). -/
def execLi (rd : Reg) (imm : BitVec 14) (s : State) : Out := alu (.li rd imm) rd (imm14 imm) s
/-- LIS (R53). -/
def execLis (rd ra : Reg) (imm : BitVec 14) (s : State) : Out :=
  alu (.lis rd ra imm) rd ((s.xr ra) <<< 14 ||| uimm14 imm) s
/-- LEA (R53): from the address of the LEA word. -/
def execLea (rd : Reg) (imm : BitVec 14) (s : State) : Out := alu (.lea rd imm) rd (pcRel imm s) s

end Sys2Proof.Machine
end

