-- ==== Sys2Proof/Machine/Dispatch.lean ====
section
/-! DEFINITION. The dispatch: one arm per constructor of Instr, each one direct call of that instruction's meaning. -/

namespace Sys2Proof.Machine

def exec (i : Instr) (s : State) : Host.Outcome State Fault Refusal :=
  match i with
  | .nop => Sys2Proof.Machine.execNop s
  | .trap ra => Sys2Proof.Machine.execTrap ra s
  | .eret => Sys2Proof.Machine.execEret s
  | .halt => Sys2Proof.Machine.execHalt s
  | .uret => Sys2Proof.Machine.execUret s
  | .selftest rd ra => Sys2Proof.Machine.execSelftest rd ra s
  | .resume ra rb => Sys2Proof.Machine.execResume ra rb s
  | .mfsr rd sr => Sys2Proof.Machine.execMfsr rd sr s
  | .mtsr ra sr => Sys2Proof.Machine.execMtsr ra sr s
  | .j off => Sys2Proof.Machine.execJ off s
  | .jl off => Sys2Proof.Machine.execJl off s
  | .jr ra => Sys2Proof.Machine.execJr ra s
  | .jlr rd ra => Sys2Proof.Machine.execJlr rd ra s
  | .beq ra rb off => Sys2Proof.Machine.execBeq ra rb off s
  | .bne ra rb off => Sys2Proof.Machine.execBne ra rb off s
  | .blt ra rb off => Sys2Proof.Machine.execBlt ra rb off s
  | .bge ra rb off => Sys2Proof.Machine.execBge ra rb off s
  | .bltu ra rb off => Sys2Proof.Machine.execBltu ra rb off s
  | .bgeu ra rb off => Sys2Proof.Machine.execBgeu ra rb off s
  | .li rd imm => Sys2Proof.Machine.execLi rd imm s
  | .lis rd ra imm => Sys2Proof.Machine.execLis rd ra imm s
  | .lea rd imm => Sys2Proof.Machine.execLea rd imm s
  | .ld rd ra sz sc imm => Sys2Proof.Machine.execLd rd ra sz sc imm s
  | .lds rd ra sz sc imm => Sys2Proof.Machine.execLds rd ra sz sc imm s
  | .st rd ra sz sc imm => Sys2Proof.Machine.execSt rd ra sz sc imm s
  | .ldv rd ra rb sc => Sys2Proof.Machine.execLdv rd ra rb sc s
  | .ldvl rd ra sc => Sys2Proof.Machine.execLdvl rd ra sc s
  | .stv rd ra rb sc => Sys2Proof.Machine.execStv rd ra rb sc s
  | .reclaim rd ra rb sc => Sys2Proof.Machine.execReclaim rd ra rb sc s
  | .ldf rd ra sc => Sys2Proof.Machine.execLdf rd ra sc s
  | .ldfe rd ra sc => Sys2Proof.Machine.execLdfe rd ra sc s
  | .stf ra rb sc => Sys2Proof.Machine.execStf ra rb sc s
  | .ste ra sc => Sys2Proof.Machine.execSte ra sc s
  | .aadd rd ra rb dbl sc => Sys2Proof.Machine.execAadd rd ra rb dbl sc s
  | .aand rd ra rb dbl sc => Sys2Proof.Machine.execAand rd ra rb dbl sc s
  | .aor rd ra rb dbl sc => Sys2Proof.Machine.execAor rd ra rb dbl sc s
  | .axor rd ra rb dbl sc => Sys2Proof.Machine.execAxor rd ra rb dbl sc s
  | .amin rd ra rb dbl sc => Sys2Proof.Machine.execAmin rd ra rb dbl sc s
  | .amax rd ra rb dbl sc => Sys2Proof.Machine.execAmax rd ra rb dbl sc s
  | .aswap rd ra rb dbl sc => Sys2Proof.Machine.execAswap rd ra rb dbl sc s
  | .acas rd ra rb dbl sc => Sys2Proof.Machine.execAcas rd ra rb dbl sc s
  | .ldlk rd ra dbl sc => Sys2Proof.Machine.execLdlk rd ra dbl sc s
  | .stul rd ra dbl sc => Sys2Proof.Machine.execStul rd ra dbl sc s
  | .rowadd rd ra rb sc => Sys2Proof.Machine.execRowadd rd ra rb sc s
  | .rowmax rd ra rb sc => Sys2Proof.Machine.execRowmax rd ra rb sc s
  | .rowld rd ra rb sc => Sys2Proof.Machine.execRowld rd ra rb sc s
  | .rowst rd ra rb sc => Sys2Proof.Machine.execRowst rd ra rb sc s
  | .fence rd sc => Sys2Proof.Machine.execFence rd sc s
  | .vld vr ra rb pg sc => Sys2Proof.Machine.execVld vr ra rb pg sc s
  | .vst vr ra rb pg sc => Sys2Proof.Machine.execVst vr ra rb pg sc s
  | .vlds vr ra rb pg sc => Sys2Proof.Machine.execVlds vr ra rb pg sc s
  | .vsts vr ra rb pg sc => Sys2Proof.Machine.execVsts vr ra rb pg sc s
  | .vldx vr ra rb pg sc => Sys2Proof.Machine.execVldx vr ra rb pg sc s
  | .vstx vr ra rb pg sc => Sys2Proof.Machine.execVstx vr ra rb pg sc s
  | .vstq vr ra rb => Sys2Proof.Machine.execVstq vr ra rb s
  | .vldv vr ra rb pg sc pol => Sys2Proof.Machine.execVldv vr ra rb pg sc pol s
  | .hvld rd xs sc => Sys2Proof.Machine.execHvld rd xs sc s
  | .hvldB rd xs sc => Sys2Proof.Machine.execHvldB rd xs sc s
  | .hvst ra xs sc => Sys2Proof.Machine.execHvst ra xs sc s
  | .hvstB ra xs sc => Sys2Proof.Machine.execHvstB ra xs sc s
  | .hvmemst ra xs => Sys2Proof.Machine.execHvmemst ra xs s
  | .strm ra rb => Sys2Proof.Machine.execStrm ra rb s
  | .strmoff rb => Sys2Proof.Machine.execStrmoff rb s
  | .strmq rd rb => Sys2Proof.Machine.execStrmq rd rb s
  | .copy rd ra => Sys2Proof.Machine.execCopy rd ra s
  | .gather rd ra => Sys2Proof.Machine.execGather rd ra s
  | .scatter rd ra mode => Sys2Proof.Machine.execScatter rd ra mode s
  | .cstat rd ra => Sys2Proof.Machine.execCstat rd ra s
  | .sendmsg ra rb => Sys2Proof.Machine.execSendmsg ra rb s
  | .waitmsg rd ra => Sys2Proof.Machine.execWaitmsg rd ra s
  | .pollmsg rd ra => Sys2Proof.Machine.execPollmsg rd ra s
  | .uien ra => Sys2Proof.Machine.execUien ra s
  | .taskw rd ra rb => Sys2Proof.Machine.execTaskw rd ra rb s
  | .done => Sys2Proof.Machine.execDone s
  | .wrc rd ra rb n => Sys2Proof.Machine.execWrc rd ra rb n s
  | .wrcC rd ra rb n => Sys2Proof.Machine.execWrcC rd ra rb n s
  | .ctrrd rd n => Sys2Proof.Machine.execCtrrd rd n s
  | .ctrset ra n => Sys2Proof.Machine.execCtrset ra n s
  | .susp rd ra rb op => Sys2Proof.Machine.execSusp rd ra rb op s
  | .force rd ra => Sys2Proof.Machine.execForce rd ra s
  | .spark rd ra => Sys2Proof.Machine.execSpark rd ra s
  | .mkval rd ra rb => Sys2Proof.Machine.execMkval rd ra rb s
  | .peek rd ra => Sys2Proof.Machine.execPeek rd ra s
  | .keep ra => Sys2Proof.Machine.execKeep ra s
  | .drop ra => Sys2Proof.Machine.execDrop ra s
  | .budget rd ra mode => Sys2Proof.Machine.execBudget rd ra mode s
  | .gjoin rd ra => Sys2Proof.Machine.execGjoin rd ra s
  | .gleave rd ra => Sys2Proof.Machine.execGleave rd ra s
  | .gbar rd ra => Sys2Proof.Machine.execGbar rd ra s
  | .follow ra rb => Sys2Proof.Machine.execFollow ra rb s
  | .syncall rd => Sys2Proof.Machine.execSyncall rd s
  | .tree rd ra rb op => Sys2Proof.Machine.execTree rd ra rb op s
  | .phase kind => Sys2Proof.Machine.execPhase kind s
  | .sendat vr peer cyc => Sys2Proof.Machine.execSendat vr peer cyc s
  | .recvat vr peer cyc => Sys2Proof.Machine.execRecvat vr peer cyc s
  | .viewreg rd ra => Sys2Proof.Machine.execViewreg rd ra s
  | .viewdrop rd ra => Sys2Proof.Machine.execViewdrop rd ra s
  | .viewst rd ra rb => Sys2Proof.Machine.execViewst rd ra rb s
  | .kvslot rd ra rb => Sys2Proof.Machine.execKvslot rd ra rb s
  | .kvapp rd ra rb => Sys2Proof.Machine.execKvapp rd ra rb s
  | .kvtrunc rd ra rb => Sys2Proof.Machine.execKvtrunc rd ra rb s
  | .kvevict rd ra rb => Sys2Proof.Machine.execKvevict rd ra rb s
  | .rmapset ra rb => Sys2Proof.Machine.execRmapset ra rb s
  | .tlbinv ra rb => Sys2Proof.Machine.execTlbinv ra rb s
  | .gqpush vr ra rb => Sys2Proof.Machine.execGqpush vr ra rb s
  | .gqpop rd ra vr => Sys2Proof.Machine.execGqpop rd ra vr s
  | .gqwin rd ra => Sys2Proof.Machine.execGqwin rd ra s
  | .cepost rd ra => Sys2Proof.Machine.execCepost rd ra s
  | .cearb rd ra => Sys2Proof.Machine.execCearb rd ra s
  | .region rd ra => Sys2Proof.Machine.execRegion rd ra s
  | .quiet rd => Sys2Proof.Machine.execQuiet rd s
  | .allot ra hv => Sys2Proof.Machine.execAllot ra hv s
  | .live ra => Sys2Proof.Machine.execLive ra s
  | .anop => Sys2Proof.Machine.execAnop s
  | .add rd ra rb => Sys2Proof.Machine.execAdd rd ra rb s
  | .sub rd ra rb => Sys2Proof.Machine.execSub rd ra rb s
  | .and rd ra rb => Sys2Proof.Machine.execAnd rd ra rb s
  | .or rd ra rb => Sys2Proof.Machine.execOr rd ra rb s
  | .xor rd ra rb => Sys2Proof.Machine.execXor rd ra rb s
  | .sll rd ra rb => Sys2Proof.Machine.execSll rd ra rb s
  | .srl rd ra rb => Sys2Proof.Machine.execSrl rd ra rb s
  | .sra rd ra rb => Sys2Proof.Machine.execSra rd ra rb s
  | .mul rd ra rb => Sys2Proof.Machine.execMul rd ra rb s
  | .mulh rd ra rb => Sys2Proof.Machine.execMulh rd ra rb s
  | .mulhu rd ra rb => Sys2Proof.Machine.execMulhu rd ra rb s
  | .div rd ra rb => Sys2Proof.Machine.execDiv rd ra rb s
  | .divu rd ra rb => Sys2Proof.Machine.execDivu rd ra rb s
  | .rem rd ra rb => Sys2Proof.Machine.execRem rd ra rb s
  | .remu rd ra rb => Sys2Proof.Machine.execRemu rd ra rb s
  | .min rd ra rb => Sys2Proof.Machine.execMin rd ra rb s
  | .max rd ra rb => Sys2Proof.Machine.execMax rd ra rb s
  | .minu rd ra rb => Sys2Proof.Machine.execMinu rd ra rb s
  | .maxu rd ra rb => Sys2Proof.Machine.execMaxu rd ra rb s
  | .slt rd ra rb => Sys2Proof.Machine.execSlt rd ra rb s
  | .sltu rd ra rb => Sys2Proof.Machine.execSltu rd ra rb s
  | .clz rd ra => Sys2Proof.Machine.execClz rd ra s
  | .ctz rd ra => Sys2Proof.Machine.execCtz rd ra s
  | .popc rd ra => Sys2Proof.Machine.execPopc rd ra s
  | .addi rd ra imm => Sys2Proof.Machine.execAddi rd ra imm s
  | .andi rd ra imm => Sys2Proof.Machine.execAndi rd ra imm s
  | .ori rd ra imm => Sys2Proof.Machine.execOri rd ra imm s
  | .xori rd ra imm => Sys2Proof.Machine.execXori rd ra imm s
  | .slli rd ra imm => Sys2Proof.Machine.execSlli rd ra imm s
  | .srli rd ra imm => Sys2Proof.Machine.execSrli rd ra imm s
  | .srai rd ra imm => Sys2Proof.Machine.execSrai rd ra imm s
  | .slti rd ra imm => Sys2Proof.Machine.execSlti rd ra imm s
  | .vadd rd ra rb pg ft => Sys2Proof.Machine.execVadd rd ra rb pg ft s
  | .vsub rd ra rb pg ft => Sys2Proof.Machine.execVsub rd ra rb pg ft s
  | .vmul rd ra rb pg ft => Sys2Proof.Machine.execVmul rd ra rb pg ft s
  | .vmulz rd ra rb pg ft => Sys2Proof.Machine.execVmulz rd ra rb pg ft s
  | .vmin rd ra rb pg ft => Sys2Proof.Machine.execVmin rd ra rb pg ft s
  | .vmax rd ra rb pg ft => Sys2Proof.Machine.execVmax rd ra rb pg ft s
  | .vfma rd ra rb pg ft => Sys2Proof.Machine.execVfma rd ra rb pg ft s
  | .vfmaz rd ra rb pg ft => Sys2Proof.Machine.execVfmaz rd ra rb pg ft s
  | .vaddX rd ra rb pg ft => Sys2Proof.Machine.execVaddX rd ra rb pg ft s
  | .vsubX rd ra rb pg ft => Sys2Proof.Machine.execVsubX rd ra rb pg ft s
  | .vmulX rd ra rb pg ft => Sys2Proof.Machine.execVmulX rd ra rb pg ft s
  | .vmulzX rd ra rb pg ft => Sys2Proof.Machine.execVmulzX rd ra rb pg ft s
  | .vminX rd ra rb pg ft => Sys2Proof.Machine.execVminX rd ra rb pg ft s
  | .vmaxX rd ra rb pg ft => Sys2Proof.Machine.execVmaxX rd ra rb pg ft s
  | .vfmaX rd ra rb pg ft => Sys2Proof.Machine.execVfmaX rd ra rb pg ft s
  | .vfmazX rd ra rb pg ft => Sys2Proof.Machine.execVfmazX rd ra rb pg ft s
  | .vand rd ra rb pg ft => Sys2Proof.Machine.execVand rd ra rb pg ft s
  | .vor rd ra rb pg ft => Sys2Proof.Machine.execVor rd ra rb pg ft s
  | .vxor rd ra rb pg ft => Sys2Proof.Machine.execVxor rd ra rb pg ft s
  | .vandn rd ra rb pg ft => Sys2Proof.Machine.execVandn rd ra rb pg ft s
  | .vshl rd ra rb pg ft => Sys2Proof.Machine.execVshl rd ra rb pg ft s
  | .vshr rd ra rb pg ft => Sys2Proof.Machine.execVshr rd ra rb pg ft s
  | .vsar rd ra rb pg ft => Sys2Proof.Machine.execVsar rd ra rb pg ft s
  | .vrotl rd ra rb pg ft => Sys2Proof.Machine.execVrotl rd ra rb pg ft s
  | .vceq rd ra rb pg ft => Sys2Proof.Machine.execVceq rd ra rb pg ft s
  | .vcne rd ra rb pg ft => Sys2Proof.Machine.execVcne rd ra rb pg ft s
  | .vclt rd ra rb pg ft => Sys2Proof.Machine.execVclt rd ra rb pg ft s
  | .vcle rd ra rb pg ft => Sys2Proof.Machine.execVcle rd ra rb pg ft s
  | .vcgt rd ra rb pg ft => Sys2Proof.Machine.execVcgt rd ra rb pg ft s
  | .vcge rd ra rb pg ft => Sys2Proof.Machine.execVcge rd ra rb pg ft s
  | .vcnan rd ra pg ft => Sys2Proof.Machine.execVcnan rd ra pg ft s
  | .vcinf rd ra pg ft => Sys2Proof.Machine.execVcinf rd ra pg ft s
  | .vmov rd ra pg => Sys2Proof.Machine.execVmov rd ra pg s
  | .vsel rd ra rb pg => Sys2Proof.Machine.execVsel rd ra rb pg s
  | .vbcast rd rb pg ft => Sys2Proof.Machine.execVbcast rd rb pg ft s
  | .pand rd ra rb => Sys2Proof.Machine.execPand rd ra rb s
  | .por rd ra rb => Sys2Proof.Machine.execPor rd ra rb s
  | .pxor rd ra rb => Sys2Proof.Machine.execPxor rd ra rb s
  | .pnot rd ra => Sys2Proof.Machine.execPnot rd ra s
  | .vcvt rd ra rtz fd pg ft => Sys2Proof.Machine.execVcvt rd ra rtz fd pg ft s
  | .vrsum rd ra pg ft => Sys2Proof.Machine.execVrsum rd ra pg ft s
  | .vrmax rd ra pg ft => Sys2Proof.Machine.execVrmax rd ra pg ft s
  | .vrmin rd ra pg ft => Sys2Proof.Machine.execVrmin rd ra pg ft s
  | .vramax rd ra pg ft => Sys2Proof.Machine.execVramax rd ra pg ft s
  | .vrssq rd ra pg ft => Sys2Proof.Machine.execVrssq rd ra pg ft s
  | .vshuf rd ra rb pg ft => Sys2Proof.Machine.execVshuf rd ra rb pg ft s
  | .vrotr rd ra rb pg ft => Sys2Proof.Machine.execVrotr rd ra rb pg ft s
  | .vslup rd ra rb pg ft => Sys2Proof.Machine.execVslup rd ra rb pg ft s
  | .vsldn rd ra rb pg ft => Sys2Proof.Machine.execVsldn rd ra rb pg ft s
  | .vzip rd ra rb pg ft => Sys2Proof.Machine.execVzip rd ra rb pg ft s
  | .vunzip rd ra rb pg ft => Sys2Proof.Machine.execVunzip rd ra rb pg ft s
  | .vexp2 rd ra pg ft => Sys2Proof.Machine.execVexp2 rd ra pg ft s
  | .vlog2 rd ra pg ft => Sys2Proof.Machine.execVlog2 rd ra pg ft s
  | .vrcp rd ra pg ft => Sys2Proof.Machine.execVrcp rd ra pg ft s
  | .vrsq rd ra pg ft => Sys2Proof.Machine.execVrsq rd ra pg ft s
  | .vexp rd ra pg ft => Sys2Proof.Machine.execVexp rd ra pg ft s
  | .vtanh rd ra pg ft => Sys2Proof.Machine.execVtanh rd ra pg ft s
  | .vsilu rd ra pg ft => Sys2Proof.Machine.execVsilu rd ra pg ft s
  | .vstats fin ra rb pg ft => Sys2Proof.Machine.execVstats fin ra rb pg ft s
  | .vsmx rd ra rb pg ft => Sys2Proof.Machine.execVsmx rd ra rb pg ft s
  | .vlse rd rb => Sys2Proof.Machine.execVlse rd rb s
  | .sbget rd rb pg => Sys2Proof.Machine.execSbget rd rb pg s
  | .sbset ra rb pg => Sys2Proof.Machine.execSbset ra rb pg s
  | .vnrd rd ra pd pg k => Sys2Proof.Machine.execVnrd rd ra pd pg k s
  | .vloop ra len => Sys2Proof.Machine.execVloop ra len s
  | .vsync => Sys2Proof.Machine.execVsync s
  | .vseqst rd => Sys2Proof.Machine.execVseqst rd s
  | .vext rd ra rb ft => Sys2Proof.Machine.execVext rd ra rb ft s
  | .vins rd ra rb ft => Sys2Proof.Machine.execVins rd ra rb ft s
  | .viota rd pg ft => Sys2Proof.Machine.execViota rd pg ft s
  | .vrrd rd ra rb pg len => Sys2Proof.Machine.execVrrd rd ra rb pg len s
  | .vrwr rd ra rb pg len => Sys2Proof.Machine.execVrwr rd ra rb pg len s
  | .hvbind rd ra rb => Sys2Proof.Machine.execHvbind rd ra rb s
  | .hvperm rd ra k2 xs k0 => Sys2Proof.Machine.execHvperm rd ra k2 xs k0 s
  | .hvpermX rd ra xs => Sys2Proof.Machine.execHvpermX rd ra xs s
  | .hvbund rd ra xs neg => Sys2Proof.Machine.execHvbund rd ra xs neg s
  | .hvthr rd ra => Sys2Proof.Machine.execHvthr rd ra s
  | .hvclr rd => Sys2Proof.Machine.execHvclr rd s
  | .hvclrH rd => Sys2Proof.Machine.execHvclrH rd s
  | .hvdist ra rb xs => Sys2Proof.Machine.execHvdist ra rb xs s
  | .hvnear ra xs => Sys2Proof.Machine.execHvnear ra xs s
  | .hvnear2 ra xs => Sys2Proof.Machine.execHvnear2 ra xs s
  | .hvmov rd ra => Sys2Proof.Machine.execHvmov rd ra s
  | .hvmovLfsr rd => Sys2Proof.Machine.execHvmovLfsr rd s
  | .hvmovSeed ra => Sys2Proof.Machine.execHvmovSeed ra s
  | .userInterrupt => Sys2Proof.Machine.execUserInterrupt s
  | .registerFill n => Sys2Proof.Machine.execRegisterFill n s
  | .loadDelivery => Sys2Proof.Machine.execLoadDelivery s
  | .streamBlockRead n => Sys2Proof.Machine.execStreamBlockRead n s
  | .entryLaunch core slot => Sys2Proof.Machine.execEntryLaunch core slot s
  | .wrcArrival core ctr delta src => Sys2Proof.Machine.execWrcArrival core ctr delta src s
  | .user core msg => Sys2Proof.Machine.execUser core msg s
  | .resumeMessage core payload => Sys2Proof.Machine.execResumeMessage core payload s
  | .lockRetry tid => Sys2Proof.Machine.execLockRetry tid s
  | .handleHomeCheck tid h keep => Sys2Proof.Machine.execHandleHomeCheck tid h keep s
  | .evaluationCompletion part idx => Sys2Proof.Machine.execEvaluationCompletion part idx s
  | .hready tid payload cause addr => Sys2Proof.Machine.execHready tid payload cause addr s
  | .sparkConversion cluster => Sys2Proof.Machine.execSparkConversion cluster s
  | .waveBoundary => Sys2Proof.Machine.execWaveBoundary s
  | .deadlock part payload => Sys2Proof.Machine.execDeadlock part payload s
  | .gbarRelease cluster g => Sys2Proof.Machine.execGbarRelease cluster g s
  | .epochBoundary cluster => Sys2Proof.Machine.execEpochBoundary cluster s
  | .exchangeTransfer tid peer => Sys2Proof.Machine.execExchangeTransfer tid peer s
  | .vnrdMatch a b => Sys2Proof.Machine.execVnrdMatch a b s
  | .vnrdTimeout tid => Sys2Proof.Machine.execVnrdTimeout tid s
  | .itemMemorySearch cluster => Sys2Proof.Machine.execItemMemorySearch cluster s
  | .imctlWrite v => Sys2Proof.Machine.execImctlWrite v s
  | .syncallRelease launch => Sys2Proof.Machine.execSyncallRelease launch s
  | .treeRoundCompletion launch round => Sys2Proof.Machine.execTreeRoundCompletion launch round s
  | .copyCompletion core tag => Sys2Proof.Machine.execCopyCompletion core tag s
  | .engineFault core tag write va cause => Sys2Proof.Machine.execEngineFault core tag write va cause s
  | .mma core => Sys2Proof.Machine.execMma core s
  | .mmag core => Sys2Proof.Machine.execMmag core s
  | .mzero core => Sys2Proof.Machine.execMzero core s
  | .mldacc core => Sys2Proof.Machine.execMldacc core s
  | .mstacc core => Sys2Proof.Machine.execMstacc core s
  | .mfmt core => Sys2Proof.Machine.execMfmt core s
  | .mswap core => Sys2Proof.Machine.execMswap core s
  | .mtable core => Sys2Proof.Machine.execMtable core s
  | .mxpose core => Sys2Proof.Machine.execMxpose core s
  | .msig core => Sys2Proof.Machine.execMsig core s
  | .mops core => Sys2Proof.Machine.execMops core s
  | .matrixCompletion core => Sys2Proof.Machine.execMatrixCompletion core s
  | .derive part id row blk => Sys2Proof.Machine.execDerive part id row blk s
  | .publication part id row blk => Sys2Proof.Machine.execPublication part id row blk s
  | .translationWalk core part va => Sys2Proof.Machine.execTranslationWalk core part va s
  | .collectiveStart die ring p2p => Sys2Proof.Machine.execCollectiveStart die ring p2p s
  | .ringStep die ring p2p arrived => Sys2Proof.Machine.execRingStep die ring p2p arrived s
  | .collectiveCompletion die ring p2p => Sys2Proof.Machine.execCollectiveCompletion die ring p2p s
  | .portError port => Sys2Proof.Machine.execPortError port s
  | .linkDeath port => Sys2Proof.Machine.execLinkDeath port s
  | .correctedError cls idx => Sys2Proof.Machine.execCorrectedError cls idx s
  | .uncorrectedError pa => Sys2Proof.Machine.execUncorrectedError pa s
  | .patrolScrub pa found => Sys2Proof.Machine.execPatrolScrub pa found s
  | .testdone cls idx run1 run2 => Sys2Proof.Machine.execTestdone cls idx run1 run2 s
  | .clampSample die amps => Sys2Proof.Machine.execClampSample die amps s
  | .clampRecovery die => Sys2Proof.Machine.execClampRecovery die s
  | .thermalAlert die temp => Sys2Proof.Machine.execThermalAlert die temp s
  | .thermalHold die => Sys2Proof.Machine.execThermalHold die s
  | .thermalHoldEnd die temp => Sys2Proof.Machine.execThermalHoldEnd die temp s
  | .criticalTemperature die temp => Sys2Proof.Machine.execCriticalTemperature die temp s
  | .clockHoldEnd die => Sys2Proof.Machine.execClockHoldEnd die s
  | .powerStateExit cls idx => Sys2Proof.Machine.execPowerStateExit cls idx s
  | .die => Sys2Proof.Machine.execDie s
  | .clusters => Sys2Proof.Machine.execClusters s
  | .optcores => Sys2Proof.Machine.execOptcores s
  | .limits => Sys2Proof.Machine.execLimits s
  | .attest => Sys2Proof.Machine.execAttest s
  | .eventring => Sys2Proof.Machine.execEventring s
  | .pcreate => Sys2Proof.Machine.execPcreate s
  | .presize => Sys2Proof.Machine.execPresize s
  | .pretire => Sys2Proof.Machine.execPretire s
  | .preset => Sys2Proof.Machine.execPreset s
  | .pdestroy => Sys2Proof.Machine.execPdestroy s
  | .ptune => Sys2Proof.Machine.execPtune s
  | .hostWrite ep off data => Sys2Proof.Machine.execHostWrite ep off data s
  | .hostRead off => Sys2Proof.Machine.execHostRead off s
  | .apertureBaseWrite v => Sys2Proof.Machine.execApertureBaseWrite v s
  | .registerWrite off v => Sys2Proof.Machine.execRegisterWrite off v s
  | .launchDoorbell part q tail => Sys2Proof.Machine.execLaunchDoorbell part q tail s
  | .placeTask part => Sys2Proof.Machine.execPlaceTask part s
  | .packetReject part q => Sys2Proof.Machine.execPacketReject part q s
  | .preemptHalt core => Sys2Proof.Machine.execPreemptHalt core s
  | .launchCompletion launch => Sys2Proof.Machine.execLaunchCompletion launch s
  | .watchdogExpiry part => Sys2Proof.Machine.execWatchdogExpiry part s
  | .partitionReset part cause => Sys2Proof.Machine.execPartitionReset part cause s
  | .boot => Sys2Proof.Machine.execBoot s
  | .accessPerformed => Sys2Proof.Machine.execAccessPerformed s
  | .homeAnswer tid => Sys2Proof.Machine.execHomeAnswer tid s
  | .engineRowMove core tag => Sys2Proof.Machine.execEngineRowMove core tag s
  | .endpointLinkTraining ep x16 rate => Sys2Proof.Machine.execEndpointLinkTraining ep x16 rate s

end Sys2Proof.Machine
end

