-- ==== Sys2Proof/Machine/Issue.lean ====
section
/-! DEFINITION. Issue units: fetch (R59), the pair (R30 to R33), the interlocks of R132, register fills (R26), delay slots
(R55), following (R208, R209), and what a task does in one cycle. -/

namespace Sys2Proof.Machine

/-! ## Words and pairs (R30, R31) -/

/-- P: the word forms a pair with the next one. -/
def pairBit (w : W32) : Bool := w.getLsbD 31
/-- K: an arithmetic word. -/
def classA (w : W32) : Bool := w.getLsbD 30

/-- Registers that a word may write beside those its fields name as destinations (R31): ERET and URET load x24 to x31 (R75,
R79), MTSR to HVCW clamps b0 to b3 (R158). -/
def alsoWrites (i : Instr) : List (Nat × Nat) :=
  match i with
  | .eret | .uret => (List.range 8).map fun k => (0, 24 + k)
  | .mtsr _ .hvcw => (List.range 4).map ((4, ·))
  | _ => []
/-- The registers that a word may write, for the last condition of R31: x0 and p0 are none. -/
def destsOf (i : Instr) : List (Nat × Nat) :=
  let r := regsOf i
  (r.xw.filter (· != 0)).map (0, ·) ++ r.vw.map (1, ·) ++ (r.pw.filter (· != 0)).map (2, ·) ++ r.hw.map (3, ·) ++ r.bw.map (4, ·)
    ++ alsoWrites i
def sharesDest (i j : Instr) : Bool := (destsOf i).any fun d => (destsOf j).contains d

/-- A decoded unit: its first word, and the second of a pair. -/
structure IssueUnit where
  i : Instr
  w : W32
  second : Option (Instr × W32) := none
deriving DecidableEq, Repr

/-- Steps 1 and 2 of R33: the unit, or the word that ILLEGAL reports. -/
def decodeUnit (pc : W64) (w : W32) (v : Option W32) : Except W32 IssueUnit :=
  if pairBit w then
    if pc.toNat % 8 ≠ 0 ∨ classA w then .error w
    else match v with
      | none => .error w
      | some v =>
        if !classA v || pairBit v then .error w
        else match decode w, decode v with
          | .error _, _ => .error w
          | _, .error _ => .error v
          | .ok i, .ok j => if sharesDest i j then .error w else .ok ⟨i, w, some (j, v)⟩
  else match decode w with
    | .error _ => .error w
    | .ok i => .ok ⟨i, w, none⟩

/-- Fetch the unit at the pc (R59); the words of a pair lie in one 8-byte place. -/
def State.fetchUnit (s : State) : Except Miss (W32 × Option W32 × State) :=
  match s.fetch s.t.pc with
  | .error e => .error e
  | .ok (w, s1) =>
    if pairBit w && !classA w && s.t.pc.toNat % 8 == 0 then
      match s1.fetch (s.t.pc + 4) with
      | .error e => .error e
      | .ok (v, s2) => .ok (w, some v, s2)
    else .ok (w, none, s1)

/-! ## Executing a unit (R32, R33) -/

/-- Go on after an outcome that is a next state. -/
def andThen (o : Out) (k : State → Out) : Out :=
  match o with
  | .next s => k s
  | .fault r => .fault r
  | .refused r => .refused r

/-- The state in which a word of the unit executes. -/
def State.forWord (s : State) (w : W32) (inA : Bool) (len : Nat) : State :=
  { s with t := { s.t with word := w, inA := inA, len := len, trapWait := false } }
/-- A lone word. -/
def execLone (i : Instr) (w : W32) (s : State) : Out := exec i (s.forWord w false 4)

/-- The first of some refusals. -/
def firstSome {α : Type} : List (Option α) → Option α
  | [] => none
  | some a :: _ => some a
  | none :: r => firstSome r

/-- A pair that reaches past the end of an open capture (R134 rule 4). -/
def straddles (i j : Instr) (w : W32) (s : State) : Option Trap :=
  match s.t.seq.cap with
  | none => none
  | some c =>
    if isVector i && isVector j && decide (c.len < (c.got.foldl (fun n u => n + u.words) 0) + 2) then some (.illegal, w.setWidth 64)
    else none
/-- Steps 3 to 5 of R33 for a pair: within each step the C word comes first. Two places in this order are the model's own
(DESIGN CHOICE, log 56): both tests of step 3 are made of the C word before either is made of the A word, and the ILLEGAL of a
word or straddling pair in an open capture (R134) stands between steps 3 and 4. -/
def pairCheck (i j : Instr) (w v : W32) (s : State) : Option Trap :=
  let c := s.forWord w false 8
  let a := s.forWord v true 8
  firstSome [check3 i c, check3 j a, checkCap i c, checkCap j a, straddles i j w s, check4 i c, check4 j a, check5 i c, check5 j a]

/-- The unit stalls, its words without effect, for want of room in the sequencer. -/
def stallUnit (s : State) : Out := .next { s with t := { s.t with last := .stalled, trapWait := true, inA := false } }

/-- The unit has effect only when both words complete: what the A word does where it does not (R32). -/
def withoutEffect (j : Instr) (v : W32) (s : State) : Out :=
  andThen (exec j (s.forWord v true 8)) fun r =>
    if r.t.last = .done then stallUnit s else .next { r with t := { r.t with inA := false } }

/-- The A word of a pair whose C word has completed: it reads what the C word found (R32). -/
def execSecond (j : Instr) (v : W32) (s c : State) : Out :=
  andThen (exec j { c with t := { c.t with word := v, inA := true, pc := s.t.pc, trapWait := false }, old := some s.t }) fun a =>
    if a.t.last = .done then .next { a with t := { a.t with last := c.t.last, pc := c.t.pc, inA := false }, old := none }
    else withoutEffect j v s

/-- A pair with DONE (R20): DONE takes its pending reports; when the words older than the unit have completed the A word
executes in full, once; then DONE goes on alone. -/
def execDonePair (w : W32) (j : Instr) (v : W32) (s : State) : Out :=
  if s.t.doneA then exec .done (s.forWord w false 8)
  else if s.t.handleReport.isSome || s.t.matrixReport.isSome || !s.t.seqEmpty then
    andThen (exec .done (s.forWord w false 8)) fun c => .next { c with t := { c.t with inA := false } }
  else
    andThen (exec j (s.forWord v true 8)) fun a =>
      if a.t.last = .done then .next { a with t := { a.t with doneA := true, last := .stalled, trapWait := true, inA := false } }
      else .next { a with t := { a.t with inA := false } }

/-- A pair (R32, R33). A C word that would park does so only once the A word is found to complete; one that traps at S level parks
by its double trap, which stands before what the A word would raise (R33, R74). -/
def execPair (i : Instr) (w : W32) (j : Instr) (v : W32) (s : State) : Out :=
  match pairCheck i j w v s with
  | some (c, tv) => raise c tv (s.forWord w false 8)
  | none =>
    if i = .done then execDonePair w j v s
    else
      andThen (exec i (s.forWord w false 8)) fun c =>
        match c.t.last with
        | .done => execSecond j v s c
        | .moved => execSecond j v s c
        | .parked =>
          if s.t.wake.isSome || c.t.run == .parked .doubleTrap then .next c
          else
            andThen (exec j (s.forWord v true 8)) fun a =>
              if a.t.last = .done then .next c else .next { a with t := { a.t with inA := false } }
        | _ => .next c

def execUnit (u : IssueUnit) (s : State) : Out :=
  match u.second with
  | none => execLone u.i u.w s
  | some (j, v) => execPair u.i u.w j v s

/-! ## Before a unit (R26, R132) -/

/-- Scalar registers other than x0 that a word reads or writes, those that ERET and URET restore among them (R75, R79). -/
def scalarNames (i : Instr) : List Nat :=
  ((regsOf i).xr ++ (regsOf i).xw).filter (· != 0) ++ ((alsoWrites i).filter (·.1 == 0)).map (·.2)
/-- Vector registers that a word names: of a row or queue instruction those of the run that its operands give (R218, R219, R308). -/
def State.vecNamesNow (s : State) (i : Instr) : List Nat :=
  match i with
  | .rowadd rd _ rb _ | .rowmax rd _ rb _ | .rowld rd _ rb _ | .rowst rd _ rb _ => runOf rd.val (Nat.min 4 (RowCtl.of (s.xr rb)).n)
  | .gqpush vr ra rb =>
    let f := Ft.ofCode (s.gq s.t.part (s.xr ra).toNat).fmt
    runOf vr.val (Nat.min 4 ((bitsOf (s.xr rb).toNat 0 16 * f.width + 255) / 256))
  | _ => (regsOf i).vr ++ (regsOf i).vw
/-- A word must wait at issue (R132, R136, R216, R219): for a scalar register that an older vector word or an answer will
write, for the latency of one that a vector word has written, and, in the scalar pipeline, for vector registers that an answer
will write. -/
def interlocked (i : Instr) (s : State) : Bool :=
  s.t.seq.entries.any (fun e => (regsOf e.i).xw.any fun r => (scalarNames i).contains r)
    || (scalarNames i).any (fun r => decide (s.tissued < s.t.seq.ready.getD (64 + r) 0))
    || s.t.answers.any (fun a => match a.rd with | some r => (scalarNames i).contains r.val | none => false)
    || (!isVector i && s.t.awaitsAny (s.vecNamesNow i))
/-- The sequencer holds an older word, captured ones apart, that will write a scalar register which the word names. -/
def heldBySeq (i : Instr) (s : State) : Bool :=
  ({ s.t.seq with cap := none } : Seq).entries.any fun e => (regsOf e.i).xw.any fun r => (scalarNames i).contains r
/-- Words of a unit. -/
def IssueUnit.instrs (u : IssueUnit) : List Instr := u.i :: (u.second.map (·.1)).toList
/-- The unit is a pair that reaches past the end of an open capture. -/
def IssueUnit.straddling (u : IssueUnit) (s : State) : Bool :=
  match u.second with
  | some (j, _) => (straddles u.i j u.w s).isSome
  | none => false

/-- Vector registers below the allotment that a unit names. -/
def IssueUnit.vecRegs (u : IssueUnit) (s : State) : List Nat :=
  (u.instrs.flatMap s.vecNamesNow).filter fun r => decide (r < s.t.allotn)
/-- The registers count as used (R27). -/
def touchRegs : List Nat → State → Out
  | [], s => .next s
  | r :: l, s => andThen (execRegisterFill (Fin.ofNat 32 r) s) (touchRegs l)
/-- Fill the first missing register (R26), which holds the unit for its 20 cycles, the unit's other registers counting as used; with
none missing go on. -/
def withRegs (u : IssueUnit) (s : State) (k : State → Out) : Out :=
  let here (r : Nat) : Bool := (s.core s.t.core).phys.contains (s.t.tid, r)
  match (u.vecRegs s).find? fun r => !here r with
  | some r => andThen (touchRegs ((u.vecRegs s).filter here) s) fun s => andThen (execRegisterFill (Fin.ofNat 32 r) s) stall
  | none => andThen (touchRegs (u.vecRegs s) s) k

/-! ## After a unit (R55, R72, R75, R180, R208) -/

/-- The pc after a unit that has completed: past a delay slot to the target, after a transfer to its delay slot, else to
the following unit (R55). -/
def Task.advance (t : Task) : Task :=
  match t.slot, t.xfer with
  | some T, _ => { t with pc := T, slot := none, xfer := none }
  | none, some T => { t with pc := t.nextUnit, slot := some T, xfer := none }
  | none, none => { t with pc := t.nextUnit }
/-- A unit has issued: the count of every compute-phase load goes down (R180). -/
def Task.countUnit (t : Task) : Task := { t with loads := t.loads.map fun l => { l with left := l.left - 1 } }
/-- The unit at the head of the follower's queue has been executed, by a task that took it from there; `x` is the target of the
transfer that it has taken. Where the leader's outcome was another one the follower detaches, after the delay slot of a transfer of
its own (R209). -/
def Task.popFollow (t before : Task) (x : Option W64) : Task :=
  match before.follow with
  | none => t
  | some f =>
    if !f.joined then t
    else if f.leaving || (x.isNone && f.queue.head?.any (·.2.2.isSome)) then { t with follow := none }
    else { t with follow := t.follow.map fun g =>
      { g with queue := g.queue.drop 1, leaving := x.isSome && f.queue.head?.any (·.2.2 != x) } }

/-- Cycles of trap entry and of ERET (R72, R75). -/
def trapCycles : Nat := 24
/-- Cycles of a user-level interrupt and of URET (R79). -/
def userCycles : Nat := 8
/-- The task issues nothing for n cycles of its core's die. -/
def State.holdFor (s : State) (n : Nat) : State := { s with t := { s.t with hold := s.tclock + n } }

/-- A trap has been taken: the follower detaches and so do its own followers (R209); what the unit waited for at issue is
abandoned. -/
def State.afterTrap (s : State) : State :=
  let s := (leaderGone s.t.tid s.allTasks s).withdraw
  { s with t := { s.t with follow := none, xhold := none, doneA := false, inA := false } }.holdFor trapCycles

/-- The leader's unit, with the target of the transfer that it took, goes to its followers (R208): one that waits for this address
begins with it. -/
def pushUnit (leader : Nat) (u : W64 × List W32 × Option W64) : List Task → State → State
  | [], s => s
  | t :: r, s =>
    pushUnit leader u r (match t.follow with
      | some f =>
        if f.leader ≠ leader || f.ended then s
        else if f.begun then
          s.modTask t.tid fun t => { t with follow := t.follow.map fun f => { f with queue := f.queue ++ [u] } }
        else if f.label = u.1 then
          (s.modTask t.tid fun t => { t with follow := some { f with begun := true, queue := [u] } }).wakeTask t.tid (.value 0)
        else s
      | none => s)
/-- The last unit of a leader that has retired with it goes to those that followed it, as they stood before (R208, R20). -/
def pushLast (leader : Nat) (u : W64 × List W32 × Option W64) : List Task → State → State
  | [], s => s
  | t :: r, s =>
    pushLast leader u r (match t.follow with
      | some f =>
        if f.leader ≠ leader || f.ended then s
        else if f.begun then
          s.modTask t.tid fun t => { t with follow := t.follow.map fun f => { f with queue := f.queue ++ [u] } }
        else if f.label = u.1 then
          s.modTask t.tid fun t => { t with follow := some { f with begun := true, queue := [u], ended := true } }
        else s
      | none => s)

/-- The words of a unit. -/
def IssueUnit.words (u : IssueUnit) : List W32 := u.w :: (u.second.map (·.2)).toList
/-- A unit that has issued, with the target of the transfer it took, goes to the followers, once: not when a woken unit completes. -/
def IssueUnit.shared (u : IssueUnit) (t : Task) (x : Option W64) (s : State) : State :=
  if t.wake.isNone && s.allTasks.any (fun f => f.follow.any (·.leader == t.tid)) then
    pushUnit t.tid (t.pc, u.words, x) s.allTasks s
  else s

/-- What follows a unit, by how it ended; `b` is the state before it. -/
def IssueUnit.finish (u : IssueUnit) (b s : State) : State :=
  let t := b.t
  let x := s.t.xfer
  match s.t.last with
  | .done => u.shared t x { s with t := s.t.advance.countUnit.popFollow t x }
  | .moved =>
    let s := u.shared t none { s with t := s.t.countUnit.popFollow t none }
    if u.i = .eret then s.holdFor trapCycles else if u.i = .uret then s.holdFor userCycles else s
  | .parked => if s.t.run = .parked .doubleTrap then s.afterTrap else u.shared t none s
  | .retired => if t.wake.isNone then pushLast t.tid (t.pc, u.words, none) b.allTasks s else s
  | .trapped => s.afterTrap
  | .stalled => s

/-! ## One cycle of a task -/

/-- A trap that the unit raises before it executes. -/
def afterRaise (o : Out) : Out := andThen o fun s => .next (match s.t.last with | .stalled => s | _ => s.afterTrap)

/-- The unit as it issues: the interlocks, the fills, its words, what follows. -/
def issueWords (w : W32) (v : Option W32) (s : State) : Out :=
  match decodeUnit s.t.pc w v with
  | .error bad => afterRaise (raise .illegal (bad.setWidth 64) (s.forWord w false 4))
  | .ok u =>
    -- a unit that no capture may hold is refused, whatever the captured words will write (R134 rules 3 and 4)
    if (s.t.seq.cap.isNone || (u.instrs.all isVector && !u.straddling s)) && u.instrs.any (interlocked · s) then
      -- in a capture an older word's trap waits (R134 rule 7), unless that word itself holds the unit
      if s.t.seq.cap.isNone || u.instrs.any (heldBySeq · s) then stallSeq s else stall s
    else withRegs u s fun s => andThen (execUnit u s) fun s' => .next (u.finish s s')

/-- Fetch the unit at the pc and issue it; a fetch that fails is the unit's own trap (R59). -/
def issueFetched (s : State) : Out :=
  match s.fetchUnit with
  | .error m => afterRaise (orTrap (.error { m with s := m.s.forWord 0 false 4 } : Except Miss State) .next)
  | .ok (w, v, s') => issueWords w v s'

/-- Followers' queues hold 32 units (R208). -/
def followSize : Nat := 32
/-- A follower of the task has a full queue: the leader stalls (R208). -/
def State.queueFull (s : State) : Bool :=
  s.allTasks.any fun t => match t.follow with
    | some f => f.leader == s.t.tid && f.begun && !f.ended && decide (followSize ≤ f.queue.length)
    | none => false

/-- The address of the next unit that a leader will issue, while it is between two units: not while it waits in one that it has
issued already. -/
def Task.nextOwn (t : Task) : Option W64 :=
  if t.wake.isSome || (match t.run with | .parked _ => true | _ => false) then none else some t.pc
/-- Where the next unit comes from (R208, R209): a follower takes it from its queue while its address is the follower's
own next one; else it detaches and fetches its own stream, and so it does when the leader's next unit is another one. -/
def issueSource (s : State) : Out :=
  let own := issueFetched { s with t := { s.t with follow := none } }
  match s.t.follow with
  | none => issueFetched s
  | some f =>
    if !f.joined then issueFetched s
    else match f.queue with
      | (a, w :: r, _) :: _ => if a = s.t.pc then issueWords w r.head? s else own
      | (_, [], _) :: _ => own
      | [] =>
        if f.ended then own
        else match (s.task f.leader).bind (·.nextOwn) with
          | some a => if a = s.t.pc then stall s else own
          | none => stall s

/-- The task tries its next unit, unless it is held: by its PHASE.x (R211), by a release at row scope (R268), by a lock
request (R214), or by a follower's full queue. -/
def issueNext (s : State) : Out :=
  let s := { s with t := { s.t with trapWait := false } }
  if s.t.xhold.isSome || s.t.lockWait || s.queueFull then stall s
  else if s.t.rowWait.isEmpty then issueSource s
  else if s.t.rowWait.all s.published then issueSource { s with t := { s.t with rowWait := [] } }
  else stall s

/-- A bound in-stream that reads a block ahead (R186), at most one a cycle. -/
def readAhead (s : State) (k : State → Out) : Out :=
  match s.t.streams.find? fun p => !p.2.d.out && decide (p.2.ahead.length < 4) with
  | some p => andThen (execStreamBlockRead (Fin.ofNat 32 p.1) s) k
  | none => k s
/-- Compute-phase loads whose count has run out deliver (R180). -/
def deliverDue (s : State) (k : State → Out) : Out :=
  if s.t.loads.any (·.left == 0) then andThen (execLoadDelivery s) k else k s

/-- A load that was issued again at the resume met an uncorrectable error: its trap comes before the next unit (R29, R177; log
57). -/
def orReload (s : State) (k : State → Out) : Out :=
  match s.t.reloadErr with
  | some a => afterRaise (raise .memerr a (if s.t.seqEmpty then { s with t := { s.t with reloadErr := none } } else s))
  | none => k s

/-- The next unit, after a load that failed when it was issued again. -/
def issueUnits (s : State) : Out := orReload s issueNext

/-- An access of the sequencer's word waits for a bank under test in a compute phase: the core's pipeline stalls with it (R223). No
other word waits there but a neighbour read. -/
def Task.stallsAll (t : Task) : Bool :=
  t.st.ph == .c && match t.seq.head.bind (·.word?) with
    | some (e, _) => match e.i with | .vnrd .. => false | _ => true
    | none => false
/-- The compute-phase loads in flight count no cycle of that stall (R180). -/
def State.stallAll (s : State) : State :=
  { s with t := { s.t with seq := { s.t.seq with loads := s.t.seq.loads.map fun (l : VLoad) => { l with due := l.due + 1 } } } }

/-- The vector unit is free again once its word's cycles are over (R136). -/
def State.settleSeq (s : State) : State := { s with t := { s.t with seq := s.t.seq.settle s.tissued } }
/-- One cycle of the task in focus (R22, R79, R130): a user-level interrupt, or one word of its sequencer and its next
unit. A parked task's sequencer goes on with the words it holds. -/
def issueTask (s : State) : Out :=
  let s := s.settleSeq
  if s.t.run ≠ .running then
    if s.t.saved && s.t.run != .preempted then
      match s.seqStep with
      | .stepped s' => .next s'
      | .waits s' => .next s'
      | _ => .next s
    else .next s
  else if s.tclock < s.t.hold then .next s
  else if s.userPending then execUserInterrupt s
  else deliverDue s fun s =>
    match s.seqStep with
    | .idle => readAhead s issueUnits
    | .stepped s' => readAhead s' issueUnits
    | .waits s' => if s.t.stallsAll then .next s'.stallAll else readAhead s' issueUnits
    | .traps a c tv r w e =>
      if s.t.vecDeliverable then .next (deliverVector a c tv r (w.metError e)).afterTrap else readAhead w issueUnits

end Sys2Proof.Machine
end

