-- ==== Sys2Proof/Machine/RunEvent.lean ====
section
/-! DEFINITION. Running a scheduled event: the same meanings that exec calls for its row. -/

namespace Sys2Proof.Machine

/-- Run an event: the meaning of its row. -/
def runEvent (e : Event) (s : State) : Host.Outcome State Fault Refusal :=
  match e with
  | .userInterrupt => Sys2Proof.Machine.execUserInterrupt s
  | .registerFill n => Sys2Proof.Machine.execRegisterFill n s
  | .loadDelivery => Sys2Proof.Machine.execLoadDelivery s
  | .streamBlockRead n => Sys2Proof.Machine.execStreamBlockRead n s
  | .entryLaunch core slot => Sys2Proof.Machine.execEntryLaunch core slot s
  | .wrcArrival core ctr delta src => Sys2Proof.Machine.execWrcArrival core ctr delta src s
  | .user core msg => Sys2Proof.Machine.execUser core msg s
  | .resumeMessage core payload => Sys2Proof.Machine.execResumeMessage core payload s
  | .lockRetry tid => Sys2Proof.Machine.execLockRetry tid s
  | .handleHomeCheck tid h keep => Sys2Proof.Machine.execHandleHomeCheck tid h keep s
  | .evaluationCompletion part idx => Sys2Proof.Machine.execEvaluationCompletion part idx s
  | .hready tid payload cause addr => Sys2Proof.Machine.execHready tid payload cause addr s
  | .sparkConversion cluster => Sys2Proof.Machine.execSparkConversion cluster s
  | .waveBoundary => Sys2Proof.Machine.execWaveBoundary s
  | .deadlock part payload => Sys2Proof.Machine.execDeadlock part payload s
  | .gbarRelease cluster g => Sys2Proof.Machine.execGbarRelease cluster g s
  | .epochBoundary cluster => Sys2Proof.Machine.execEpochBoundary cluster s
  | .exchangeTransfer tid peer => Sys2Proof.Machine.execExchangeTransfer tid peer s
  | .vnrdMatch a b => Sys2Proof.Machine.execVnrdMatch a b s
  | .vnrdTimeout tid => Sys2Proof.Machine.execVnrdTimeout tid s
  | .itemMemorySearch cluster => Sys2Proof.Machine.execItemMemorySearch cluster s
  | .imctlWrite v => Sys2Proof.Machine.execImctlWrite v s
  | .syncallRelease launch => Sys2Proof.Machine.execSyncallRelease launch s
  | .treeRoundCompletion launch round => Sys2Proof.Machine.execTreeRoundCompletion launch round s
  | .copyCompletion core tag => Sys2Proof.Machine.execCopyCompletion core tag s
  | .engineFault core tag write va cause => Sys2Proof.Machine.execEngineFault core tag write va cause s
  | .mma core => Sys2Proof.Machine.execMma core s
  | .mmag core => Sys2Proof.Machine.execMmag core s
  | .mzero core => Sys2Proof.Machine.execMzero core s
  | .mldacc core => Sys2Proof.Machine.execMldacc core s
  | .mstacc core => Sys2Proof.Machine.execMstacc core s
  | .mfmt core => Sys2Proof.Machine.execMfmt core s
  | .mswap core => Sys2Proof.Machine.execMswap core s
  | .mtable core => Sys2Proof.Machine.execMtable core s
  | .mxpose core => Sys2Proof.Machine.execMxpose core s
  | .msig core => Sys2Proof.Machine.execMsig core s
  | .mops core => Sys2Proof.Machine.execMops core s
  | .matrixCompletion core => Sys2Proof.Machine.execMatrixCompletion core s
  | .derive part id row blk => Sys2Proof.Machine.execDerive part id row blk s
  | .publication part id row blk => Sys2Proof.Machine.execPublication part id row blk s
  | .translationWalk core part va => Sys2Proof.Machine.execTranslationWalk core part va s
  | .collectiveStart die ring p2p => Sys2Proof.Machine.execCollectiveStart die ring p2p s
  | .ringStep die ring p2p arrived => Sys2Proof.Machine.execRingStep die ring p2p arrived s
  | .collectiveCompletion die ring p2p => Sys2Proof.Machine.execCollectiveCompletion die ring p2p s
  | .portError port => Sys2Proof.Machine.execPortError port s
  | .linkDeath port => Sys2Proof.Machine.execLinkDeath port s
  | .correctedError cls idx => Sys2Proof.Machine.execCorrectedError cls idx s
  | .uncorrectedError pa => Sys2Proof.Machine.execUncorrectedError pa s
  | .patrolScrub pa found => Sys2Proof.Machine.execPatrolScrub pa found s
  | .testdone cls idx run1 run2 => Sys2Proof.Machine.execTestdone cls idx run1 run2 s
  | .clampSample die amps => Sys2Proof.Machine.execClampSample die amps s
  | .clampRecovery die => Sys2Proof.Machine.execClampRecovery die s
  | .thermalAlert die temp => Sys2Proof.Machine.execThermalAlert die temp s
  | .thermalHold die => Sys2Proof.Machine.execThermalHold die s
  | .thermalHoldEnd die temp => Sys2Proof.Machine.execThermalHoldEnd die temp s
  | .criticalTemperature die temp => Sys2Proof.Machine.execCriticalTemperature die temp s
  | .clockHoldEnd die => Sys2Proof.Machine.execClockHoldEnd die s
  | .powerStateExit cls idx => Sys2Proof.Machine.execPowerStateExit cls idx s
  | .die => Sys2Proof.Machine.execDie s
  | .clusters => Sys2Proof.Machine.execClusters s
  | .optcores => Sys2Proof.Machine.execOptcores s
  | .limits => Sys2Proof.Machine.execLimits s
  | .attest => Sys2Proof.Machine.execAttest s
  | .eventring => Sys2Proof.Machine.execEventring s
  | .pcreate => Sys2Proof.Machine.execPcreate s
  | .presize => Sys2Proof.Machine.execPresize s
  | .pretire => Sys2Proof.Machine.execPretire s
  | .preset => Sys2Proof.Machine.execPreset s
  | .pdestroy => Sys2Proof.Machine.execPdestroy s
  | .ptune => Sys2Proof.Machine.execPtune s
  | .hostWrite ep off data => Sys2Proof.Machine.execHostWrite ep off data s
  | .hostRead off => Sys2Proof.Machine.execHostRead off s
  | .apertureBaseWrite v => Sys2Proof.Machine.execApertureBaseWrite v s
  | .registerWrite off v => Sys2Proof.Machine.execRegisterWrite off v s
  | .launchDoorbell part q tail => Sys2Proof.Machine.execLaunchDoorbell part q tail s
  | .placeTask part => Sys2Proof.Machine.execPlaceTask part s
  | .packetReject part q => Sys2Proof.Machine.execPacketReject part q s
  | .preemptHalt core => Sys2Proof.Machine.execPreemptHalt core s
  | .launchCompletion launch => Sys2Proof.Machine.execLaunchCompletion launch s
  | .watchdogExpiry part => Sys2Proof.Machine.execWatchdogExpiry part s
  | .partitionReset part cause => Sys2Proof.Machine.execPartitionReset part cause s
  | .boot => Sys2Proof.Machine.execBoot s
  | .accessPerformed => Sys2Proof.Machine.execAccessPerformed s
  | .homeAnswer tid => Sys2Proof.Machine.execHomeAnswer tid s
  | .engineRowMove core tag => Sys2Proof.Machine.execEngineRowMove core tag s
  | .endpointLinkTraining ep x16 rate => Sys2Proof.Machine.execEndpointLinkTraining ep x16 rate s

end Sys2Proof.Machine
end

