-- ==== Sys2Proof/Machine/Cycle.lean ====
section
/-! DEFINITION. Time: which tasks issue in a cycle (R21, R22), the clock points and the throttling of the dies (R321 to
R325), the exchange clocks (R211), and the cycle itself. -/

namespace Sys2Proof.Machine

/-! ## Dies (R317, R321, R323 to R325) -/

/-- The clocks after the reference cycle n (R6, R321, R323, R324): a die's own cycles, the cycles in which its cores issue, and those in
which a cluster or an optimiser core is kept still by its own power state. -/
def Die.beat (n : Nat) (d : Die) : Die :=
  { d with lag := d.lag + (if dieCycles d.clk (n + 1) = dieCycles d.clk n then 1 else 0), gated := d.gated + (if d.issues n then 0 else 1) }
def State.beat (s : State) (n : Nat) : State :=
  let asleep (die : Nat) (p : Power) : Nat := if (s.die die).issues n && p != .run then 1 else 0
  let u := { s with
    clusters := s.clusters.map fun (c : Nat × Cluster) => (c.1, { c.2 with idle := c.2.idle + asleep (c.1 / 128) (s.clusterPower c.1) })
    cores := s.cores.map fun (c : Nat × Core) =>
      if isOpt c.1 then (c.1, { c.2 with idle := c.2.idle + asleep (dieOf c.1) (s.optPower (c.1 - 0x1000)) }) else c }
  (List.range 4).foldl (fun u d => u.setDie d ((s.die d).beat n)) u

/-- A core issues in cycle n: its die does, and the core's own power state is RUN. -/
def State.coreIssues (s : State) (n c : Nat) : Bool := (s.die (dieOf c)).issues n && s.corePower c == .run

/-! ## The choice of a task (R22) -/

/-- A task that the core may choose: one that is ready, or that was pre-empted (R29). -/
def Task.waiting (t : Task) : Bool := t.run == .ready || t.run == .preempted
/-- Of two tasks the one that R22 chooses: the higher priority, then the one ready longest. -/
def preferred (a b : Task) : Bool := decide (b.prio < a.prio ∨ (a.prio = b.prio ∧ a.since ≤ b.since))
def chooseTask : List Task → Option Task
  | [] => none
  | t :: r =>
    match chooseTask r with
    | none => if t.waiting then some t else none
    | some u => if t.waiting && preferred t u then some t else some u

/-- The bytes of a load that is issued again at a resume, at its local-window address on the core that the task has now (R29, R181, R350),
and the place of an uncorrectable error among them. -/
def State.reloadErr (s : State) (core va n : Nat) : Option Nat := badIn s.bad (windowPa core va) n
/-- A load recorded at the pre-emption is issued again (R29, R181). -/
def State.reload (s : State) (core : Nat) (l : LoadRec) : LoadRec :=
  if l.n = 0 then l
  else { l with value := extend l.signed (if l.n = 1 then .b else if l.n = 2 then .h else if l.n = 4 then .w else .d) (s.loadLE (windowPa core l.va) l.n) }
def State.reloadV (s : State) (core : Nat) (l : VLoad) : VLoad :=
  { l with bytes := (l.bytes.zip l.vas).map fun b => (b.1.1, s.byteAt (windowPa core b.2)) }
/-- The window addresses, with their lengths, of the loads of a pre-empted task. -/
def Task.reloads (t : Task) : List (Nat × Nat) :=
  ((t.loads.map fun (l : LoadRec) => (l.va, l.n)) ++ t.seq.loads.flatMap fun (l : VLoad) => l.vas.map ((·, 1))).filter fun p => p.2 != 0

/-- Cycles of a switch (R22). -/
def switchCycles : Nat := 16
/-- The core switches to a task: a pre-empted one goes on where its sequencer stood and has its loads issued again; one of them that
meets an uncorrectable error traps and writes no destination (R29, R177, log 57). -/
def State.resumed (s : State) (t : Task) : Task :=
  let t' := { t with run := .running, hold := Nat.max t.hold (s.clock (dieOf t.core) + switchCycles) }
  if t.run = .preempted then
    let seq := t.seq.resumedAt (s.issued t.core)
    let fails (va n : Nat) : Bool := n != 0 && (s.reloadErr t.core va n).isSome
    { t' with loads := (t.loads.filter fun l => !fails l.va l.n).map (s.reload t.core),
              seq := { seq with loads := (seq.loads.filter fun l => !l.vas.any (fails · 1)).map (s.reloadV t.core) },
              reloadErr := (t.reloads.find? fun p => (s.reloadErr t.core p.1 p.2).isSome).map fun p => BitVec.ofNat 64 (p.1 / 64 * 64) }
  else t'
/-- The switch (R22). A Hatbox that meets an uncorrectable error at it resets the partition (R354). -/
def State.switchTo (s : State) (t : Task) : State :=
  let u := s.setTask (s.resumed t)
  let met := if t.run = .preempted then t.reloads.filterMap fun p => s.reloadErr t.core p.1 p.2 else []
  let u := met.foldl (fun u g => u.metError (some g)) u
  if (badIn s.bad t.hatbox t.hatboxSize).isSome then u.at_ 0 (.partitionReset t.part 2) else u
/-- Of built-in evaluations the one that R22 chooses. -/
def chooseEval : List (Nat × Eval) → Option (Nat × Eval)
  | [] => none
  | p :: r =>
    match chooseEval r with
    | none => if p.2.waiting then none else some p
    | some q => if !p.2.waiting && decide (q.2.prio < p.2.prio ∨ (q.2.prio = p.2.prio ∧ p.2.since ≤ q.2.since)) then some p else some q
/-- The core begins, or goes on with, a built-in evaluation (R22, R95). Its Hatbox is restored: an uncorrectable error there resets the
partition (R354). -/
def State.runEval (s : State) (p : Nat × Eval) : State :=
  let s := State.after { s with evals := s.evals.put p.1 { p.2 with running := true } } (.issue p.2.core) switchCycles
    (.evaluationCompletion p.2.part p.2.idx)
  if (badIn s.bad p.2.hatbox 0x2800).isSome then s.at_ 0 (.partitionReset p.2.part 2) else s

/-- A core chooses what to run (R22), tasks and built-in evaluations (R95) alike; a departing core chooses nothing (R350). A task whose
loads are to be issued again to a unit under test waits (R223). -/
def State.choose (s : State) (c : Nat) (here : List Task) : State :=
  let task (t : Task) : State :=
    if t.run == .preempted && t.reloads.any fun p => s.underTest (windowPa c p.1) p.2 then s
    else { s.switchTo t with todo := s.todo ++ [t.tid] }
  if s.departing c then s
  else match chooseTask here, chooseEval (s.evalsOn c) with
    | some t, none => task t
    | some t, some p => if decide (p.2.prio < t.prio ∨ (p.2.prio = t.prio ∧ t.since ≤ p.2.since)) then task t else s.runEval p
    | none, some p => s.runEval p
    | none, none => s

/-- A core's turn: it issues from its running task, or chooses one. The sequencers of its parked tasks go on. -/
def State.coreTurn (s : State) (c : Nat) : State :=
  let here := s.tasksOn c
  let seqs := here.filter fun t => (match t.run with | .parked _ => true | _ => false) && !t.seqEmpty
  let s := { s with todo := s.todo ++ seqs.map (·.tid) }
  match here.find? fun t => t.run == .running with
  | some t => { s with todo := s.todo ++ [t.tid] }
  | none => if (s.evalsOn c).any (·.2.running) then s else s.choose c here
def coreTurns (n : Nat) : List Nat → State → State
  | [], s => s
  | c :: r, s => coreTurns n r (if s.coreIssues n c then s.coreTurn c else s)

/-- The order of the turns of one cycle (R203): accesses of the shared ports take effect before those of the phase lanes. -/
def State.laneOrder (s : State) : State :=
  let lane (tid : Nat) : Bool := match s.task tid with | some t => t.st.ph == .c | none => false
  { s with todo := s.todo.filter (fun t => !lane t) ++ s.todo.filter lane }

/-- The cores that hold tasks or built-in evaluations, ascending. -/
def State.busyCores (s : State) : List Nat :=
  (s.allTasks.map (·.core) ++ s.evals.vals.map (·.core)).foldl (fun l c => insertOnce c l) []
/-- The next reference cycle begins. -/
def State.tick (s : State) : State :=
  let n := s.now
  let s := ({ s.unfocus with now := n + 1 }.beat n).tendQueues
  (coreTurns n s.busyCores s).laneOrder

/-- Bring a task into focus for its turn. -/
def State.take (s : State) (tid : Nat) : State := if s.t.tid = tid then { s with old := none } else s.focus tid

/-- The next task of the cycle takes its turn; with none left the next cycle begins.
A task that has gone meanwhile is passed over; number 0 is no task. -/
def turn (s : State) : Out :=
  match s.todo with
  | [] => .next s.tick
  | tid :: r =>
    if tid = 0 then .fault .noTask
    else
      let u := { s with todo := r }.take tid
      if u.t.tid = 0 then .next u else issueTask u

/-- The first event that is due by its clock (R6), with the others. -/
def dueTimed (reads : Clk → Nat) : List (Clk × Nat × Event) → Option (Event × List (Clk × Nat × Event))
  | [] => none
  | (c, n, e) :: r => if n ≤ reads c then some (e, r) else (dueTimed reads r).map fun q => (q.1, (c, n, e) :: q.2)

/-- Events that are due come first, those of real time before those of the clocks; then the tasks' turns. -/
def cycle (s : State) : Out :=
  let others (s : State) : Out := match dueTimed s.reads s.timed with
    | some (e, r) => runEvent e { s with timed := r }.unfocus
    | none => turn s
  match s.sched with
  | [] => others s
  | (d, e) :: r => if d ≤ s.now then runEvent e { s with sched := r }.unfocus else others s

/-! ## Placing a word where the next step fetches it -/

/-- Where the tables that place the word lie, and the address of the word: root, second table, page of code. -/
def probeRoot : Nat := 0x0200_0000
def probeTable : Nat := 0x0201_0000
def probePc : Nat := 0x0100_1000

/-- Memory with the two tables, which map addresses 0 to 2^35 to HBM for every access (R283, R284), and the word. -/
def probeMem (m : Memory) (w : Nat) : Memory :=
  ((m.setBytes (leCells probeRoot 8 (probeTable + 1))).setBytes (leCells probeTable 8 0x1F)).setBytes (leCells probePc 4 w)

/-- A task of partition 0 on core 0 whose next unit is the placed word. -/
def probeTask (tid : Nat) : Task :=
  { Task.start (BitVec.ofNat 64 probePc) 0 0 0 0 32 true 0 0 0 0 with tid := tid, run := .running }

/-- The state with a booted package, partition 0 with its first cluster, and that task, next to take its turn, with its
registers in its core's storage. -/
def placeWord (s : State) (w : Nat) : State :=
  let s := s.unfocus
  let tid := s.nextTid
  let p := s.part 0
  let k := s.core 0
  let c := s.cluster 0
  { s with
    t := probeTask tid
    nextTid := tid + 1
    mem := probeMem s.mem w
    parts := s.parts.put 0 { p with root := probeRoot, clusters := if p.clusters.contains 0 then p.clusters else 0 :: p.clusters }
    cores := s.cores.put 0 { k with phys := (List.range 32).map ((tid, ·)) ++ k.phys.take 96 }
    clusters := s.clusters.put 0 { c with tlb := c.tlb.filter fun e => e.part != 0 }
    pkg := { s.pkg with booted := true }
    sched := []
    timed := []
    todo := [tid] }

end Sys2Proof.Machine
end

