-- ==== Sys2Proof/Machine/Step.lean ====
section
/-! DEFINITION. One step of the machine: an event that is due, one task's turn in the current cycle, or the beginning of
the next cycle. -/

namespace Sys2Proof.Machine

/-- One step. -/
def step (s : State) : Host.Outcome State Fault Refusal := cycle s

/-- `s` with the word `w` placed where the next step fetches and issues it. Odlos has 32-bit words only (R30). -/
def State.withFetchWord (s : State) (nbits w : Nat) : State := placeWord s (w % 2 ^ nbits % 2 ^ 32)

end Sys2Proof.Machine
end

