-- ==== Sys2Proof/Safety.lean ====
section
/-! DEFINITION. The terms that claims use: how an instruction completes, what it leaves as it was, and what a state must be
for the simple cases. -/

namespace Sys2Proof.Machine

/-! ## How an instruction ends -/

/-- The unit has had its effect: the state `u`, with the model's own mark of how the unit ended. -/
def State.ended (u : State) : State := { u with t := { u.t with last := .done, wake := none } }
/-- The task of `u` is parked at its unit, waiting on `on` (R21, R101). -/
def State.parkedAs (u : State) (p : Park) (on : W64) : State :=
  { u with t := { u.t with run := .parked p, waitOn := on, since := u.stamp, last := .parked, wake := none }, stamp := u.stamp + 1 }

/-- The instruction answers a next state: `u`, completed. -/
def Completes (i : Instr) (s u : State) : Prop := exec i s = .next u.ended
/-- The instruction parks the task, with nothing else changed in `u`. -/
def Parks (i : Instr) (s u : State) (p : Park) (on : W64) : Prop := exec i s = .next (u.parkedAs p on)
/-- The instruction answers a next state of which P holds. -/
def Gives (i : Instr) (s : State) (P : State → Prop) : Prop := ∃ t, exec i s = .next t ∧ P t
/-- The instruction answers what raising the trap at its unit answers, with no effect of its own. -/
def Traps (i : Instr) (s : State) (c : Cause) (tval : W64) : Prop := exec i s = raise c tval s

/-- The state with a scalar register written; a write to x0 is discarded (R36). -/
def State.putX (s : State) (rd : Reg) (v : W64) : State := { s with t := { s.t with x := if rd = 0 then s.t.x else s.t.x.set rd v } }
/-- The instruction completes, writes v to rd (a write to x0 is discarded), and changes nothing else of `u`. -/
def SetsX (i : Instr) (s u : State) (rd : Reg) (v : W64) : Prop := Completes i s (u.putX rd v)

/-- What an instruction that writes scalar registers leaves as it was: every other scalar register, every byte of memory,
and all the rest of the state. -/
def ScalarFrame (ds : List Reg) (s t : State) : Prop :=
  (∀ r, r ∉ ds → t.t.xr r = s.t.xr r) ∧ (∀ a, t.mem.byteAt a = s.mem.byteAt a)
    ∧ t = { s with t := { s.t with x := t.t.x, last := .done, wake := none } }

/-- The instruction completes and writes v to rd (a write to x0 is discarded), and nothing else. -/
def WritesX (i : Instr) (s : State) (rd : Reg) (v : W64) : Prop :=
  ∃ t, exec i s = .next t ∧ t.t.xr rd = (if rd = 0 then 0 else v) ∧ ScalarFrame [rd] s t

/-- A transfer is taken to T (R54, R55): with the word after the transfer's unit fetched, its P bit fixes the return address,
which goes to the link register if there is one; the delay slot follows, then T. -/
def TakesTo (i : Instr) (s : State) (T : W64) (link : Option Reg) : Prop :=
  ∀ w s1, s.fetch s.t.nextUnit = .ok (w, s1) →
    let L := s.t.nextUnit + (if w.getLsbD 31 then 8 else 4)
    ∃ t, exec i s = .next t ∧ t.t.xfer = some T
      ∧ (match link with
          | some rd => t.t.xr rd = (if rd = 0 then 0 else L)
          | none => True)
      ∧ (∀ r, some r ≠ link → t.t.xr r = s1.t.xr r) ∧ (∀ a, t.mem.byteAt a = s1.mem.byteAt a)
      ∧ t = { s1 with t := { s1.t with x := t.t.x, xfer := some T, last := .done, wake := none } }

/-! ## When nothing is in the way -/

/-- No VLOOP capture is open. -/
def State.noCapture (s : State) : Prop := s.t.seq.cap = none
/-- The sequencer is empty, its unit is free, no capture is open, and no load is in flight. -/
def State.quiet (s : State) : Prop :=
  s.t.seq.items = [] ∧ s.rd.seq.items = [] ∧ s.t.seq.busy = false ∧ s.rd.seq.busy = false ∧ s.t.seq.cap = none ∧ s.t.seq.loads = []
    ∧ s.t.loads = []
/-- Nothing delays or refuses a scalar access of the task: no vector word or capture, no remote write, message, counter change, row load, KEEP
or DROP on its way, no wake to complete with, no compute phase, no held lock. -/
def State.calm (s : State) : Prop :=
  s.t.seq.items = [] ∧ s.rd.seq.items = [] ∧ s.t.seq.busy = false ∧ s.rd.seq.busy = false ∧ s.t.handleOps = []
    ∧ (∀ f ∈ s.sends, f.tid ≠ s.t.tid) ∧ s.t.answers = [] ∧ s.t.streams = [] ∧ s.t.seq.cap = none ∧ s.t.seq.loads = [] ∧ s.posted = [] ∧ s.t.wake = none ∧ s.t.st.ph ≠ .c
    ∧ s.rd.st.ph ≠ .c ∧ s.t.lock = none
/-- The task woken by a value (R21). -/
def State.wokenWith (s : State) (v : W64) : State := { s with t := { s.t with wake := some (.value v) } }
/-- Every task stands under its own number. -/
def State.numbered (s : State) : Prop := ∀ n t, s.task n = some t → t.tid = n
/-- Memory in its canonical form, without failing words, and served at the n bytes from pa. -/
def State.sound (s : State) (pa n : Nat) : Prop := s.mem.wf = true ∧ s.bad = [] ∧ ∀ k, k < n → s.served (pa + k) = true
/-- Every place serves its reads and writes, memory is in its canonical form, and nothing fails. -/
def State.healthy (s : State) : Prop := s.mem.wf = true ∧ s.bad = [] ∧ ∀ a, s.served a = true

/-! ## Memory -/

/-- An access of n bytes at `a` is legal and resolves to a place on a page of kind k (R173, R175, R284); s1 is the state with
the translation cached. -/
def Finds (s : State) (a : W64) (n : Nat) (need : Need) (p : Place) (k : PageKind) (s1 : State) : Prop :=
  highAddr a = false ∧ a.toNat % n = 0 ∧ ¬ (0x800000 ≤ a.toNat ∧ a.toNat < 0x01000000)
    ∧ s.locate a n need = .ok (⟨p, k⟩, s1)
/-- It resolves to physical address pa. -/
def Reaches (s : State) (a : W64) (n : Nat) (need : Need) (pa : Nat) (k : PageKind) (s1 : State) : Prop :=
  Finds s a n need (.at pa) k s1

/-- The word's n bytes at pa become v, every other byte of memory is as before. -/
def Stored (s t : State) (pa n v : Nat) : Prop :=
  (∀ k, k < n → t.mem.byteAt (pa + k) = BitVec.ofNat 8 (v / 256 ^ k))
    ∧ (∀ a, ¬ (pa ≤ a ∧ a < pa + n) → t.mem.byteAt a = s.mem.byteAt a)
/-- Nothing but memory has changed, and where a byte of `at_` lies on a MASTER page what a write to it advances: the task's record of
it, MSEQ, and the views that take it (R268, R270, R279); and where it lies in a Hatcheck's control block, what that holds (log 39), and where a collective engine waits on it, what that has seen
(R372). -/
def OnlyMemory (s t : State) (at_ : Nat → Prop) : Prop :=
  t = { s with t := { s.t with rowWrites := t.t.rowWrites }, mem := t.mem, mseq := t.mseq, parts := t.parts, sched := t.sched,
               stamp := t.stamp, engines := t.engines }
    ∧ ((∀ a, at_ a → s.plainAt a = true) → t = { s with mem := t.mem })
/-- A store of n bytes at pa: they become v, and nothing else changes. -/
def Stores (s t : State) (pa n v : Nat) : Prop := Stored s t pa n v ∧ OnlyMemory s t fun a => pa ≤ a ∧ a < pa + n
/-- A write of some cells: memory takes them, and nothing else changes. -/
def StoresCells (s t : State) (cells : List (Nat × Byte)) : Prop :=
  t.mem = s.mem.setBytes cells ∧ OnlyMemory s t fun a => ∃ c ∈ cells, c.1 = a

/-- The answer of a home is on its way: what it writes, d cycles of the core's die from now (R216), and for a row load the bytes that it
reads (R219). -/
def State.answering (s : State) (d : Nat) (rd : Option Reg) (v : W64) (regs : List (Reg × VReg)) (span : Nat × Nat := (0, 0)) : State :=
  let c := dieClk s.t.core
  { s with t := { s.t with answers := s.t.answers ++ [⟨c, s.reads c + d, rd, v, regs, span⟩] }
           timed := s.timed ++ [(c, s.reads c + d, .homeAnswer s.t.tid)] }
/-- The instruction completes with the answer of its home on its way, and changes nothing else of `u`. -/
def AnswersX (i : Instr) (s u : State) (d : Nat) (rd : Reg) (v : W64) : Prop := Completes i s (u.answering d (some rd) v [])

/-- A page operand of kind k (R289): its leaf, with the translation cached. -/
def PageAt (s : State) (a : W64) (k : PageKind) (e : TlbEntry) (s1 : State) : Prop :=
  highAddr a = false ∧ a.toNat % 8 = 0 ∧ 0x01000000 ≤ a.toNat ∧ s.xlate a.toNat = .ok (e, s1)
    ∧ e.allows { r := true, w := true } = true ∧ e.kind = k

/-- A descriptor of n bytes at `a` is read (R185, R189): its value, and the state with the translation cached. -/
def Described (s : State) (a : W64) (n : Nat) (d : Nat) (s1 : State) : Prop :=
  a.toNat % n = 0 ∧ s1.bad = [] ∧ ∃ ps, s.locatePieces n n { r := true } .plain [a] = .ok (ps, s1)
    ∧ absents (ps.map (·.place)) = [] ∧ d = s1.piecesValue n ps

/-- Pieces of n bytes that resolve to the physical addresses pa 0, pa 1, … -/
def Pieced (ps : List Piece) (pa : Nat → Nat) : Prop := ∀ j (h : j < ps.length), ps[j].place = .at (pa j)

/-! ## Vector words -/

/-- Nothing refuses or holds a vector word: its checks pass, the sequencer and its loads are empty, its unit is free, no register is bound to a
stream, and no home's answer is on its way. -/
def State.vectorReady (s : State) (i : Instr) : Prop := check i s = none ∧ s.quiet ∧ s.t.streams = [] ∧ s.t.answers = []
/-- The operands of the word are ready in this cycle (R136): it runs at once, and otherwise enters the sequencer. -/
def State.mayBegin (s : State) (i : Instr) : Prop := s.t.seq.begin s.tissued i ≤ s.tissued

/-- The state after a vector word has run, but for the times at which its unit and its results are ready (R136). -/
def State.timedAs (u t : State) : State :=
  { u with t := { u.t with seq := { u.t.seq with time := t.t.seq.time, ready := t.t.seq.ready, busy := t.t.seq.busy }, last := .done, wake := none } }

/-- What a vector word leaves as it was: every vector register but those of `ds` and LIVEM but for their bits (R27), every byte of
memory, and all else but the sequencer's record of times. -/
def VectorFrame (ds : List Reg) (s t : State) : Prop :=
  (∀ r, r ∉ ds → t.t.vr r = s.t.vr r) ∧ (∀ a, t.mem.byteAt a = s.mem.byteAt a) ∧ t.t.seq.items = []
    ∧ (∀ r : Reg, t.t.livem.getLsbD r.val = (s.t.livem.getLsbD r.val || decide (r ∈ ds ∧ r.val < s.t.allotn)))
    ∧ t = State.timedAs { s with t := { s.t with v := t.t.v, livem := t.t.livem } } t

/-- Element e of the result is f e where the element is active, else the destination's own (R127). -/
def LaneWise (i : Instr) (s : State) (rd : Reg) (pg : Pg) (w : Nat) (f : Nat → Nat) : Prop :=
  s.mayBegin i → ∃ t, exec i s = .next t ∧ VectorFrame [rd] s t
    ∧ ∀ e, e < 256 / w → elemAt w (t.t.vr rd) e = if (s.pr pg).getLsbD (w * e) then f e else elemAt w (s.vr rd) e

/-- What a word that writes a predicate leaves as it was. -/
def PredFrame (rd : Pg) (s t : State) : Prop :=
  (∀ r, r ≠ rd → t.t.pr r = s.t.pr r) ∧ (∀ a, t.mem.byteAt a = s.mem.byteAt a) ∧ t.t.seq.items = []
    ∧ t = State.timedAs { s with t := { s.t with p := t.t.p } } t

/-- The predicate pd (p0 is never written) takes f at every bit. -/
def WritesP (i : Instr) (s : State) (rd : Pg) (f : Nat → Bool) : Prop :=
  s.mayBegin i → ∃ t, exec i s = .next t ∧ PredFrame rd s t ∧ (rd ≠ 0 → ∀ k, k < 256 → (t.t.pr rd).getLsbD k = f k)

/-- A vector word that writes a scalar register: its value, and nothing else but the record of times. -/
def VectorWritesX (i : Instr) (s : State) (rd : Reg) (v : W64) : Prop :=
  s.mayBegin i → ∃ t, exec i s = .next t ∧ t.t.xr rd = (if rd = 0 then 0 else v) ∧ (∀ r, r ≠ rd → t.t.xr r = s.t.xr r)
    ∧ (∀ a, t.mem.byteAt a = s.mem.byteAt a) ∧ t = State.timedAs { s with t := { s.t with x := t.t.x } } t

/-- A vector word that changes the state to `u`, but for the record of times. -/
def VectorGives (i : Instr) (s u : State) : Prop := s.mayBegin i → ∃ t, exec i s = .next t ∧ t = u.timedAs t

/-- The word enters the empty sequencer, with no other effect, and there, once its operands are ready, raises the trap and writes nothing
(R76). A unit that waits for the views of a MASTER page is not of this kind. -/
def TrapsInSequencer (i : Instr) (s : State) (c : Cause) (tval : W64) (rec : Option (Vector W64 4)) : Prop :=
  s.t.inA = s.old.isSome → s.t.rowWait = [] → ∃ q : SeqUnit,
    let u : State := State.ended { s with t := { s.t with seq := { s.t.seq with items := [.unit q] } } }
    q.words = 1 ∧ exec i s = .next u
      ∧ (s.mayBegin i → ∃ w : State, u.seqStep = .traps s.t.wordAddr c tval rec w none ∧ w = { u with old := w.old })

/-- Of n results y in format ft, e is the first that is active and non-finite (R118, R119). -/
def FirstNonFinite (ft : Ft) (on : Nat → Bool) (n : Nat) (y : Nat → Nat) (e : Nat) : Prop :=
  e < n ∧ on e = true ∧ (decodeEl ft (y e)).nonFinite = true ∧ ∀ k, k < e → on k = true → (decodeEl ft (y k)).nonFinite = false
/-- NONFINITE of a vector word with the record of R120: its operands' formats fa and fb, the value and its first byte lane. -/
def NonFinite (i : Instr) (s : State) (fa fb : Nat) (v : FV) (lane : Nat) : Prop :=
  let r := nfRecord 0 s.t.wordAddr.toNat s.t fa fb v lane 0 0 0
  TrapsInSequencer i s .nonfinite r[0] (some r)
/-- With STATUS.NFT the first active non-finite element of the results y raises NONFINITE; with none, or without NFT, P holds (R118 to R120). -/
def UnlessNonFinite (i : Instr) (s : State) (ft : Ft) (fa fb : Nat) (on : Nat → Bool) (n : Nat) (y : Nat → Nat) (P : Prop) : Prop :=
  ((s.rd.st.nft = true → ft.isFloat = true → ∀ e, ¬ FirstNonFinite ft on n y e) → P)
    ∧ ∀ e, s.rd.st.nft = true → ft.isFloat = true → FirstNonFinite ft on n y e → NonFinite i s fa fb (decodeEl ft (y e)) (ft.width * e)
/-- The same of a word whose one result is v, of format fa. -/
def UnlessNonFiniteX (i : Instr) (s : State) (fa : Nat) (v : FV) (P : Prop) : Prop :=
  (s.rd.st.nft = false ∨ v.nonFinite = false → P) ∧ (s.rd.st.nft = true → v.nonFinite = true → NonFinite i s fa fa v 0)

/-! ## Hypervectors -/

/-- The hypervector unit of the task's core holds the task's state (R160), as after each hypervector word. -/
def State.heldHv (s : State) : State := s.setCore s.t.core { s.core s.t.core with hvTask := s.t.tid }

/-- Bit k of hypervector rd becomes f k (R163); every other hypervector and all the rest of `u` is as it was. -/
def WritesH (i : Instr) (s u : State) (rd : HIdx) (f : Nat → Bool) : Prop :=
  ∃ t, exec i s = .next t ∧ (∀ k, k < 8192 → (t.t.hr rd).getLsbD k = f k) ∧ (∀ r, r ≠ rd → t.t.hr r = u.t.hr r)
    ∧ t = State.ended { u with t := { u.t with h := t.t.h } }

/-- Counter k of an array, signed (R157). -/
def slotOf (b : BArr) (k : Nat) : Int := (b.extractLsb' (16 * k) 16).toInt

/-- Counter k of array rd becomes f k; every other array and all the rest of `u` is as it was. -/
def WritesB (i : Instr) (s u : State) (rd : HIdx) (f : Nat → Int) : Prop :=
  ∃ t, exec i s = .next t ∧ (∀ k, k < 8192 → slotOf (t.t.br rd) k = f k) ∧ (∀ r : HIdx, r.val % 4 ≠ rd.val % 4 → t.t.br r = u.t.br r)
    ∧ t = State.ended { u with t := { u.t with b := t.t.b } }

/-! ## Handles -/

/-- A handle instruction goes to its home at once: its checks pass, no KEEP or DROP and no report of the task is pending, no acquire stands in
the sequencer, and nothing has woken it (R84, R90, R252); no word of memory fails, and no unit is under test. -/
def State.handleReady (s : State) (i : Instr) : Prop :=
  check i s = none ∧ s.t.st.ph ≠ .c ∧ s.rd.st.ph ≠ .c ∧ s.t.handleOps = [] ∧ s.t.handleReport = none ∧ s.t.wake = none
    ∧ s.t.acquires = false ∧ s.bad = [] ∧ s.pkg.units = []

/-- The next unit of the task issues n cycles of its core's die from now (R383). -/
def State.heldFor (s : State) (n : Nat) : State := { s with t := { s.t with hold := s.tclock + n } }

/-- The entry of index i has been written to its home (R82); nothing else changes. -/
def State.withEntry (s : State) (part i : Nat) (e : HEntry) : State :=
  { s with mem := s.mem.setBytes (wordCells ((s.part part).hcBase + 64 + 64 * i) e.words) }

/-! ## Tasks, units and commands -/

/-- The task as it stands after an event, of which P holds. -/
def TaskIs (s : State) (n : Nat) (P : Task → Prop) : Prop := ∃ t, s.task n = some t ∧ P t

/-- A command stands in the mailbox with its doorbell, the fields of c0 legal (R320). -/
def State.commanded (s : State) (op : Nat) : Prop :=
  s.pkg.booted = true ∧ s.pkg.doorbell = true ∧ s.pkg.busy = false ∧ s.cOp = op ∧ s.c0Ok = true

/-- The running count of an event kind in a die has risen by one (R332). -/
def Counted (s t : State) (kind die : Nat) : Prop := (t.die die).events.getD kind 0 = (s.die die).events.getD kind 0 + 1

end Sys2Proof.Machine
end

