-- ==== Sys2Proof/Certificates/Slice0/Obligations.lean ====
section
/-! DEFINITION. The statements about the machine. -/

open Sys2Proof Sys2Proof.Machine

/-! ## Scalar arithmetic -/

/-- NOP and ANOP complete and change nothing; the register forms of the ALU write f(xa, xb) to xd, shifts taking the low six
bits of xb, and leave everything else as it was (R38, R50, R64).
The products, as integers: MUL writes the low 64 bits, MULH and MULHU the high 64 bits of the signed and of the unsigned
product. CLZ counts the zero bits above the highest 1 bit, CTZ those below the lowest, both 64 for 0; POPC counts the 1 bits
(R50). -/
def Obligations.AluRegisterForms : Prop :=
  (∀ (s : State) (rd ra rb : Reg), s.noCapture →
      let a := s.xr ra
      let b := s.xr rb
      Completes .nop s s ∧ Completes .anop s s
      ∧ WritesX (.add rd ra rb) s rd (a + b) ∧ WritesX (.sub rd ra rb) s rd (a - b)
      ∧ WritesX (.and rd ra rb) s rd (a &&& b) ∧ WritesX (.or rd ra rb) s rd (a ||| b) ∧ WritesX (.xor rd ra rb) s rd (a ^^^ b)
      ∧ WritesX (.sll rd ra rb) s rd (a <<< (b.toNat % 64)) ∧ WritesX (.srl rd ra rb) s rd (a >>> (b.toNat % 64))
      ∧ WritesX (.sra rd ra rb) s rd (a.sshiftRight (b.toNat % 64))
      ∧ WritesX (.slt rd ra rb) s rd (if a.toInt < b.toInt then 1 else 0)
      ∧ WritesX (.sltu rd ra rb) s rd (if a.toNat < b.toNat then 1 else 0)
      ∧ WritesX (.min rd ra rb) s rd (if a.toInt < b.toInt then a else b)
      ∧ WritesX (.max rd ra rb) s rd (if a.toInt < b.toInt then b else a)
      ∧ WritesX (.minu rd ra rb) s rd (if a.toNat < b.toNat then a else b)
      ∧ WritesX (.maxu rd ra rb) s rd (if a.toNat < b.toNat then b else a))
  ∧ ∀ (s : State) (rd ra rb : Reg), s.noCapture →
      let a := s.xr ra
      let b := s.xr rb
      WritesX (.mul rd ra rb) s rd (BitVec.ofInt 64 (a.toInt * b.toInt))
      ∧ WritesX (.mulh rd ra rb) s rd (BitVec.ofInt 64 (a.toInt * b.toInt / 2 ^ 64))
      ∧ WritesX (.mulhu rd ra rb) s rd (BitVec.ofNat 64 (a.toNat * b.toNat / 2 ^ 64))
      ∧ (∃ n : Nat, n ≤ 64 ∧ WritesX (.clz rd ra) s rd (BitVec.ofNat 64 n) ∧ a.toNat < 2 ^ (64 - n) ∧ (n < 64 → 2 ^ (63 - n) ≤ a.toNat))
      ∧ (∃ n : Nat, n ≤ 64 ∧ WritesX (.ctz rd ra) s rd (BitVec.ofNat 64 n) ∧ 2 ^ n ∣ a.toNat ∧ (n < 64 → ¬ 2 ^ (n + 1) ∣ a.toNat)
          ∧ (a = 0 → n = 64))
      ∧ WritesX (.popc rd ra) s rd (BitVec.ofNat 64 ((List.range 64).filter fun k => a.getLsbD k).length)

/-- Division never traps: with b = 0 the quotients are all ones and the remainders a; −2^63 by −1 gives −2^63 and 0; in every
other case the signed quotient is rounded toward zero and the remainder takes the sign of a (R51, R50). -/
def Obligations.Division : Prop :=
  ∀ (s : State) (rd ra rb : Reg), s.noCapture →
    let a := s.xr ra
    let b := s.xr rb
    WritesX (.div rd ra rb) s rd (if b = 0 then 0xFFFF_FFFF_FFFF_FFFF else BitVec.ofInt 64 (a.toInt.tdiv b.toInt))
    ∧ WritesX (.rem rd ra rb) s rd (if b = 0 then a else BitVec.ofInt 64 (a.toInt.tmod b.toInt))
    ∧ WritesX (.divu rd ra rb) s rd (if b = 0 then 0xFFFF_FFFF_FFFF_FFFF else BitVec.ofNat 64 (a.toNat / b.toNat))
    ∧ WritesX (.remu rd ra rb) s rd (if b = 0 then a else BitVec.ofNat 64 (a.toNat % b.toNat))
    ∧ (a.toInt = -(2 ^ 63) → b.toInt = -1 → WritesX (.div rd ra rb) s rd a ∧ WritesX (.rem rd ra rb) s rd 0)

/-- The immediate forms: Sext(imm) for the arithmetic and logic ones, imm[5:0] for the shifts; LI, LIS and LEA (R52, R53). -/
def Obligations.ImmediateForms : Prop :=
  ∀ (s : State) (rd ra : Reg) (c : BitVec 14) (n : BitVec 6), s.noCapture →
    let a := s.xr ra
    let k : W64 := BitVec.ofInt 64 c.toInt
    WritesX (.addi rd ra c) s rd (a + k) ∧ WritesX (.andi rd ra c) s rd (a &&& k) ∧ WritesX (.ori rd ra c) s rd (a ||| k)
    ∧ WritesX (.xori rd ra c) s rd (a ^^^ k) ∧ WritesX (.slti rd ra c) s rd (if a.toInt < c.toInt then 1 else 0)
    ∧ WritesX (.slli rd ra n) s rd (a <<< n.toNat) ∧ WritesX (.srli rd ra n) s rd (a >>> n.toNat)
    ∧ WritesX (.srai rd ra n) s rd (a.sshiftRight n.toNat)
    ∧ WritesX (.li rd c) s rd k
    ∧ WritesX (.lis rd ra c) s rd (BitVec.ofNat 64 (a.toNat * 2 ^ 14 + c.toNat))
    ∧ WritesX (.lea rd c) s rd (s.t.pc + BitVec.ofInt 64 (4 * c.toInt))

/-! ## Transfers, traps and the system instructions -/

/-- A branch is taken or not by its compare and goes to A + 4·Sext(off); J, JL, JR and JLR always; JL links x31, JLR its xd, with
the return address past the delay slot, whose size the P bit of its first word decides; a branch not taken changes nothing
(R54, R55). -/
def Obligations.Transfers : Prop :=
  ∀ (s : State) (rd ra rb : Reg) (c : BitVec 14) (o : BitVec 24), s.noCapture → s.t.slot = none →
    let a := s.xr ra
    let b := s.xr rb
    let B := s.t.pc + BitVec.ofInt 64 (4 * c.toInt)
    let J := s.t.pc + BitVec.ofInt 64 (4 * o.toInt)
    let branch (i : Instr) (taken : Prop) : Prop := (taken → TakesTo i s B none) ∧ (¬ taken → Completes i s s)
    branch (.beq ra rb c) (a = b) ∧ branch (.bne ra rb c) (a ≠ b)
    ∧ branch (.blt ra rb c) (a.toInt < b.toInt) ∧ branch (.bge ra rb c) (b.toInt ≤ a.toInt)
    ∧ branch (.bltu ra rb c) (a.toNat < b.toNat) ∧ branch (.bgeu ra rb c) (b.toNat ≤ a.toNat)
    ∧ TakesTo (.j o) s J none ∧ TakesTo (.jl o) s J (some 31)
    ∧ (a.toNat % 4 = 0 → TakesTo (.jr ra) s a none ∧ TakesTo (.jlr rd ra) s a (some rd))
    ∧ (a.toNat % 4 ≠ 0 → Traps (.jr ra) s .align a ∧ Traps (.jlr rd ra) s .align a)

/-- A delay slot that holds J, JL, JR, JLR, a branch, ERET or URET raises DSLOT with TVAL = the word, whatever its operands and
the mode are (R56). -/
def Obligations.DelaySlotTransfer : Prop :=
  ∀ (s : State) (i : Instr), s.t.slot ≠ none →
    (match i with
      | .j _ | .jl _ | .jr _ | .jlr _ _ | .beq _ _ _ | .bne _ _ _ | .blt _ _ _ | .bge _ _ _ | .bltu _ _ _ | .bgeu _ _ _
      | .eret | .uret => True
      | _ => False) →
    Traps i s .dslot (s.t.word.setWidth 64)

/-- SELFTEST, RESUME and TLBINV at task level raise PRIV (R42). -/
def Obligations.SupervisorOnly : Prop :=
  ∀ (s : State) (rd ra rb : Reg), s.t.st.s = false → s.noCapture →
    Traps (.selftest rd ra) s .priv (s.t.word.setWidth 64) ∧ Traps (.resume ra rb) s .priv (s.t.word.setWidth 64)
    ∧ Traps (.tlbinv rd ra) s .priv (s.t.word.setWidth 64)

/-- A trap at task level with nothing in flight (R72, R57, R213): x24 to x31 are saved, CAUSE, TVAL and EPC written, PS clear, S set,
the phase left, and execution goes on at 0x0100_0000; in a delay slot BTGT holds the target and DS is set, else BTGT stays and DS
is clear. An exchange phase ends with it, its sends discarded and what has landed in the core's receive slots cleared. Nothing else
changes. TRAP raises TRAPI with TVAL = xa, EPC where execution would have gone on (the following unit, or the target in a delay slot) and DS
clear (R64, R72); that TRAP in a delay slot keeps BTGT is a reading of R57 and R72 (log 69). While the sequencer holds words, or its last
one is not over, both wait (R77).
A vector-precise trap is delivered before the next unit, but for a delay slot or a unit in a capture that does not wait for the sequencer
(R58, R76, R77, R134): CAUSE.VEC is set, SEQADDR holds the word and ITER its pass, the record of R120 is taken, what the sequencer holds goes to
the replay area, and EPC is the next unit, or the VLOOP of an open capture. -/
def Obligations.TrapEntry : Prop :=
  (∀ (s : State) (c : Cause) (v : W64) (ra : Reg), s.quiet → s.t.answers = [] → s.t.st.s = false →
    let x : Bool := decide (s.t.st.ph = .x)
    let entered (c v epc btgt : W64) (ds : Bool) : State :=
      { (if x then s.setCore s.t.core { s.core s.t.core with xrecv := (s.core s.t.core).xrecv.filter fun e => decide (s.issued s.t.core < e.2.2.2) } else s) with
        old := none
        t := { s.t with trapSave := Vector.ofFn fun k : Fin 8 => s.t.x[k.val + 24], cause := c, tval := v, epc := epc, btgt := btgt,
                        st := { s.t.st with s := true, ps := false, ds := ds, ph := .n }, pc := 0x0100_0000, xfer := none, slot := none,
                        trapWait := false, wake := none, last := .trapped, xsend := if x then [] else s.t.xsend } }
    raise c v s = .next (entered (BitVec.ofNat 64 c.code) v s.t.pc ((s.t.slot).getD s.t.btgt) s.t.slot.isSome)
    ∧ exec (.trap ra) s = .next (entered 0x0C (s.xr ra) ((s.t.slot).getD (s.t.pc + BitVec.ofNat 64 s.t.len)) s.t.btgt false))
  ∧ (∀ (s : State) (c : Cause) (v : W64) (ra : Reg), s.noCapture → (s.t.seq.items ≠ [] ∨ s.t.seq.busy = true) →
    raise c v s = stallSeq s ∧ exec (.trap ra) s = stallSeq s)
  ∧ ∀ (s w : State) (a v : W64) (c : Cause) (rec : Option (Vector W64 4)) (err : Option Nat), s.t.run = .running → s.t.seq.busy = false →
      s.t.hold ≤ s.tclock → s.userPending = false → s.t.loads = [] → s.seqStep = .traps a c v rec w err → s.t.wake = none →
      (s.t.trapWait = true ∨ s.t.slot = none ∧ s.t.seq.cap = none) →
      issueTask s = .next (deliverVector a c v rec (w.metError err)).afterTrap
      ∧ ∀ z : State, z.t = s.t → s.t.seq.wait = none → s.t.doneA = false → s.t.matrixReport = none → s.t.answers = [] → s.t.seq.loads = [] →
          s.t.st.s = false →
          let x : Bool := decide (s.t.st.ph = .x)
          deliverVector a c v rec z =
            { (if x then z.setCore s.t.core { z.core s.t.core with xrecv := (z.core s.t.core).xrecv.filter fun e => decide (z.issued s.t.core < e.2.2.2) } else z) with
              old := none
              t := { s.t with
                trapSave := Vector.ofFn fun k : Fin 8 => s.t.x[k.val + 24], cause := BitVec.ofNat 64 (c.code + 256), tval := v
                epc := (match s.t.seq.cap with
                  | some k => k.at_
                  | none => s.t.pc)
                btgt := (s.t.slot).getD s.t.btgt, st := { s.t.st with s := true, ps := false, ds := s.t.slot.isSome, ph := .n }
                seqaddr := a, iter := BitVec.ofNat 64 s.t.passNow, nfRec := rec.getD s.t.nfRec
                replay := { items := s.t.seq.items }, seq := { s.t.seq with items := [], cap := none }
                pc := 0x0100_0000, xfer := none, slot := none, trapWait := false, wake := none, last := .trapped
                xsend := if x then [] else s.t.xsend } }

/-- A trap at S level is a double trap (R74): the record is overwritten, with BTGT and DS as R57 sets them, the task parks as HALT does and keeps
its level, and a FAULT goes to SUPCORE with the TASKID and the cause. That the phase is left, and an exchange phase's sends and what has
landed in the receive slots are discarded, is what R78 and R213 say of a trap; R74 does not say it. Nothing else changes. -/
def Obligations.DoubleTrap : Prop :=
  ∀ (s : State) (c : Cause) (v : W64), s.quiet → s.t.answers = [] → s.t.st.s = true →
    let x : Bool := decide (s.t.st.ph = .x)
    let u : State :=
      { (if x then s.setCore s.t.core { s.core s.t.core with xrecv := (s.core s.t.core).xrecv.filter fun e => decide (s.issued s.t.core < e.2.2.2) } else s) with
        t := { s.t with cause := BitVec.ofNat 64 c.code, tval := v, epc := s.t.pc, btgt := (s.t.slot).getD s.t.btgt,
                        st := { s.t.st with ds := s.t.slot.isSome, ph := .n }, run := .parked .doubleTrap, waitOn := 0, since := s.stamp,
                        last := .parked, xfer := none, slot := none, trapWait := false, wake := none,
                        xsend := if x then [] else s.t.xsend }
        stamp := s.stamp + 1 }
    raise c v s = .next (u.deliver (s.part s.t.part).supcore (coreMsg s.t.core 6 (BitVec.ofNat 48 (s.t.tid % 2 ^ 32 + c.code * 2 ^ 32))))

/-- ERET at S level restores x24 to x31 and the level, and goes to EPC: with DS clear as an ordinary unit, with DS set as the delay
slot of a transfer to BTGT; the sequencer is reloaded after a vector-precise trap. Nothing else changes. At task level it raises
ILLEGAL (R75). -/
def Obligations.ReturnFromTrap : Prop :=
  ∀ (s : State), s.quiet → s.t.slot = none →
    (s.t.st.s = false → Traps .eret s .illegal (s.t.word.setWidth 64))
    ∧ (s.t.st.s = true →
        let vec := s.t.cause.getLsbD 8
        exec .eret s = .next { s with t := { s.t with
          x := Vector.ofFn fun r : Fin 32 => if h : 24 ≤ r.val then s.t.trapSave[r.val - 24]'(by have := r.isLt; omega) else s.t.x[r]
          st := { s.t.st with s := s.t.st.ps, ps := false, ds := false }
          seq := { s.t.seq with items := if vec then s.t.replay.items else [] }
          replay := if vec then {} else s.t.replay
          pc := s.t.epc, slot := if s.t.st.ds then some s.t.btgt else none, xfer := none, last := .moved } })

/-- HALT parks the task, and completes once the task has been woken (R64). URET, while a user-level interrupt is active, restores x24 to
x31 from the shadow, clears UIA and goes to UIEPC; otherwise it raises ILLEGAL (R79). RESUME at S level sends its payload to a core
of the partition, whence it arrives after the latency of traffic between the two, and refuses another core with ACCESS (R66, R382).
Each changes nothing else. -/
def Obligations.HaltUretResume : Prop :=
  ∀ (s : State) (ra rb : Reg), s.noCapture → s.t.slot = none →
    (s.t.wake = none → Parks .halt s s .halt 0)
    ∧ (s.t.wake ≠ none → Completes .halt s s)
    ∧ (s.t.st.uia = false → Traps .uret s .illegal (s.t.word.setWidth 64))
    ∧ (s.t.st.uia = true → exec .uret s = .next { s with t := { s.t with
        x := Vector.ofFn fun r : Fin 32 => if h : 24 ≤ r.val then s.t.uiShadow[r.val - 24]'(by have := r.isLt; omega) else s.t.x[r]
        st := { s.t.st with uia := false }, pc := s.t.uiepc, last := .moved } })
    ∧ (s.t.st.s = true → s.rd.st.ph ≠ .c →
        let c := (s.xr ra).toNat
        (s.inPart s.t.part c = true →
          Completes (.resume ra rb) s (s.after (dieClk s.t.core) (s.messageLatency s.t.core c) (.resumeMessage c ((s.xr rb).setWidth 48))))
        ∧ (s.inPart s.t.part c = false → Traps (.resume ra rb) s .access (s.xr ra)))

/-- MFSR writes the register's value to xd (R67): each of the registers of R43, STATUS with its fields in the places of R69 and
zero above bit 10; that DTIME is ten nanoseconds for each 19 reference cycles, rounded down, is the model's choice (log 8), and that MTSR keeps
only the fields of CAUSE a reading (log 34).
MTSR (R67): a read-only register raises ILLEGAL at either level; CAUSE, EPC, TVAL and BTGT raise PRIV at task level; the others are
written, STATUS only in the fields that the level may write; HVCW takes the codes 0 to 2, and counters that the task holds are
saturated to the new width (R158). LIVEM is written as R62 says. -/
def Obligations.SystemRegisters : Prop :=
  (∀ (s : State) (rd : Reg), s.noCapture →
      let t := s.rd
      (∀ q ∈ ([(.cause, t.cause), (.epc, t.epc), (.tval, t.tval), (.btgt, t.btgt), (.iter, t.iter), (.taskid, BitVec.ofNat 64 (t.tid % 2 ^ 32)),
          (.tilex, t.tilex.setWidth 64), (.tiley, t.tiley.setWidth 64), (.tilez, t.tilez.setWidth 64), (.core, BitVec.ofNat 64 t.core),
          (.allotn, BitVec.ofNat 64 t.allotn), (.livem, t.livem.setWidth 64), (.ntmo, t.ntmo.setWidth 64), (.uivec, t.uivec),
          (.uiepc, t.uiepc), (.hvtie, t.hvtie.setWidth 64), (.hvcw, t.hvcw.setWidth 64), (.seqaddr, t.seqaddr),
          (.supcore, BitVec.ofNat 64 (s.part t.part).supcore), (.dtime, BitVec.ofNat 64 (s.now * 10 / 19))] : List (SReg × W64)),
        WritesX (.mfsr rd q.1) s rd q.2)
      ∧ (∃ v : W64, WritesX (.mfsr rd .status) s rd v ∧ v.toNat < 2 ^ 11
          ∧ v.getLsbD 0 = t.st.s ∧ v.getLsbD 1 = t.st.ps ∧ v.getLsbD 2 = t.st.ds ∧ v.getLsbD 3 = t.st.uie ∧ v.getLsbD 4 = t.st.uia
          ∧ v.getLsbD 5 = t.st.nft ∧ v.getLsbD 6 = t.st.apx ∧ v.getLsbD 7 = t.st.exact ∧ v.getLsbD 8 = t.st.apxs
          ∧ v.toNat / 2 ^ 9 = t.st.ph.code))
  ∧ ∀ (s : State) (ra : Reg), s.noCapture →
      let v := s.xr ra
      let t := s.t
      let w := s.t.word.setWidth 64
      (∀ r ∈ ([.iter, .taskid, .tilex, .tiley, .tilez, .core, .allotn, .dtime, .supcore, .seqaddr] : List SReg),
        Traps (.mtsr ra r) s .illegal w)
      ∧ (∀ r ∈ ([.cause, .epc, .tval, .btgt] : List SReg), t.st.s = false → Traps (.mtsr ra r) s .priv w)
      ∧ (t.st.s = true → Completes (.mtsr ra .cause) s { s with t := { t with cause := v &&& 0x1FF } }
          ∧ Completes (.mtsr ra .epc) s { s with t := { t with epc := v } } ∧ Completes (.mtsr ra .tval) s { s with t := { t with tval := v } }
          ∧ Completes (.mtsr ra .btgt) s { s with t := { t with btgt := v } }
          ∧ Completes (.mtsr ra .status) s { s with t := { t with st := { t.st with apxs := v.getLsbD 8, exact := v.getLsbD 7, apx := v.getLsbD 6, nft := v.getLsbD 5, ds := v.getLsbD 2, ps := v.getLsbD 1 } } })
      ∧ (t.st.s = false → Completes (.mtsr ra .status) s { s with t := { t with st := { t.st with apxs := v.getLsbD 8, exact := v.getLsbD 7, apx := v.getLsbD 6, nft := v.getLsbD 5 } } })
      ∧ Completes (.mtsr ra .ntmo) s { s with t := { t with ntmo := v.setWidth 32 } }
      ∧ Completes (.mtsr ra .uivec) s { s with t := { t with uivec := v &&& ~~~3 } }
      ∧ Completes (.mtsr ra .uiepc) s { s with t := { t with uiepc := v &&& ~~~3 } }
      ∧ Completes (.mtsr ra .hvtie) s { s with t := { t with hvtie := v.setWidth 2 } }
      ∧ (v.toNat % 4 = 3 → Traps (.mtsr ra .hvcw) s .illegal v)
      ∧ (v.toNat % 4 ≠ 3 → t.hvDecl = false → Completes (.mtsr ra .hvcw) s { s with t := { t with hvcw := v.setWidth 2 } })
      ∧ (v.toNat % 4 ≠ 3 → t.hvDecl = true →
          let M : Int := if v.toNat % 4 = 0 then 7 else if v.toNat % 4 = 1 then 127 else 32767
          let sat (x : Int) : Int := if M < x then M else if x < -M then -M else x
          ∃ b : Vector BArr 4, Completes (.mtsr ra .hvcw) s { s with t := { t with hvcw := v.setWidth 2, b := b } }
            ∧ ∀ r : Fin 4, ∀ k, k < 8192 → slotOf b[r] k = sat (slotOf t.b[r] k))

/-- `live xa` writes LIVEM with xa[31:0], every bit at or above ALLOTN zero, and changes no register; `mtsr livem, xa` has the same effect
(R62). -/
def Obligations.LiveMask : Prop :=
  ∀ (s : State) (ra : Reg), s.quiet →
    ∃ m : W32, Completes (.live ra) s { s with t := { s.t with livem := m } } ∧ Completes (.mtsr ra .livem) s { s with t := { s.t with livem := m } }
      ∧ ∀ k, k < 32 → m.getLsbD k = ((s.xr ra).getLsbD k && decide (k < s.t.allotn))

/-- ALLOT (R60, R61): more than 32 registers, or a hypervector state that the core or the task cannot have, raises ALLOT; else the registers
below both allotments keep their values, those gained are zero and live, those released are discarded with their stream bindings, and
the hypervector state is kept only if it was declared and stays declared. Nothing else changes. -/
def Obligations.Allotment : Prop :=
  ∀ (s : State) (ra : Reg) (hv : Bool), s.quiet →
    let n := s.xr ra
    (32 < n.toNat → Traps (.allot ra hv) s .allot n)
    ∧ (n.toNat ≤ 32 → hv = true → (isOpt s.t.core = true ∨ s.t.hvMade = false) → Traps (.allot ra hv) s .allot 0x100)
    ∧ (n.toNat ≤ 32 → (hv = true → isOpt s.t.core = false ∧ s.t.hvMade = true) → ∃ t, exec (.allot ra hv) s = .next t
        ∧ t.t.allotn = n.toNat ∧ t.t.hvDecl = hv
        ∧ (∀ r : Reg, r.val < n.toNat → t.t.v[r] = if r.val < s.t.allotn then s.t.v[r] else 0)
        ∧ (∀ r : Reg, t.t.livem.getLsbD r.val = decide (r.val < n.toNat ∧ (s.t.allotn ≤ r.val ∨ s.t.livem.getLsbD r.val = true)))
        ∧ (hv = true → s.t.hvDecl = true → t.t.h = s.t.h ∧ t.t.b = s.t.b)
        ∧ (hv = true → s.t.hvDecl = false → (∀ k : HIdx, t.t.h[k] = 0) ∧ ∀ k : Fin 4, t.t.b[k] = 0)
        ∧ t.t.streams = s.t.streams.filter (fun p => decide (p.1 < n.toNat))
        ∧ t = State.ended { s with t := { s.t with v := t.t.v, livem := t.t.livem, streams := t.t.streams, allotn := n.toNat, hvDecl := hv,
                                                   h := t.t.h, b := t.t.b } })

/-! ## Memory -/

/-- LD and LDS outside a compute phase (R175, R293, R296): the n bytes at the address, little-endian, zero- or sign-extended, go to xd; a
position that has been evicted reads as zero, and so does an absent row or block, whose counter and STATUS.APXS take note; nothing
else changes, but that what follows a load at row scope waits for the views of a MASTER page (R269). LD.d at S level reads the eight
registers that a trap has saved (R73). In a compute phase a load of the local window is recorded, with 14 units left until it delivers, and an
ordering code or a byte outside the window raises PHASE (R179, R180). -/
def Obligations.Loads : Prop :=
  (∀ (s s1 : State) (rd ra : Reg) (sz : Sz) (sc : Sc) (imm : BitVec 9) (pa : Nat) (k : PageKind), s.calm →
    let a := s.xr ra + BitVec.ofInt 64 (imm.toInt * sz.bytes)
    let n := sz.bytes
    let held (u : State) : State :=
      if sc = .row ∧ k = .master then { u with t := { u.t with rowWait := u.t.rowWait ++ granulesOf (leCells pa n 0) } } else u
    (Reaches s a n { r := true } pa k s1 → k ≠ .versioned → s1.bad = [] →
      SetsX (.ld rd ra sz sc imm) s (held s1) rd (BitVec.ofNat 64 (s1.loadLE pa n))
      ∧ SetsX (.lds rd ra sz sc imm) s (held s1) rd (BitVec.ofInt 64 (BitVec.ofNat (8 * n) (s1.loadLE pa n)).toInt))
    ∧ (Finds s a n { r := true } .evicted k s1 → SetsX (.ld rd ra sz sc imm) s s1 rd 0 ∧ SetsX (.lds rd ra sz sc imm) s s1 rd 0)
    ∧ (∀ c e, Finds s a n { r := true } (.absent c e) k s1 →
        let u : State := { s1 with mem := s1.mem.setBytes (leCells c 8 (s1.mem.readLE c 8 + 1)), t := { s1.t with st := { s1.t.st with apxs := true } } }
        SetsX (.ld rd ra sz sc imm) s u rd 0 ∧ SetsX (.lds rd ra sz sc imm) s u rd 0)
    ∧ (Reaches s a 8 { r := true } pa .versioned s1 → s1.bad = [] → sz = .d →
        SetsX (.ld rd ra sz sc imm) s s1 rd ((s1.verOf pa).value (s1.verOf pa).l))
    ∧ (Reaches s a n { r := true } pa .versioned s1 → sz ≠ .d →
        exec (.ld rd ra sz sc imm) s = raise .access a s1 ∧ exec (.lds rd ra sz sc imm) s = raise .access a s1)
    ∧ (sz = .d → ∀ j : Fin 8, a = 0x800040 + 8 * BitVec.ofNat 64 j.val →
        (s.t.st.s = true → SetsX (.ld rd ra sz sc imm) s s rd s.t.trapSave[j])
        ∧ (s.t.st.s = false → Traps (.ld rd ra sz sc imm) s .access a)))
  ∧ ∀ (s : State) (rd ra : Reg) (sz : Sz) (sc : Sc) (imm : BitVec 9) (pa : Nat), s.t.st.ph = .c →
      State.calm { s with t := { s.t with st := { s.t.st with ph := .n } } } →
      let a := s.xr ra + BitVec.ofInt 64 (imm.toInt * sz.bytes)
      let n := sz.bytes
      let v := s.loadLE pa n
      let flight (l : LoadRec) : State := { s with t := { s.t with loads := s.t.loads ++ [l] } }
      (sc = .plain → a.toNat + n ≤ 0x800000 → Reaches s a n { r := true } pa .plain s → s.bad = [] →
        Completes (.ld rd ra sz sc imm) s (flight { left := 14, rd := rd, value := BitVec.ofNat 64 v, va := a.toNat, n := n, signed := false })
        ∧ Completes (.lds rd ra sz sc imm) s
            (flight { left := 14, rd := rd, value := BitVec.ofInt 64 (BitVec.ofNat (8 * n) v).toInt, va := a.toNat, n := n, signed := true }))
      ∧ (highAddr a = false → a.toNat % n = 0 → (sc ≠ .plain ∨ 0x800000 < a.toNat + n) →
        Traps (.ld rd ra sz sc imm) s .phase a ∧ Traps (.lds rd ra sz sc imm) s .phase a)

/-- ST (R175): the low n bytes of xd go to the address, little-endian; no other byte of memory and no register changes, and nothing else but
what a write to a MASTER page advances. A word of a VIEW page, an absent place and an evicted one are refused with ACCESS. On a
VERSIONED page ST.d makes a version as STV does, or parks for want of room, and a narrower store is refused (R266). ST.d at S level
writes the eight registers that a trap has saved (R73).
What a scalar store wrote, a load of the same size at the same address of the local window reads (R4, R173, R175). -/
def Obligations.Stores : Prop :=
  (∀ (s s1 : State) (rd ra : Reg) (sz : Sz) (sc : Sc) (imm : BitVec 9) (pa : Nat) (k : PageKind), s.calm →
      let a := s.xr ra + BitVec.ofInt 64 (imm.toInt * sz.bytes)
      let n := sz.bytes
      (Reaches s a n { w := true } pa k s1 → s1.sound pa n → k ≠ .view → k ≠ .versioned → ∃ u,
        Machine.Stores s1 u pa n (s.xr rd).toNat ∧ Completes (.st rd ra sz sc imm) s (u.rowHold sc k (granulesOf (leCells pa n 0))))
      ∧ (Reaches s a n { w := true } pa .view s1 → exec (.st rd ra sz sc imm) s = raise .access a s1)
      ∧ (Finds s a n { w := true } .evicted k s1 → exec (.st rd ra sz sc imm) s = raise .access a s1)
      ∧ (∀ c e, Finds s a n { w := true } (.absent c e) k s1 → exec (.st rd ra sz sc imm) s = raise .access a s1)
      ∧ (Reaches s a n { w := true } pa .versioned s1 →
          (sz ≠ .d → exec (.st rd ra sz sc imm) s = raise .access a s1)
          ∧ (sz = .d → ∀ l u, s1.newVersion s.t.tid pa (s.xr rd) = some (l, u) → Completes (.st rd ra sz sc imm) s u)
          ∧ (sz = .d → s1.newVersion s.t.tid pa (s.xr rd) = none → Parks (.st rd ra sz sc imm) s s1 (.room pa (s.xr rd)) a))
      ∧ (sz = .d → ∀ j : Fin 8, a = 0x800040 + 8 * BitVec.ofNat 64 j.val →
          (s.t.st.s = true → Completes (.st rd ra sz sc imm) s { s with t := { s.t with trapSave := s.t.trapSave.set j (s.xr rd) } })
          ∧ (s.t.st.s = false → Traps (.st rd ra sz sc imm) s .access a)))
  ∧ ∀ (s : State) (rd rs ra : Reg) (sz : Sz) (imm : BitVec 9), s.calm → s.old = none → (∀ u ∈ s.allTasks, u.saved = false) →
      s.evals = [] → s.parts.vals.all (fun p => decide (p.hcCapacity * 64 + 64 + p.hcBase ≤ 0xF00000000000 ∧ p.kvdesc + 32 * p.kvn ≤ 0xF00000000000)) = true →
      s.pkg.units = [] →
      let a := s.xr ra + BitVec.ofInt 64 (imm.toInt * sz.bytes)
      a.toNat + sz.bytes ≤ 0x200000 → a.toNat % sz.bytes = 0 → assigned (windowPa s.t.core a.toNat) = true →
      assigned (windowPa s.t.core a.toNat + (sz.bytes - 1)) = true → s.sound (windowPa s.t.core a.toNat) sz.bytes →
      ∃ t u, exec (.st rs ra sz .plain imm) s = .next t ∧ exec (.ld rd ra sz .plain imm) t = .next u
        ∧ (rd ≠ 0 → u.t.xr rd = BitVec.ofNat 64 ((s.xr rs).toNat % 256 ^ sz.bytes))

/-- The atomics (R215, R216): at a word whose home grants the request, the old value, sign-extended, is on its way to xd, with the latency
of the path and the home, and the word holds f(old, operand), or stays where ACAS's compare with xd fails; nothing else changes but
what a write to a MASTER page advances, and the home's record of a request refused before (R214).
The cycle from which the answer's latency counts is the model's choice (log 5). -/
def Obligations.Atomics : Prop :=
  ∀ (s s1 : State) (rd ra rb : Reg) (dbl : Bool) (sc : Sc) (pa : Nat) (k : PageKind),
    let n := if dbl then 8 else 4
    s.calm → Reaches s (s.xr ra) n { r := true, w := true } pa k s1 → k ∉ [.view, .versioned, .kv] → pa < 0xFC0000000000 →
    s1.sound pa n → s1.lockGrant (lockKey pa) s.t.tid = true →
    let m := 256 ^ n
    let old := s1.loadLE pa n
    let b := (s.xr rb).toNat % m
    let int (x : Nat) : Int := if 2 * x < m then x else (x : Int) - m
    let s2 := s1.lockServed (lockKey pa) s.t.tid
    let does (i : Instr) (new : Option Nat) : Prop := ∃ u,
      (match new with
        | some v => Machine.Stores s2 u pa n v
        | none => u = s2)
      ∧ AnswersX i s (u.rowHold sc k (granulesOf (leCells pa n 0))) (s1.atomicLatency s.t.core pa (decide ((s.xr ra).toNat < 0x01000000))) rd
          (BitVec.ofInt 64 (int old))
    does (.aadd rd ra rb dbl sc) (some ((old + b) % m)) ∧ does (.aand rd ra rb dbl sc) (some (old &&& b))
    ∧ does (.aor rd ra rb dbl sc) (some (old ||| b)) ∧ does (.axor rd ra rb dbl sc) (some (old ^^^ b))
    ∧ does (.amin rd ra rb dbl sc) (some (if int b < int old then b else old))
    ∧ does (.amax rd ra rb dbl sc) (some (if int old < int b then b else old))
    ∧ does (.aswap rd ra rb dbl sc) (some b)
    ∧ does (.acas rd ra rb dbl sc) (if old = (s.xr rd).toNat % m then some b else none)

/-- LDLK and STUL (R214, R217): LDLK takes the word's lock bit, and its old value, sign-extended, is on its way to xd; the task then holds the lock of that
address and size. While the bit is held the home records the request, up to eight of them, and the core tries again 8 cycles later.
STUL at the held address and size stores xd and clears the bit; without a held lock, or at another address or size, it raises ILLEGAL, and
so does LDLK of a task that holds a lock. Nothing else changes but what a write to a MASTER page advances.
The cycle from which the answer's latency counts is the model's choice (log 5). -/
def Obligations.Locks : Prop :=
  ∀ (s s1 : State) (rd ra : Reg) (dbl : Bool) (sc : Sc) (pa : Nat) (k : PageKind),
    let n := if dbl then 8 else 4
    State.calm { s with t := { s.t with lock := none } } →
    Reaches s (s.xr ra) n { r := true, w := true } pa k s1 → k ∉ [.view, .versioned, .kv] → pa < 0xFC0000000000 → s1.sound pa n →
    let m := 256 ^ n
    let old := s1.loadLE pa n
    let int : Int := if 2 * old < m then old else (old : Int) - m
    let key := lockKey pa
    let gs := granulesOf (leCells pa n 0)
    (s.t.lock = none → s1.lockGrant key s.t.tid = true →
      AnswersX (.ldlk rd ra dbl sc) s
        (State.rowHold { s1 with
          lockQueue := s1.lockQueue.filter fun l => !(l.1 == key.1 && l.2.1 == key.2 && l.2.2 == s.t.tid)
          locks := (key.1, key.2, s.t.tid) :: s1.locks
          t := { s1.t with lock := some (s.xr ra, n, pa) } } sc k gs)
        (s1.atomicLatency s.t.core pa (decide ((s.xr ra).toNat < 0x01000000))) rd (BitVec.ofInt 64 int))
    ∧ (s.t.lock = none → s1.lockGrant key s.t.tid = false →
        let q := s1.lockQueue.filter fun l => l.1 == key.1 && l.2.1 == key.2
        exec (.ldlk rd ra dbl sc) s = stall { s1 with
          lockQueue := if q.any (fun l => l.2.2 == s.t.tid) || decide (8 ≤ q.length) then s1.lockQueue else s1.lockQueue ++ [(key.1, key.2, s.t.tid)]
          t := { s1.t with lockWait := true }
          timed := s1.timed ++ [(dieClk s.t.core, s1.reads (dieClk s.t.core) + 8, .lockRetry s.t.tid)] })
    ∧ (s.t.lock ≠ none → exec (.ldlk rd ra dbl sc) s = raise .illegal (s.xr ra) s1)
    ∧ (∀ held, s.t.lock = some (s.xr ra, n, held) → ∃ u, Machine.Stores s1 u pa n (s.xr rd).toNat
      ∧ Completes (.stul rd ra dbl sc) s
          (let v := u.rowHold sc k gs
           { v with locks := v.locks.filter (fun l => !(l.1 == (lockKey held).1 && l.2.1 == (lockKey held).2)), t := { v.t with lock := none } }))
    ∧ ((∀ held, s.t.lock ≠ some (s.xr ra, n, held)) → exec (.stul rd ra dbl sc) s = raise .illegal (s.xr ra) s1)

/-- Versioned words (R263, R265): LDVL answers the last version and LDV a held one, parks on one that is to come and raises VERSION for one
reclaimed; STV makes the next version while fewer than four are held, writes the word and gives the version to the LDVs that park on it,
else it parks; RECLAIM raises the floor to the version named, but not past the last, and lets parked stores proceed. Each answers its
number or value from the home.
Full-empty words (R257, R259, R260): LDF and LDFE load a full word at once, LDFE emptying it, and park on an empty one; STF stores and fills,
whereupon every LDF that parks on the word completes with its value, and of the LDFEs the one that has parked longest, which empties it
again; STE empties. A parked LDF or LDFE completes with what its wake brings. Nothing else changes but what
a write to a MASTER page advances. The cycle from which an answer's latency counts is the model's choice (log 5). -/
def Obligations.VersionedAndFullEmpty : Prop :=
  (∀ (s s1 : State) (rd ra rb : Reg) (sc : Sc) (pa : Nat), s.calm → 0x01000000 ≤ (s.xr ra).toNat →
      let a := s.xr ra
      let d := s1.atomicLatency s.t.core pa false
      let w := s1.verOf pa
      let v : W16 := (s.xr rb).setWidth 16
      (Reaches s a 8 { r := true } pa .versioned s1 → s1.bad = [] →
        AnswersX (.ldvl rd ra sc) s s1 d rd (w.value w.l)
        ∧ (ahead v w.l = false → ahead w.f v = false → AnswersX (.ldv rd ra rb sc) s s1 d rd (w.value v))
        ∧ (ahead v w.l = true → Parks (.ldv rd ra rb sc) s s1 (.version pa v) a)
        ∧ (ahead v w.l = false → ahead w.f v = true → exec (.ldv rd ra rb sc) s = raise .version a s1))
      ∧ (∀ x, SetsX (.ldv rd ra rb sc) (s.wokenWith x) (s.wokenWith x) rd x ∧ SetsX (.stv rd ra rb sc) (s.wokenWith x) (s.wokenWith x) rd x)
      ∧ (Reaches s a 8 { w := true } pa .versioned s1 → s1.sound pa 8 →
        ((w.l - w.f).toNat ≠ 3 → ∃ u,
          Machine.Stores { s1 with versions := s1.versions.put pa ⟨w.f, w.l + 1, w.vals ++ [s.xr rb]⟩ } u pa 8 (s.xr rb).toNat
          ∧ AnswersX (.stv rd ra rb sc) s (wakeVersion pa (w.l + 1) (s.xr rb) u.allTasks u) d rd ((w.l + 1).setWidth 64)
          ∧ ((∀ x ∈ u.allTasks, x.run ≠ .parked (.version pa (w.l + 1))) → wakeVersion pa (w.l + 1) (s.xr rb) u.allTasks u = u))
        ∧ ((w.l - w.f).toNat = 3 → Parks (.stv rd ra rb sc) s s1 (.room pa (s.xr rb)) a)
        ∧ (let v' := if ahead v w.l then w.l else v
           let f := if ahead v' w.f then v' else w.f
           let u : State := { s1 with versions := s1.versions.put pa ⟨f, w.l, w.vals.drop (f - w.f).toNat⟩ }
           AnswersX (.reclaim rd ra rb sc) s (admitStores pa 4 u) d rd (f.setWidth 64)
           ∧ ((∀ x ∈ u.allTasks, ∀ y, x.run ≠ .parked (.room pa y)) → admitStores pa 4 u = u))))
  ∧ ∀ (s s1 : State) (rd ra rb : Reg) (sc : Sc) (pa : Nat), s.calm → 0x01000000 ≤ (s.xr ra).toNat →
      let a := s.xr ra
      let v := BitVec.ofNat 64 (s1.loadLE pa 8)
      (Reaches s a 8 { r := true } pa .fe s1 → s1.bad = [] →
        (s1.isFull pa = true → SetsX (.ldf rd ra sc) s s1 rd v) ∧ (s1.isFull pa = false → Parks (.ldf rd ra sc) s s1 (.full pa false) a))
      ∧ (Reaches s a 8 { r := true, w := true } pa .fe s1 → s1.bad = [] →
        (s1.isFull pa = true → SetsX (.ldfe rd ra sc) s { s1 with fullBits := s1.fullBits.put pa false } rd v)
        ∧ (s1.isFull pa = false → Parks (.ldfe rd ra sc) s s1 (.full pa true) a))
      ∧ (∀ x, SetsX (.ldf rd ra sc) (s.wokenWith x) (s.wokenWith x) rd x ∧ SetsX (.ldfe rd ra sc) (s.wokenWith x) (s.wokenWith x) rd x)
      ∧ (Reaches s a 8 { w := true } pa .fe s1 → s1.sound pa 8 →
        Completes (.ste ra sc) s { s1 with fullBits := s1.fullBits.put pa false }
        ∧ ∃ u, Machine.Stores s1 u pa 8 (s.xr rb).toNat
          ∧ let full : State := { u with fullBits := u.fullBits.put pa true }
            let woken := (full.allTasks.filter fun t => t.run == .parked (.full pa false)).foldl (fun z t => z.fullWake pa t) full
            Completes (.stf ra rb sc) s (match oldest (fun t => t.run == .parked (.full pa true)) woken.allTasks with
              | none => woken
              | some t => State.fullWake { woken with fullBits := woken.fullBits.put pa false } pa t))

/-- FENCE (R254, R255): once every earlier access of the task has been performed it writes the failure record, COUNT in bits 15:8, REFUSED in bit 1
and DEAD in bit 0, and clears it, and at row scope the record of written MASTER granules; until then it stalls without effect. Nothing
else changes. -/
def Obligations.Fence : Prop :=
  ∀ (s : State) (rd : Reg) (sc : Sc), s.quiet → s.rd.st.ph ≠ .c → s.t.handleReport = none →
    (s.settled = true → (sc = .row → s.t.rowWrites.all s.published = true) →
      SetsX (.fence rd sc) s { s with t := { s.t with failCount := 0, failRefused := false, failDead := false,
                                                      rowWrites := if sc = .row then [] else s.t.rowWrites } } rd
        (BitVec.ofNat 64 (256 * s.t.failCount + (if s.t.failRefused then 2 else 0) + (if s.t.failDead then 1 else 0))))
    ∧ (s.settled = false → exec (.fence rd sc) s = stall s)
    ∧ (sc = .row → s.t.rowWrites.all s.published = false → exec (.fence rd sc) s = stall s)

/-! ## Vector words -/

/-- Vector arithmetic (R139, R140), the second operand a register or, in the .x forms, the low bits of a scalar: in a float format
the exact result rounded once, in an integer format the result modulo the element's width; the destination keeps its inactive
elements. With STATUS.NFT the first active non-finite result raises NONFINITE in the sequencer, with its record, and the word writes
nothing (R118 to R120). -/
def Obligations.VectorArithmetic : Prop :=
  ∀ (s : State) (rd ra rb : Reg) (pg : Pg) (ft : Ft),
    let w := ft.width
    let m := 256 ^ w
    let a (e : Nat) := elemAt w (s.vr ra) e
    let d (e : Nat) := elemAt w (s.vr rd) e
    let int (x : Nat) : Int := if 2 * x < m then x else (x : Int) - m
    let does (i : Instr) (real : Nat → Nat) (whole : Nat → Nat) : Prop :=
      UnlessNonFinite i s ft ft.code ft.code (fun e => (s.pr pg).getLsbD (w * e)) (256 / w) real
        (LaneWise i s rd pg w (if ft.isFloat then real else whole))
    let forms (b : Nat → Nat) (add sub mul mulz fma fmaz min max : Instr) : Prop :=
      let F (f : FV → FV → FV → FV) (e : Nat) := roundNE ft (f (decodeEl ft (a e)) (decodeEl ft (b e)) (decodeEl ft (d e)))
      does add (F fun x y _ => FV.add x y) (fun e => (a e + b e) % m)
      ∧ does sub (F fun x y _ => FV.sub x y) (fun e => (a e + m - b e) % m)
      ∧ does mul (F fun x y _ => FV.mul x y) (fun e => a e * b e % m)
      ∧ (ft.isFloat = true → does mulz (F fun x y _ => FV.mulz x y) (fun _ => 0))
      ∧ does fma (F fun x y z => FV.add (FV.mul x y) z) (fun e => (a e * b e + d e) % m)
      ∧ (ft.isFloat = true → does fmaz (F fun x y z => FV.add (FV.mulz x y) z) (fun _ => 0))
      ∧ does min (fun e => minEl ft (a e) (b e)) (fun e => if int (b e) < int (a e) then b e else a e)
      ∧ does max (fun e => maxEl ft (a e) (b e)) (fun e => if int (a e) < int (b e) then b e else a e)
    (s.vectorReady (.vadd rd ra rb pg ft) → forms (elemAt w (s.vr rb)) (.vadd rd ra rb pg ft) (.vsub rd ra rb pg ft)
      (.vmul rd ra rb pg ft) (.vmulz rd ra rb pg ft) (.vfma rd ra rb pg ft) (.vfmaz rd ra rb pg ft) (.vmin rd ra rb pg ft) (.vmax rd ra rb pg ft))
    ∧ (s.vectorReady (.vaddX rd ra rb pg ft) → forms (fun _ => (s.xr rb).toNat % m) (.vaddX rd ra rb pg ft) (.vsubX rd ra rb pg ft)
      (.vmulX rd ra rb pg ft) (.vmulzX rd ra rb pg ft) (.vfmaX rd ra rb pg ft) (.vfmazX rd ra rb pg ft) (.vminX rd ra rb pg ft) (.vmaxX rd ra rb pg ft))

/-- The logic and shift words (R141): bitwise on integer elements, shift counts taken modulo the element's width.
The compares (R142): all bits of an active element take the outcome, those of an inactive one are 0; a NaN compares unequal and unordered. VCNAN
and VCINF test one register. -/
def Obligations.VectorLogicAndCompares : Prop :=
  (∀ (s : State) (rd ra rb : Reg) (pg : Pg) (ft : Ft), s.vectorReady (.vand rd ra rb pg ft) → ft.isFloat = false →
      let w := ft.width
      let n := 8 * w
      let a (e : Nat) : BitVec n := BitVec.ofNat n (elemAt w (s.vr ra) e)
      let b (e : Nat) : BitVec n := BitVec.ofNat n (elemAt w (s.vr rb) e)
      let k (e : Nat) := (b e).toNat % n
      let does (i : Instr) (f : Nat → BitVec n) : Prop := LaneWise i s rd pg w (fun e => (f e).toNat)
      does (.vand rd ra rb pg ft) (fun e => a e &&& b e) ∧ does (.vor rd ra rb pg ft) (fun e => a e ||| b e)
      ∧ does (.vxor rd ra rb pg ft) (fun e => a e ^^^ b e) ∧ does (.vandn rd ra rb pg ft) (fun e => a e &&& ~~~ b e)
      ∧ does (.vshl rd ra rb pg ft) (fun e => a e <<< k e) ∧ does (.vshr rd ra rb pg ft) (fun e => a e >>> k e)
      ∧ does (.vsar rd ra rb pg ft) (fun e => (a e).sshiftRight (k e)) ∧ does (.vrotl rd ra rb pg ft) (fun e => (a e).rotateLeft (k e)))
  ∧ ∀ (s : State) (rd : Pg) (ra rb : Reg) (pg : Pg) (ft : Ft), s.vectorReady (.vceq rd ra rb pg ft) →
      let w := ft.width
      let x (e : Nat) := decodeEl ft (elemAt w (s.vr ra) e)
      let y (e : Nat) := decodeEl ft (elemAt w (s.vr rb) e)
      let does (i : Instr) (f : Nat → Bool) : Prop := WritesP i s rd (fun k => (s.pr pg).getLsbD (k / w * w) && f (k / w))
      does (.vceq rd ra rb pg ft) (fun e => FV.eq (x e) (y e)) ∧ does (.vcne rd ra rb pg ft) (fun e => !FV.eq (x e) (y e))
      ∧ does (.vclt rd ra rb pg ft) (fun e => FV.lt (x e) (y e)) ∧ does (.vcgt rd ra rb pg ft) (fun e => FV.lt (y e) (x e))
      ∧ does (.vcle rd ra rb pg ft) (fun e => FV.lt (x e) (y e) || FV.eq (x e) (y e))
      ∧ does (.vcge rd ra rb pg ft) (fun e => FV.lt (y e) (x e) || FV.eq (x e) (y e))
      ∧ does (.vcnan rd ra pg ft) (fun e => (x e).isNaN) ∧ does (.vcinf rd ra pg ft) (fun e => (x e).isInf)

/-- Moves and predicate words (R143): VMOV and VSEL work by bytes, VBCAST by elements; the predicate words work over all 256 bits. -/
def Obligations.MovesAndPredicates : Prop :=
  ∀ (s : State) (rd ra rb : Reg) (pg qd qa qb : Pg) (ft : Ft), s.vectorReady (.vadd rd ra rb pg ft) →
    LaneWise (.vmov rd ra pg) s rd pg 1 (elemAt 1 (s.vr ra))
    ∧ (s.mayBegin (.vsel rd ra rb pg) → ∃ t, exec (.vsel rd ra rb pg) s = .next t ∧ VectorFrame [rd] s t
        ∧ ∀ e, e < 256 → elemAt 1 (t.t.vr rd) e = if (s.pr pg).getLsbD e then elemAt 1 (s.vr ra) e else elemAt 1 (s.vr rb) e)
    ∧ LaneWise (.vbcast rd rb pg ft) s rd pg ft.width (fun _ => (s.xr rb).toNat % 256 ^ ft.width)
    ∧ WritesP (.pand qd qa qb) s qd (fun k => (s.pr qa).getLsbD k && (s.pr qb).getLsbD k)
    ∧ WritesP (.por qd qa qb) s qd (fun k => (s.pr qa).getLsbD k || (s.pr qb).getLsbD k)
    ∧ WritesP (.pxor qd qa qb) s qd (fun k => (s.pr qa).getLsbD k != (s.pr qb).getLsbD k)
    ∧ WritesP (.pnot qd qa) s qd (fun k => !(s.pr qa).getLsbD k)

/-- The permutes (R146), by elements: VSHUF by the indices in vb modulo the count, VROTR and the slides by the scalar, VZIP and VUNZIP.
Lane and window access (R148, R149): VEXT reads an element, sign-extended on integers; VINS writes one; VIOTA counts the active elements below;
VRRD and VRWR reach the register that the index names; an index past the window raises WINDOW with TVAL = the index, in the sequencer, and
nothing is written. -/
def Obligations.PermutesAndLanes : Prop :=
  (∀ (s : State) (rd ra rb : Reg) (pg : Pg) (ft : Ft), s.vectorReady (.vadd rd ra rb pg ft) →
      let w := ft.width
      let n := 256 / w
      let a (e : Nat) := elemAt w (s.vr ra) e
      let b (e : Nat) := elemAt w (s.vr rb) e
      let k := (s.xr rb).toNat
      LaneWise (.vshuf rd ra rb pg ft) s rd pg w (fun e => a (b e % n))
      ∧ LaneWise (.vrotr rd ra rb pg ft) s rd pg w (fun e => a ((e + k) % n))
      ∧ LaneWise (.vslup rd ra rb pg ft) s rd pg w (fun e => if k ≤ e then a (e - k) else 0)
      ∧ LaneWise (.vsldn rd ra rb pg ft) s rd pg w (fun e => if e + k < n then a (e + k) else 0)
      ∧ LaneWise (.vzip rd ra rb pg ft) s rd pg w (fun e => if e % 2 = 0 then a (e / 2) else b (e / 2))
      ∧ LaneWise (.vunzip rd ra rb pg ft) s rd pg w (fun e => if e < n / 2 then a (2 * e) else b (2 * (e - n / 2))))
  ∧ ∀ (s : State) (rd ra rb : Reg) (pg : Pg) (ft : Ft) (len : Fin 8), s.vectorReady (.vadd rd ra ra pg ft) →
      let w := ft.width
      let j := (s.xr rb).toNat % (256 / w)
      let v := elemAt w (s.vr ra) j
      let k := (s.xr rb).toNat
      VectorWritesX (.vext rd ra rb ft) s rd (if ft.isFloat then BitVec.ofNat 64 v else BitVec.ofInt 64 (BitVec.ofNat (8 * w) v).toInt)
      ∧ (s.mayBegin (.vins rd ra rb ft) → ∃ t, exec (.vins rd ra rb ft) s = .next t ∧ VectorFrame [rd] s t
          ∧ ∀ e, e < 256 / w → elemAt w (t.t.vr rd) e = if e = j then (s.xr ra).toNat % 256 ^ w else elemAt w (s.vr rd) e)
      ∧ LaneWise (.viota rd pg ft) s rd pg w
          (fun e => ((List.range e).filter fun q => (s.pr pg).getLsbD (w * q)).length % 256 ^ w)
      ∧ (∀ h : k ≤ len.val, ∀ h2 : ra.val + len.val < s.rd.allotn, ∀ h3 : ra.val + len.val < 32,
          LaneWise (.vrrd rd ra rb pg len) s rd pg 1 (elemAt 1 (s.vr ⟨ra.val + k, by omega⟩)))
      ∧ (∀ h : k ≤ len.val, ∀ h2 : rd.val + len.val < s.rd.allotn, ∀ h3 : rd.val + len.val < 32,
          LaneWise (.vrwr rd ra rb pg len) s ⟨rd.val + k, by omega⟩ pg 1 (elemAt 1 (s.vr ra)))
      ∧ (len.val < k → ra.val + len.val < s.rd.allotn → ra.val + len.val < 32 → TrapsInSequencer (.vrrd rd ra rb pg len) s .window (s.xr rb) none)
      ∧ (len.val < k → rd.val + len.val < s.rd.allotn → rd.val + len.val < 32 → TrapsInSequencer (.vrwr rd ra rb pg len) s .window (s.xr rb) none)

/-- Conversion and the special functions (R144, R147, R122): VCVT converts each active element of the wider count and clears the rest of the
register; the seven functions give f of each active element under the EXACT and APX flags. With STATUS.NFT the first active non-finite
result raises NONFINITE in the sequencer, with its record, and the word writes nothing (R118 to R120).
Without EXACT the functions are free values inside the bound of R122 (log 10). -/
def Obligations.ConvertAndFunctions : Prop :=
  ∀ (s : State) (rd ra : Reg) (pg : Pg) (ft fd : Ft) (rtz : Bool), s.vectorReady (.vadd rd ra ra pg ft) →
    let n := 256 / Nat.max ft.width fd.width
    let on (g : Ft) (e : Nat) : Bool := (s.pr pg).getLsbD (g.width * e)
    let does (i : Instr) (f : SF) : Prop :=
      let r := lanes ft.width (fun _ a _ _ => f.eval ft s.rd.st.exact s.rd.st.apx a (decodeEl ft a)) (s.pr pg) (s.vr ra) 0 (s.vr rd)
      UnlessNonFinite i s ft ft.code ft.code (on ft) (256 / ft.width) (elemAt ft.width r)
        (s.mayBegin i → ∃ t, exec i s = .next t ∧ VectorFrame [rd] s t ∧ t.t.vr rd = r)
    let y (e : Nat) := if n ≤ e then 0 else convertEl ft fd rtz (elemAt ft.width (s.vr ra) e) % 256 ^ fd.width
    UnlessNonFinite (.vcvt rd ra rtz fd pg ft) s fd ft.code fd.code (on fd) (256 / fd.width) y
      (s.mayBegin (.vcvt rd ra rtz fd pg ft) → ∃ t, exec (.vcvt rd ra rtz fd pg ft) s = .next t ∧ VectorFrame [rd] s t
        ∧ ∀ e, e < 256 / fd.width → elemAt fd.width (t.t.vr rd) e = if n ≤ e ∨ on fd e = true then y e else elemAt fd.width (s.vr rd) e)
    ∧ does (.vexp2 rd ra pg ft) .exp2 ∧ does (.vlog2 rd ra pg ft) .log2 ∧ does (.vrcp rd ra pg ft) .rcp ∧ does (.vrsq rd ra pg ft) .rsq
    ∧ does (.vexp rd ra pg ft) .exp ∧ does (.vtanh rd ra pg ft) .tanh ∧ does (.vsilu rd ra pg ft) .silu

/-- The reductions (R145): on integers the sum, extremes, largest magnitude and saturated sum of squares of the active elements, as 64-bit values; on
floats the fp32 result of the tree; with STATUS.NFT one that is not finite raises NONFINITE in the sequencer, with its record, and the word
writes nothing (R118 to R120). -/
def Obligations.Reductions : Prop :=
  ∀ (s : State) (rd ra : Reg) (pg : Pg) (ft : Ft), s.vectorReady (.vadd ra ra ra pg ft) →
    let w := ft.width
    let m := 256 ^ w
    let int (x : Nat) : Int := if 2 * x < m then x else (x : Int) - m
    let on := (List.range (256 / w)).filter fun e => (s.pr pg).getLsbD (w * e)
    let xs := on.map fun e => int (elemAt w (s.vr ra) e)
    let does (i : Instr) (f : Red) (whole : Int) : Prop :=
      let v := f.float ft (s.pr pg) (s.vr ra)
      if ft.isFloat then UnlessNonFiniteX i s ft.code v (VectorWritesX i s rd (BitVec.ofNat 64 (roundNE .fp32 v)))
      else VectorWritesX i s rd (BitVec.ofInt 64 whole)
    does (.vrsum rd ra pg ft) .sum (xs.foldl (· + ·) 0)
    ∧ does (.vrmax rd ra pg ft) .max (xs.foldl max (-(m / 2 : Nat)))
    ∧ does (.vrmin rd ra pg ft) .min (xs.foldl min ((m / 2 : Nat) - 1))
    ∧ does (.vramax rd ra pg ft) .amax (xs.foldl (fun q x => max q (x.natAbs : Int)) 0)
    ∧ does (.vrssq rd ra pg ft) .ssq (min (2 ^ 63 - 1) (xs.foldl (fun q x => q + x * x) 0))

/-- Vector loads (R182): with every piece that holds an active byte located at a physical address, each active byte is the byte of its piece there, and
the others keep their value: pieces of 64 bytes in a row for VLD, of 32 bytes at the strided or indexed addresses for VLDS and VLDX, whose
base and stride are multiples of 32. Nothing else changes, but that what follows a load at row scope waits for the views of a MASTER
page (R269). In a compute phase the bytes are recorded, and due 14 issue cycles later; a first piece with an ordering code or outside the local
window raises PHASE in the sequencer (R179, R180). -/
def Obligations.VectorLoads : Prop :=
  ∀ (s s1 : State) (rd ra rb : Reg) (pg : Pg) (sc : Sc) (qs : List (Nat × Piece)) (pa : Nat → Nat),
    s.vectorReady (.vld rd ra rb pg sc) → s.posted = [] → s1.bad = [] →
    (∀ q ∈ qs, q.2.place = .at (pa q.1)) →
    let a := s.xr ra
    let b := s.xr rb
    let does (i : Instr) (n : Nat) (addr : Nat → W64) : Prop :=
      let located : Prop := vecPieces true n { r := true } sc (activePieces n (s.pr pg) addr) s = .ok (qs, s1)
      let u := piecesRow sc n (qs.map (·.2)) s1
      let byte (k : Nat) : Byte := s1.byteAt (pa (k / n) + k % n)
      (located → s.t.st.ph ≠ .c → s.mayBegin i → ∃ t, exec i s = .next t ∧ VectorFrame [rd] u t
        ∧ ∀ k, k < 256 → elemAt 1 (t.t.vr rd) k = if (s.pr pg).getLsbD k then (byte k).toNat else elemAt 1 (s.vr rd) k)
      ∧ (located → s.t.st.ph = .c → s.mayBegin i → ∃ t l, exec i s = .next t
        ∧ t = State.timedAs { u with t := { u.t with seq := { u.t.seq with loads := [l] } } } t ∧ l.due = s.tissued + 14 ∧ l.vr = rd
        ∧ ∀ k v, (k, v) ∈ l.bytes ↔ k < 256 ∧ (s.pr pg).getLsbD k = true ∧ v = byte k)
      ∧ (s.t.st.ph = .c → ∀ q rest, activePieces n (s.pr pg) addr = q :: rest → highAddr q.2 = false → q.2.toNat % n = 0 →
        (sc ≠ .plain ∨ 0x800000 < q.2.toNat + n) → TrapsInSequencer i s .phase q.2 none)
    does (.vld rd ra rb pg sc) 64 (fun j => a + b + BitVec.ofNat 64 (64 * j))
    ∧ (a.toNat % 32 = 0 → b.toNat % 32 = 0 → does (.vlds rd ra rb pg sc) 32 (fun j => a + BitVec.ofNat 64 j * b))
    ∧ (a.toNat % 32 = 0 → does (.vldx rd ra rb pg sc) 32 (fun j => a + BitVec.ofNat 64 (32 * (b.toNat / 256 ^ j % 256))))

/-- Vector stores (R182): with every piece that holds an active byte located, and no two pieces at one place, each active byte goes to the byte of its
piece, and no other byte of memory, no register and nothing else changes, but what a write to a MASTER page advances. -/
def Obligations.VectorStores : Prop :=
  ∀ (s s1 : State) (rd ra rb : Reg) (pg : Pg) (sc : Sc) (qs : List (Nat × Piece)) (pa : Nat → Nat),
    s.vectorReady (.vst rd ra rb pg sc) → s.posted = [] → s1.bad = [] → s1.mem.wf = true → (∀ a, s1.served a = true) →
    (∀ q ∈ qs, q.2.place = .at (pa q.1)) →
    let a := s.xr ra
    let b := s.xr rb
    let does (i : Instr) (n : Nat) (addr : Nat → W64) : Prop :=
      vecPieces true n { w := true } sc (activePieces n (s.pr pg) addr) s = .ok (qs, s1) →
      (∀ j l, j < 256 / n → l < 256 / n → j ≠ l → pa j + n ≤ pa l ∨ pa l + n ≤ pa j) →
      let stored (x : Nat) : Prop := ∃ k, k < 256 ∧ (s.pr pg).getLsbD k = true ∧ x = pa (k / n) + k % n
      s.mayBegin i → ∃ t u, exec i s = .next t ∧ t = (piecesRow sc n (qs.map (·.2)) u).timedAs t ∧ OnlyMemory s1 u stored
        ∧ (∀ k, k < 256 → (s.pr pg).getLsbD k = true → (u.mem.byteAt (pa (k / n) + k % n)).toNat = elemAt 1 (s.vr rd) k)
        ∧ (∀ x, ¬ stored x → u.mem.byteAt x = s1.mem.byteAt x)
    does (.vst rd ra rb pg sc) 64 (fun j => a + b + BitVec.ofNat 64 (64 * j))
    ∧ (a.toNat % 32 = 0 → b.toNat % 32 = 0 → does (.vsts rd ra rb pg sc) 32 (fun j => a + BitVec.ofNat 64 j * b))
    ∧ (a.toNat % 32 = 0 → does (.vstx rd ra rb pg sc) 32 (fun j => a + BitVec.ofNat 64 (32 * (b.toNat / 256 ^ j % 256))))

/-- The statistics words (R151 to R155): VSTATS gathers into its entry and with F finishes it; VSMX rescales the row, writes the probability
of each active score, adds their sum, and clears the bytes above its 64 elements; VLSE writes the log-sum-exp; SBGET and SBSET move eight
records. Nothing else changes. With STATUS.NFT a finished statistic, a probability or a log-sum-exp that is not finite, but for that of an empty
row, raises NONFINITE in the sequencer, with its record, and the word writes nothing (R118 to R120).
That a NaN score without a finite one before it has the probability +0 is the model's choice (log 71).
Without EXACT the functions are free values inside the bound of R122 (log 10). -/
def Obligations.Statistics : Prop :=
  ∀ (s : State) (rd ra rb : Reg) (pg : Pg) (ft : Ft) (f : Bool), s.vectorReady (.vsmx rd ra rb pg ft) →
    let w := ft.width
    let b := (s.xr rb).toNat
    let k := b % 256
    let x := s.rd.st.exact
    let x2 := s.rd.st.apx
    let e := (s.stat k).gather ft (s.pr pg) (s.vr ra)
    let l := (s.stat k).lseOf x x2
    let r := (s.stat k).rescale (scoreMax (s.pr pg) (s.vr ra))
    let on (j : Nat) : Bool := (s.pr pg).getLsbD (4 * j)
    let prob (j : Nat) : Nat :=
      let y := elemAt 4 (s.vr ra) j
      if r.ev then SF.exp2.eval ft x x2 (smxInput y r.eref.toNat) (FV.sub (decodeEl .fp32 y) (FV.ofInt r.eref.toInt)) else 0
    let sum := treeSum ((List.range 64).map fun j => decodeEl ft (if on j then prob j else 0))
    let z := e.finish (BitVec.ofNat 32 (b / 2 ^ 32)) x x2
    (f = false → VectorGives (.vstats f ra rb pg ft) s (s.setStat k e))
    ∧ (f = true → UnlessNonFiniteX (.vstats f ra rb pg ft) s ft.code (if (f32 z.mean).nonFinite then f32 z.mean else f32 z.rstd)
        (VectorGives (.vstats f ra rb pg ft) s (s.setStat k z)))
    ∧ UnlessNonFinite (.vsmx rd ra rb pg ft) s ft Ft.fp32.code ft.code on 64 prob
      (s.mayBegin (.vsmx rd ra rb pg ft) → ∃ t, exec (.vsmx rd ra rb pg ft) s = .next t ∧ VectorFrame [rd] (s.setStat k { r with rsum := toF32 (FV.add (f32 r.rsum) sum) }) t
      ∧ ∀ j, j < 256 / w → elemAt w (t.t.vr rd) j = if 64 ≤ j then 0 else if on j then prob j % 256 ^ w else elemAt w (s.vr rd) j)
    ∧ (let u := (s.setStat k { s.stat k with lse := l, lv := true }).putX rd (l.setWidth 64)
       if (s.stat k).empty then VectorGives (.vlse rd rb) s u else UnlessNonFiniteX (.vlse rd rb) s Ft.fp32.code (f32 l) (VectorGives (.vlse rd rb) s u))
    ∧ LaneWise (.sbget rd rb pg) s rd pg 1 (fun j => (s.stat ((k + j / 32) % 256)).pack / 256 ^ (j % 32) % 256)
    ∧ (s.mayBegin (.sbset ra rb pg) → ∃ t, exec (.sbset ra rb pg) s = .next t
      ∧ (∀ j, j < 8 → t.stat ((k + j) % 256) = if (s.pr pg).getLsbD (32 * j) then .unpack (elemAt 32 (s.vr ra) j) else s.stat ((k + j) % 256))
      ∧ (∀ m, (∀ j, j < 8 → m ≠ (k + j) % 256) → t.stat m = s.stat m)
      ∧ (∀ c, c ≠ s.t.core → t.core c = s.core c) ∧ t.core s.t.core = { s.core s.t.core with stats := (t.core s.t.core).stats }
      ∧ t = State.timedAs { s with cores := t.cores } t)

/-- Sequencer control (R130, R133 to R135). A vector word whose checks pass enters an open capture, which when full becomes a loop, or with count 0
nothing; with none open it takes an entry while fewer than 16 are in use and the sequencer holds words or its operands are not ready, and
stalls while none is free. VLOOP opens a capture of `len` words with the count in xa[31:0], once they have room, and waits until then; it
raises ILLEGAL for a length outside 1 to 16, as an A word and in a delay slot; VSYNC completes once the sequencer is empty, and waits
until then; VSEQST writes the entries in use, and of a running loop bit 6 and the passes left. -/
def Obligations.SequencerControl : Prop :=
  (∀ (s : State) (i : Instr), isVector i = true → check i s = none →
    (match i with
      | .vstq .. | .vldv .. => s.rd.st.ph ≠ .c
      | _ => True) →
    let snap := match s.old with
      | some o => snapOf i o s.t
      | none => {}
    let q := s.t.seq
    let to_ (q : Seq) : State := { s with t := { s.t with seq := q } }
    ∃ e : Entry, e.i = i ∧ e.addr = s.t.wordAddr ∧ e.word = s.t.word ∧ e.exact = s.rd.st.exact ∧ e.apx = s.rd.st.apx ∧ e.nft = s.rd.st.nft
      ∧ (∀ c, q.cap = some c →
        let got := joinUnit e s.t.inA snap c.got
        Completes i s (to_ (if got.foldl (fun n u => n + u.words) 0 < c.len then { q with cap := some { c with got := got } }
          else if c.n = 0 then { q with cap := none }
          else { q with cap := none, items := q.items ++ [.loop c.n 0 got got c.len] })))
      ∧ (q.cap = none → (q.items ≠ [] ∨ s.begins i snap = false) → q.occ < 16 → Completes i s (to_ (q.enter e s.t.inA snap)))
      ∧ (q.cap = none → q.items ≠ [] → 16 ≤ q.occ → exec i s = stallSeq s))
  ∧ ∀ (s : State) (rd ra len : Reg), s.noCapture →
    let q := s.rd.seq
    let bad : Prop := len.val = 0 ∨ 16 < len.val ∨ s.t.inA = true ∨ s.t.slot ≠ none
    (bad → Traps (.vloop ra len) s .illegal (s.t.word.setWidth 64))
    ∧ (¬ bad → 16 < s.t.seq.occ + len.val → exec (.vloop ra len) s = stallSeq s)
    ∧ (¬ bad → s.t.seq.occ + len.val ≤ 16 →
      Completes (.vloop ra len) s { s with t := { s.t with seq := { s.t.seq with cap := some ⟨(s.xr ra).toNat % 2 ^ 32, len.val, [], s.t.pc⟩ } } })
    ∧ (s.quiet → Completes .vsync s s) ∧ (q.items ≠ [] ∨ q.busy = true → exec .vsync s = stallSeq s)
    ∧ WritesX (.vseqst rd) s rd (BitVec.ofNat 64 ((match q.items with
        | .loop n p _ _ _ :: _ => (n - p) * 2 ^ 32 + 64
        | _ => 0) + q.occ))

/-- A neighbour read (R150): off the grid it ends at once with pd clear; otherwise the word waits in the sequencer with no other effect.
VNRD_MATCH gives each of the two waiting tasks the other's register in its active bytes, sets pd, and ends both waits; VNRD_TIMEOUT, once
the wait's time has passed, clears pd and ends it, and before then does nothing. Both words leave their sequencers; nothing else changes.
The wait takes the NTMO of its beginning, in cycles of the die, which is the model's choice (log 54). -/
def Obligations.NeighbourReads : Prop :=
  (∀ (s : State) (rd ra : Reg) (pd pg : Pg) (k : Dir), s.vectorReady (.vnrd rd ra pd pg k) →
    (neighbour s.t.core k = none → WritesP (.vnrd rd ra pd pg k) s pd (fun _ => false))
    ∧ (neighbour s.t.core k ≠ none → s.t.seq.wait = none → ∃ u : SeqUnit, u.word?.map (·.1.i) = some (.vnrd rd ra pd pg k)
        ∧ Completes (.vnrd rd ra pd pg k) s { s with t := { s.t with seq := { s.t.seq with items := [.unit u] } } }))
  ∧ ∀ (s : State) (t u : Task) (rt ru : Reg) (at_ au : Reg) (dt du gt gu : Pg) (k : Dir),
    s.task t.tid = some t → s.task u.tid = some u → t.tid ≠ u.tid →
    t.vnrdNow = some (rt, at_, dt, gt, k) → u.vnrdNow = some (ru, au, du, gu, k.opp) → neighbour t.core k = some u.core →
    t.streams.find rt.val = none → u.streams.find ru.val = none →
    let ends (x y : Task) (d : Pg) : Prop :=
      y = { x with v := y.v, livem := y.livem, p := y.p, seq := y.seq } ∧ (∀ r, r ≠ d → y.pr r = x.pr r)
      ∧ y.seq.wait = none ∧ y.seq.cap = x.seq.cap ∧ y.seq.loads = x.seq.loads
      ∧ ∀ q rest, x.seq.items = .unit q :: rest → (q.c = none ∨ q.a = none) → y.seq.items = rest
    (∃ t' u', exec (.vnrdMatch t.tid u.tid) s = .next ((s.setTask t').setTask u') ∧ ends t t' dt ∧ ends u u' du
      ∧ t'.vr rt = merge 1 (t.vnrdView.pr gt) (u.vnrdView.vr au) (t.vnrdView.vr rt) ∧ t'.pr dt = BitVec.allOnes 256 ∧ (∀ r, r ≠ rt → t'.vr r = t.vr r)
      ∧ u'.vr ru = merge 1 (u.vnrdView.pr gu) (t.vnrdView.vr at_) (u.vnrdView.vr ru) ∧ u'.pr du = BitVec.allOnes 256 ∧ (∀ r, r ≠ ru → u'.vr r = u.vr r))
    ∧ (∀ w, t.seq.wait = some w →
        (w.last < s.clock (dieOf t.core) → ∃ t', exec (.vnrdTimeout t.tid) s = .next (s.setTask t') ∧ ends t t' dt ∧ t'.v = t.v ∧ t'.livem = t.livem
          ∧ t'.pr dt = (if dt = 0 then BitVec.allOnes 256 else 0))
        ∧ (s.clock (dieOf t.core) ≤ w.last → exec (.vnrdTimeout t.tid) s = .next s))


/-! ## Streams -/

/-- STRM binds the register to the descriptor's walk, whatever stood there; an illegal descriptor raises ILLEGAL, an address that is no
multiple of 64 ALIGN; STRMOFF ends the binding; STRMQ writes bit 0 for bound, bit 1 for out, bit 2 for END and the blocks moved,
or 0. A register at or above the allotment raises ALLOT, and while the sequencer holds words all three wait (R185). Nothing
else changes. -/
def Obligations.StreamBindings : Prop :=
  (∀ (s s1 : State) (rd ra rb : Reg) (n : Nat), s.quiet → rb.val < s.t.allotn →
    (s.rd.st.ph ≠ .c → s.t.st.ph ≠ .c → (s.xr ra).toNat % 64 ≠ 0 → Traps (.strm ra rb) s .align (s.xr ra))
    ∧ (s.rd.st.ph ≠ .c → s.t.st.ph ≠ .c → s.posted = [] → Described s (s.xr ra) 64 n s1 →
      (streamOk n = true → ∃ l, Completes (.strm ra rb) s { s1 with t := { s1.t with streams := l } }
        ∧ l.find rb.val = some { d := StreamDesc.of n } ∧ ∀ k, k ≠ rb.val → l.find k = s.t.streams.find k)
      ∧ (streamOk n = false → exec (.strm ra rb) s = raise .illegal (s.xr ra) s1))
    ∧ (∃ l, Completes (.strmoff rb) s { s with t := { s.t with streams := l } }
      ∧ l.find rb.val = none ∧ ∀ k, k ≠ rb.val → l.find k = s.t.streams.find k)
    ∧ WritesX (.strmq rd rb) s rd (match s.t.streams.find rb.val with
        | some b => BitVec.ofNat 64 (b.moved.toNat * 2 ^ 32 + (if b.ended then 4 else 0) + (if b.d.out then 2 else 0) + 1)
        | none => 0))
  ∧ ∀ (s : State) (rd ra rb : Reg), s.noCapture → ∀ i ∈ [.strm ra rb, .strmoff rb, .strmq rd rb],
      (s.rd.seqEmpty = false → exec i s = stallSeq s)
      ∧ (s.quiet → s.t.allotn ≤ rb.val → Traps i s .allot (BitVec.ofNat 64 rb.val))

/-! ## Hypervectors -/

/-- HVBIND is the bitwise XOR; HVPERM and HVPERM.X rotate left by the constant or by xs modulo 8,192; HVCLR.H, HVMOV and HVMOV.LFSR set hd,
HVMOV.SEED sets L, to all ones for a zero source (R159, R163).
HVBUND adds the weight where the bit is 1 and subtracts it where it is 0 (HVBUND.neg the other way), saturating at the counter width; a weight
outside 1 to 127 raises ILLEGAL; HVCLR clears the array; HVTHR takes the majority, ties by HVTIE, and steps L; HVDIST counts the
differing bits (R163 to R166). The core's unit holds the task's state from then on (R160); nothing else changes. -/
def Obligations.HypervectorArithmetic : Prop :=
  (∀ (s : State) (rd ra rb : HIdx) (k2 k0 : Pg) (xs : Reg), check (.hvbind rd ra rb) s = none →
      let u := s.heldHv
      let a (k : Nat) := (s.hr ra).getLsbD k
      WritesH (.hvbind rd ra rb) s u rd (fun k => a k != (s.hr rb).getLsbD k)
      ∧ WritesH (.hvperm rd ra k2 xs k0) s u rd (fun k => a ((k + 8192 - (256 * k2.val + 8 * xs.val + k0.val)) % 8192))
      ∧ WritesH (.hvpermX rd ra xs) s u rd (fun k => a ((k + 8192 - (s.xr xs).toNat % 8192) % 8192))
      ∧ WritesH (.hvclrH rd) s u rd (fun _ => false) ∧ WritesH (.hvmov rd ra) s u rd a
      ∧ WritesH (.hvmovLfsr rd) s u rd (fun k => (s.core s.t.core).tieL.getLsbD k)
      ∧ Completes (.hvmovSeed ra) s (u.setCore s.t.core { u.core s.t.core with tieL := if s.hr ra = 0 then BitVec.allOnes 8192 else s.hr ra }))
  ∧ ∀ (s : State) (rd ra rb : HIdx) (xs : Reg) (neg : Bool), check (.hvbund rd ra xs neg) s = none →
      let u := s.heldHv
      let w : Nat := (s.xr xs).toNat
      let c (k : Nat) := slotOf (s.br rd) k
      let M : Int := if s.rd.hvcw = 0 then 7 else if s.rd.hvcw = 1 then 127 else 32767
      let sat (v : Int) : Int := if M < v then M else if v < -M then -M else v
      let l := (s.core s.t.core).tieL
      (1 ≤ w → w ≤ 127 → WritesB (.hvbund rd ra xs neg) s u rd (fun k => sat (c k + if ((s.hr ra).getLsbD k != neg) then (w : Int) else -(w : Int))))
      ∧ (w = 0 ∨ 127 < w → exec (.hvbund rd ra xs neg) s = raise .illegal (s.xr xs) u)
      ∧ WritesB (.hvclr rd) s u rd (fun _ => 0)
      ∧ WritesH (.hvthr ra rd) s (u.setCore s.t.core { u.core s.t.core with tieL := lfsrStep l }) ra (fun k =>
          if 0 < c k then true else if c k < 0 then false
          else if s.rd.hvtie = 0 then false else if s.rd.hvtie = 1 then true else if s.rd.hvtie = 2 then (s.hr 7).getLsbD k else l.getLsbD k)
      ∧ SetsX (.hvdist ra rb xs) s u xs
          (BitVec.ofNat 64 ((List.range 8192).filter fun k => (s.hr ra).getLsbD k != (s.hr rb).getLsbD k).length)

/-- Hypervector loads and stores (R167): with every granule located, HVLD and HVLD.B read 1 KiB and 16 KiB, the counters saturated to the width; HVST and
HVST.B write them; an address that is no multiple of 64 raises ALIGN. The core's unit holds the task's state from then on; nothing else changes
but what a write to a MASTER page advances, and what follows an access at row scope waits for the views of a MASTER page. -/
def Obligations.HypervectorMemory : Prop :=
  ∀ (s s1 : State) (rd ra : HIdx) (xs : Reg) (sc : Sc) (ps : List Piece) (pa : Nat → Nat) (n : Nat) (need : Need),
    check (.hvldB rd xs sc) s = none → s.calm → s1.bad = [] → Pieced ps pa → ps.length = n →
    s.locatePieces 64 64 need .plain (granuleVas (s.xr xs) n) = .ok (ps, s1) →
    let u := s1.heldHv
    let byte (k : Nat) := (u.byteAt (pa (k / 64) + k % 64)).toNat
    let M : Int := if s.rd.hvcw = 0 then 7 else if s.rd.hvcw = 1 then 127 else 32767
    let sat (v : Int) : Int := if M < v then M else if v < -M then -M else v
    let stores (i : Instr) (v : Nat) : Prop :=
      u.mem.wf = true → (∀ a, u.served a = true) → (∀ i j, i < n → j < n → i ≠ j → pa i + 64 ≤ pa j ∨ pa j + 64 ≤ pa i) →
      let stored (x : Nat) : Prop := ∃ k, k < 64 * n ∧ x = pa (k / 64) + k % 64
      ∃ z, Completes i s (piecesRow sc 64 ps z) ∧ OnlyMemory u z stored
        ∧ (∀ k, k < 64 * n → (z.mem.byteAt (pa (k / 64) + k % 64)).toNat = v / 256 ^ k % 256)
        ∧ (∀ x, ¬ stored x → z.mem.byteAt x = s1.mem.byteAt x)
    ((s.xr xs).toNat % 64 ≠ 0 → ∀ i ∈ [.hvld rd xs sc, .hvldB rd xs sc, .hvst ra xs sc, .hvstB rd xs sc], Traps i s .align (s.xr xs))
    ∧ ((s.xr xs).toNat % 64 = 0 → need = { r := true } →
        (n = 16 → WritesH (.hvld rd xs sc) s (piecesRow sc 64 ps u) rd (fun k => (byte (k / 8)).testBit (k % 8)))
        ∧ (n = 256 → WritesB (.hvldB rd xs sc) s (piecesRow sc 64 ps u) rd
            (fun k => sat (BitVec.ofNat 16 (byte (2 * k) + 256 * byte (2 * k + 1))).toInt)))
    ∧ ((s.xr xs).toNat % 64 = 0 → need = { w := true } →
        (n = 16 → stores (.hvst ra xs sc) (s.hr ra).toNat) ∧ (n = 256 → stores (.hvstB rd xs sc) (s.br rd).toNat))

/-- The item memory (R168 to R171): HVMEMST writes item xs, and raises ILLEGAL past the capacity; a search that finds the item memory free gives
distance · 2^32 + index of the nearest item, the lowest index among equals, or all ones over an empty range, and HVNEAR2 also the best of the
others, and keeps the item memory busy for a cycle per 16 entries; one that finds it busy joins the queue behind it, and
completes with what its turn brings. A range past the capacity and a specification with a reserved bit set raise ILLEGAL. Nothing else changes. -/
def Obligations.ItemMemory : Prop :=
  ∀ (s : State) (ra : HIdx) (xs : Reg), check (.hvnear ra xs) s = none → s.calm → s.bad = [] → s.pkg.units = [] →
    let K := clusterOf s.t.core
    let c := s.cluster K
    let u := s.heldHv
    let cap := c.imctl.toNat % 4096
    let base := vaultBase K + c.imctl.toNat / 2 ^ 16 % 128 * 65536
    let q := s.xr xs
    let first := q.toNat % 2048
    let count := q.toNat / 2 ^ 16 % 4096
    let ok : Prop := q.toNat < 2 ^ 28 ∧ q.toNat / 2 ^ 11 % 32 = 0
    let dist (j : Nat) := ((List.range 8192).filter fun k => (s.hr ra).getLsbD k != (u.byteAt (base + 1024 * j + k / 8)).getLsbD (k % 8)).length
    let best (v : W64) (among : Nat → Prop) : Prop :=
      (∃ j, among j ∧ v = BitVec.ofNat 64 (dist j * 2 ^ 32 + j) ∧ ∀ l, among l → dist j < dist l ∨ (dist j = dist l ∧ j ≤ l))
        ∨ ((∀ j, ¬ among j) ∧ v = BitVec.allOnes 64)
    let range (j : Nat) : Prop := first ≤ j ∧ j < first + count
    let busy := u.setCluster K { c with searchEnd := s.tissued + (count + 15) / 16 }
    (q.toNat < cap → u.sound (base + 1024 * q.toNat) 1024 → ∃ t, Machine.Stores u t (base + 1024 * q.toNat) 1024 (s.hr ra).toNat
      ∧ Completes (.hvmemst ra xs) s t)
    ∧ (cap ≤ q.toNat → exec (.hvmemst ra xs) s = raise .illegal q u)
    ∧ (¬ ok → exec (.hvnear ra xs) s = raise .illegal q u ∧ exec (.hvnear2 ra xs) s = raise .illegal q u)
    ∧ (∀ v w, s.t.near = some (.values v w) → ok →
        let z : State := { u with t := { s.t with searching := false, near := none } }
        SetsX (.hvnear ra xs) s z xs v ∧ Completes (.hvnear2 ra xs) s ((z.putX xs v).putX (xs + 1) w))
    ∧ (s.t.near = none → s.t.searching = false → ok →
      (c.searches = [] → c.searchEnd ≤ s.tissued →
        (first + count ≤ cap →
          (∃ v, SetsX (.hvnear ra xs) s busy xs v ∧ best v range)
          ∧ ∃ v w, Completes (.hvnear2 ra xs) s ((busy.putX xs v).putX (xs + 1) w)
            ∧ best v range ∧ best w (fun j => range j ∧ v ≠ BitVec.ofNat 64 (dist j * 2 ^ 32 + j)))
        ∧ (cap < first + count → exec (.hvnear ra xs) s = raise .illegal q busy ∧ exec (.hvnear2 ra xs) s = raise .illegal q busy))
      ∧ (c.searches ≠ [] ∨ s.tissued < c.searchEnd →
        let waits := stall (({ u with t := { s.t with searching := true } }.setCluster K
          { c with searches := c.searches ++ [(s.t.tid, s.hr ra, q)] }).after (.issue s.t.core) (c.searchEnd - s.tissued) (.itemMemorySearch K))
        exec (.hvnear ra xs) s = waits ∧ exec (.hvnear2 ra xs) s = waits))

/-! ## Handles -/

/-- MKVAL makes a VALUE entry at the first free index, with the next sequence number, and writes its handle; PEEK writes REFCNT and the state;
KEEP and DROP check what the handle shows and are on their way; BUDGET writes the total, sets the bound and the mode, and lets the
SUSPs proceed that park until the total is within the bound (R81, R87, R89, R90, R97). Each takes the cycles of its homes (R383). The
task's KEEPs and DROPs on their way and its deferred report come before any of the others (R84, R90), which is a reading of their order
(log 27); that VADDR keeps the low 56 bits of the tile's address is the model's choice (log 63).
At the entry's home (R90, R91) a live handle's REFCNT rises by one, or stays at its top, and falls by one, the entry being freed with the last
reference; a check that fails there changes nothing and leaves the first report in the task (of several, log 27). Nothing else changes. -/
def Obligations.HandleInstructions : Prop :=
  (∀ (s : State) (rd ra rb : Reg) (mode : BudgetMode), s.handleReady (.mkval rd ra rb) →
      let P := s.t.part
      let C := s.t.core
      let h := s.xr ra
      let w := (s.xr rb).toNat
      (h.toNat % 64 = 0 → shapeOk w false = true → ∀ i s1, s.takeFree P = some (i, s1) →
        let g := (s1.hGet P i).gen
        let q := s1.setPart P { s1.part P with hcSeq := (s1.part P).hcSeq + 1 }
        SetsX (.mkval rd ra rb) s
          ((q.withEntry P i { gen := g, state := 1, root := true, refcnt := 1, vaddr := h.toNat % 2 ^ 56, fmt := w / 2 ^ 24 % 8,
                              rowsM1 := w / 2 ^ 12 % 4096, colsM1 := w % 4096, seq := (s1.part P).hcSeq.toNat }).heldFor
            (s.controlStep C P + s.homeStep C P i))
          rd (BitVec.ofNat 64 (P * 2 ^ 48 + g * 2 ^ 32 + i)))
      ∧ (h.toNat % 64 ≠ 0 → Traps (.mkval rd ra rb) s .align h)
      ∧ (h.toNat % 64 = 0 → shapeOk w false = false → Traps (.mkval rd ra rb) s .illegal (s.xr rb))
      ∧ (h.toNat % 64 = 0 → shapeOk w false = true → s.takeFree P = none → Traps (.mkval rd ra rb) s .handle (BitVec.allOnes 64))
      ∧ (∀ i, s.checkHandle P h = .ok i → SetsX (.peek rd ra) s (s.heldFor (s.homeStep C P i)) rd
          (BitVec.ofNat 64 ((s.hGet P i).refcnt * 2 ^ 32 + (s.hGet P i).state)))
      ∧ (∀ x, s.checkHandle P h = .error x → Traps (.peek rd ra) s .handle h)
      ∧ (∀ i ∈ [(Instr.keep ra, true), (.drop ra, false)],
          (handleShape h P (s.part P).hcCapacity = true →
            Completes i.1 s (State.after { s with stamp := s.stamp + 1, t := { s.t with handleOps := [(s.stamp, h, i.2)] } } (dieClk C)
              (s.homeStep C P (hIndex h)) (.handleHomeCheck s.t.tid h i.2)))
          ∧ (handleShape h P (s.part P).hcCapacity = false → Traps i.1 s .handle h))
      ∧ (let u := s.setPart P { s.part P with hcBound := h, hcMode := mode.code }
         SetsX (.budget rd ra mode) s ((u.budgetMoved P).heldFor (s.controlStep C P)) rd (BitVec.ofNat 64 (s.part P).hcTotal)
         ∧ ((∀ x ∈ u.allTasks, ∀ d, x.run ≠ .parked (.budget P d)) → u.budgetMoved P = u)))
  ∧ (∀ (s : State) (rd ra rb : Reg) (mode : BudgetMode) (op : SuspOp), s.rd.st.ph ≠ .c →
      ∀ i ∈ [.mkval rd ra rb, .peek rd ra, .budget rd ra mode, .force rd ra, .spark rd ra, .susp rd ra rb op], check i s = none →
        (s.t.handleOps ≠ [] → exec i s = stall s)
        ∧ (∀ h, s.t.handleOps = [] → s.t.seq.items = [] → s.t.seq.busy = false → s.t.acquires = false → s.t.handleReport = some h →
            exec i s = raise .handle h { s with t := { s.t with handleReport := none } }))
  ∧ ∀ (s : State) (t : Task) (n : Nat) (h : W64) (keep : Bool) (rest : List (Nat × W64 × Bool)), s.task t.tid = some t →
      t.handleOps = (n, h, keep) :: rest → s.bad = [] → s.pkg.units = [] →
      let P := hPart h
      let i := hIndex h
      let e := s.hGet P i
      let u := s.setTask { t with handleOps := rest }
      (s.hLive P h = true → keep = true →
        exec (.handleHomeCheck t.tid h keep) s = .next (u.withEntry P i { e with refcnt := if e.refcnt = 0xFFFF_FFFF then e.refcnt else e.refcnt + 1 }))
      ∧ (s.hLive P h = true → keep = false →
        (1 < e.refcnt → e.refcnt ≠ 0xFFFF_FFFF →
          exec (.handleHomeCheck t.tid h keep) s = .next (u.withEntry P i { e with refcnt := e.refcnt - 1 }))
        ∧ (e.refcnt = 1 → e.state = 1 → exec (.handleHomeCheck t.tid h keep) s = .next ((u.withEntry P i { e with refcnt := 0 }).hFree P i)))
      ∧ ((s.hLive P h = false ∨ keep = false ∧ e.refcnt = 0) → exec (.handleHomeCheck t.tid h keep) s = .next (s.setTask (if t.handleReport.isSome ∧ t.reportAt < n
          then { t with handleOps := rest } else { t with handleOps := rest, handleReport := some h, reportAt := n })))

/-- FORCE (R93): the address of a VALUE, the fault of a FAULT, and otherwise the task parks as the entry's head waiter, a suspended entry going into
evaluation on this core, under a number of the model's choice (log 6); 32 valid links above raise DEMAND, and a walk that meets the evaluating
task SELFDEP; a woken FORCE completes. SPARK (R96): 2 for an entry that is not suspended, 1 when the pool is full, else 0 and the handle is the
pool's last, converted a cycle later, which is the model's choice (log 5). SUSP (R88, R97): within the bound the arguments are kept and the
entry is made suspended, with one reference, its charge added to the total, and its handle written; beyond it SUSP raises BUDGET, or in EAGER
makes the entry without charge, starts its evaluation and parks on it, or in SPARKOLD offers the oldest root and, while the total itself is within
the bound, goes on, else parks until it is. That VADDR is the tile's address modulo 2^56 is the model's choice (log 63). Each takes the cycles of
its homes (R383). Nothing else changes. -/
def Obligations.SuspendForceAndSpark : Prop :=
  (∀ (s : State) (rd ra : Reg) (i : Nat), s.handleReady (.force rd ra) → s.checkHandle s.t.part (s.xr ra) = .ok i →
      let P := s.t.part
      let C := s.t.core
      let h := s.xr ra
      let e := s.hGet P i
      let n := s.homeStep C P i
      let K := clusterOf C
      let c := s.cluster K
      (e.state = 1 → SetsX (.force rd ra) s (s.heldFor n) rd (BitVec.ofNat 64 e.vaddr))
      ∧ (e.state = 4 → Traps (.force rd ra) s (Cause.ofCode e.cause) h)
      ∧ (e.state = 2 →
          (32 ≤ s.chainLength 33 s.t.tid → Traps (.force rd ra) s .demand h)
          ∧ (s.chainLength 33 s.t.tid < 32 → ∀ s2, s.startEval P i C s.t.prio (some s.t.tid) = some s2 →
              let u := s2.addWaiter P i s.t.tid
              exec (.force rd ra) s = .next ((u.heldFor n).parkedAs (.handle P i false) h)
              ∧ (s.mem.wf = true → i < (s.part P).hcFresh → C < 2 ^ 16 →
                  u.hGet P i = { e with state := 3, evtask := s.freshTid % 2 ^ 32, evcore := C, waiter := some (C, s.t.tid % 2 ^ 32) })))
      ∧ (e.state = 3 → ∀ r, s.demandWalk (s.named e.evtask) 33 s.t.tid = r →
          (r = none → Traps (.force rd ra) s .selfdep h) ∧ (r = some true → Traps (.force rd ra) s .demand h)
          ∧ (r = some false → exec (.force rd ra) s = .next (((s.addWaiter P i s.t.tid).heldFor n).parkedAs (.handle P i false) h)))
      ∧ (∀ v, SetsX (.force rd ra) (s.wokenWith v) (s.wokenWith v) rd v)
      ∧ (e.state ≠ 2 → SetsX (.spark rd ra) s (s.heldFor n) rd 2)
      ∧ (e.state = 2 → 64 ≤ c.sparks.length → SetsX (.spark rd ra) s ((s.setCluster K { c with overflow := c.overflow + 1 }).heldFor n) rd 1)
      ∧ (e.state = 2 → c.sparks.length < 64 →
          let u := (s.setCluster K { c with sparks := c.sparks ++ [h], offered := c.offered + 1 }).countSent C
          SetsX (.spark rd ra) s ((if c.sparks = [] then u.after (dieClk C) 1 (.sparkConversion K) else u).heldFor n) rd 0))
  ∧ (∀ (s : State) (rd ra : Reg), s.handleReady (.force rd ra) → ∀ x, s.checkHandle s.t.part (s.xr ra) = .error x →
      Traps (.force rd ra) s .handle (s.xr ra) ∧ Traps (.spark rd ra) s .handle (s.xr ra))
  ∧ ∀ (s s1 : State) (rd ra rb : Reg) (op : SuspOp) (n : Nat), s.handleReady (.susp rd ra rb op) → s.calm →
      (s.xr ra).toNat % 64 = 0 → (s.xr rb).toNat % 64 = 0 → Described s (s.xr ra) 64 n s1 → s1.pkg.units = [] →
      let P := s.t.part
      let C := s.t.core
      let d := words64 n
      let shape := d.getD 3 0
      let hs := (d.take (suspArgs op shape)).map (BitVec.ofNat 64)
      let c := 64 + roundUp64 ((shape / 2 ^ 12 % 4096 + 1) * (shape % 4096 + 1) * (Ft.ofCode (shape / 2 ^ 24 % 8)).width)
      (suspOk op d = false → exec (.susp rd ra rb op) s = raise .illegal (s.xr ra) s1)
      ∧ (∀ v, SetsX (.susp rd ra rb op) (s.wokenWith v) (s.wokenWith v) rd v)
      ∧ (suspOk op d = true → checkHandles P s1 hs = none →
        shapesAgree op { HEntry.shaped shape with op := op.code } (hs.map fun h => s1.hGet P (hIndex h)) = true →
        let within := (s1.part P).hcTotal + c ≤ (s1.part P).hcBound.toNat
        let mode := (s1.part P).hcMode
        let a (k : Nat) := (hs.getD k 0).toNat % 2 ^ 32
        let entry (g q charge : Nat) : HEntry :=
            { gen := g, state := 2, op := op.code, narg := hs.length, fmt := shape / 2 ^ 24 % 8, root := true, rowsM1 := shape / 2 ^ 12 % 4096,
              colsM1 := shape % 4096, callot := if op = .call then shape / 2 ^ 32 % 64 else 0, ent := d.getD 4 0,
              modes := (if s.t.st.exact then 4 else 0) + (if s.t.st.apx then 2 else 0) + (if s.t.st.nft then 1 else 0),
              a0 := a 0, a1 := a 1, a2 := a 2, vaddr := (s.xr rb).toNat % 2 ^ 56, refcnt := 1, seq := q, charge := charge }
        ((within ∨ 2 ≤ mode ∧ (s1.part P).hcTotal ≤ (s1.part P).hcBound.toNat) → ∀ i s2 s3,
          (if within then s1 else s1.sparkRoot P C).takeFree P = some (i, s2) → keepArgs P hs s2 = .ok s3 →
          let p := s3.part P
          let g := (s2.hGet P i).gen
          SetsX (.susp rd ra rb op) s
            (((s3.setPart P { p with hcSeq := p.hcSeq + 1, hcTotal := p.hcTotal + c }).withEntry P i (entry g p.hcSeq.toNat (c % 2 ^ 32))).heldFor (s1.suspCycles (s.xr ra) hs i true))
            rd (BitVec.ofNat 64 (P * 2 ^ 48 + g * 2 ^ 32 + i))
          ∧ ∀ h, hs = [h] → s3 = (let j := hIndex h
                                  let e := s2.hGet P j
                                  s2.withEntry P j { e with refcnt := if e.refcnt = 0xFFFF_FFFF then e.refcnt else e.refcnt + 1,
                                                            pcnt := if e.pcnt = 65535 then 65535 else e.pcnt + 1, root := false }))
        ∧ (¬ within →
            (mode = 0 → exec (.susp rd ra rb op) s = raise .budget (hs.headD 0) s1)
            ∧ (mode = 1 → 32 ≤ s1.chainLength 33 s1.t.tid → exec (.susp rd ra rb op) s = raise .demand (hs.headD 0) s1)
            ∧ (mode = 1 → s1.chainLength 33 s1.t.tid < 32 → ∀ i s2 s3 s5, s1.takeFree P = some (i, s2) → keepArgs P hs s2 = .ok s3 →
              let p := s3.part P
              let g := (s2.hGet P i).gen
              ((s3.setPart P { p with hcSeq := p.hcSeq + 1 }).withEntry P i (entry g p.hcSeq.toNat 0)).startEval P i C s.t.prio (some s.t.tid) = some s5 →
              exec (.susp rd ra rb op) s = .next (((s5.addWaiter P i s.t.tid).heldFor (s1.suspCycles (s.xr ra) hs i true)).parkedAs (.handle P i true)
                (BitVec.ofNat 64 (P * 2 ^ 48 + g * 2 ^ 32 + i))))
            ∧ (2 ≤ mode → (s1.part P).hcBound.toNat < (s1.part P).hcTotal →
                exec (.susp rd ra rb op) s = .next (((s1.sparkRoot P C).heldFor (s1.loadLatency (s.xr ra) + s1.controlStep C P)).parkedAs (.budget P n) 0))))

/-! ## Rows and queues at their homes -/

/-- Row atomics (R218, R219): once the checks pass and the row's lock is free, ROWADD and ROWMAX combine the named segments of the
row element by element with the registers, ROWST stores the registers over them, ROWLD brings the segments back with the home's
answer. Gradient queues (R308 to R310): a push with a free place appends the record, a pop takes the oldest record, GQWIN writes
occupancy and window; with STATUS.NFT a push of a non-finite element raises NONFINITE with its record; a full queue parks the pusher, an empty one the popper; a queue that is not valid raises GQTYPE. Nothing else
changes but what a write to a MASTER page advances, and what goes on only once the views of a MASTER page are published (R269).
The cycle of the answer is the model's choice (log 5). -/
def Obligations.RowsAndQueues : Prop :=
  (∀ (s s1 s2 : State) (rd ra rb : Reg) (sc : Sc) (need : Need) (pa : Nat) (k : PageKind) (ps : List Place),
    let a := s.xr ra
    let q := s.xr rb
    let c := RowCtl.of q
    let w := (Ft.ofCode c.ft).width
    let el (x e : Nat) := x / 256 ^ (w * e) % 256 ^ w
    s.calm → firstOver s.rd.allotn ((List.range c.n).map (rd.val + ·)) = none → highAddr a = false → a.toNat % c.len = 0 →
    s.locate a 64 need = .ok (⟨.at pa, k⟩, s1) → k ∉ [.view, .versioned, .kv] →
    rowGranules s1 a need ((List.range (4 * c.n)).map (4 * c.first + ·)) = .ok (ps, s2) →
    (∀ p ∈ ps, ∃ x, p = .at x ∧ x < 0xFC0000000000) → s2.healthy → s2.lockGrant (lockKey pa) s.t.tid = true →
    let u := s2.lockServed (lockKey pa) s.t.tid
    let row := (List.range (c.len / 64)).map fun j => pa / 64 * 64 + 64 * j
    let stores (i : Instr) (m : Nat) : Prop := ∃ z, StoresCells u z (rowCells ps m) ∧ Completes i s (z.rowHold sc k row)
    let rmw (i : Instr) (f : Nat → Nat → Nat) : Prop := rowOk q rd.val false = true → need = { r := true, w := true } →
      ∃ m, stores i m ∧ ∀ e, e < 256 * c.n / w → el m e = f (el (rowValue u ps) e) (el (runValue u rd.val c.n) e)
    rmw (.rowadd rd ra rb sc) (addSat (Ft.ofCode c.ft)) ∧ rmw (.rowmax rd ra rb sc) (maxEl (Ft.ofCode c.ft))
    ∧ (rowOk q rd.val true = true → need = { w := true } → stores (.rowst rd ra rb sc) (runValue u rd.val c.n))
    ∧ (rowOk q rd.val true = true → need = { r := true } →
        let x := match ps with
          | .at x :: _ => x
          | _ => 0
        Completes (.rowld rd ra rb sc) s ((u.rowHold sc k row).answering
          ((if a.toNat < 0x01000000 then 14 else u.pathLatency s.t.core x) + (if isSram x then 4 else 8) * c.n) none 0
          ((List.range c.n).map fun j => (Fin.ofNat 32 (rd.val + j), BitVec.ofNat 2048 (rowValue u ps / 2 ^ (2048 * j)))) (x, 256 * c.n))))
  ∧ ∀ (s s1 : State) (rd ra rb : Reg), s.calm → s.bad = [] → s.pkg.units = [] →
    let P := s.t.part
    let q := s.xr ra
    let g := s.gq P q.toNat
    let h := s.xr rb
    let f := Ft.ofCode g.fmt
    let c := h.toNat % 65536
    let n := (c * f.width + 255) / 256
    let data := runValue s rd.val n % 256 ^ (c * f.width)
    let d := s.pathLatency s.t.core ((s.part P).gqtab + 64 * q.toNat) + 8
    ((63 < q.toNat ∨ g.valid = false) → Traps (.gqpush rd ra rb) s .gqtype q ∧ Traps (.gqpop rd ra rb) s .gqtype q ∧ Traps (.gqwin rd ra) s .gqtype q)
    ∧ (q.toNat ≤ 63 → g.valid = true → SetsX (.gqwin rd ra) s (s.heldFor d) rd (BitVec.ofNat 64 (g.occ * 2 ^ 32 + g.w)))
    ∧ (q.toNat ≤ 63 → g.valid = true → s.inPart P g.recv = true → g.lo ≤ h.toNat / 2 ^ 48 → h.toNat / 2 ^ 48 ≤ g.hi →
        c ≠ 0 → c ≤ 1024 / f.width → rd.val + n ≤ 32 → rd.val + n ≤ s.rd.allotn →
        (s.rd.st.nft = true → f.isFloat = true → ∀ k v, firstBadEl f data 0 c = some (k, v) →
          let r := nfRecord 2 s.t.wordAddr.toNat s.t g.fmt g.fmt v (k * f.width % 256) 0 0 0
          exec (.gqpush rd ra rb) s = raise .nonfinite r[0] { s with t := { s.t with nfRec := r } })
        ∧ ((s.rd.st.nft = true → f.isFloat = true → firstBadEl f data 0 c = none) →
        (g.w ≠ 0 → s.pushStep P q.toNat s.t h data = .ok s1 →
          Completes (.gqpush rd ra rb) s ((s1.servePopper P q.toNat).heldFor d)
          ∧ ((∀ u ∈ s1.allTasks, ∀ vb, u.run ≠ .parked (.empty P q.toNat vb)) → s1.servePopper P q.toNat = s1))
        ∧ (g.w = 0 → Parks (.gqpush rd ra rb) s s (.window P q.toNat h data) 0)))
    ∧ (q.toNat ≤ 63 → g.valid = true → s.t.core = g.recv → rb.val ≤ 28 → rb.val + 4 ≤ s.rd.allotn →
        (g.occ ≠ 0 → ∀ r x, s.popStep P q.toNat = .ok (r, x, s1) →
          Completes (.gqpop rd ra rb) s ((s1.servePusher P q.toNat).answering d (some rd) r (popRegs rb.val x))
          ∧ ((∀ u ∈ s1.allTasks, ∀ h y, u.run ≠ .parked (.window P q.toNat h y)) → s1.servePusher P q.toNat = s1))
        ∧ (g.occ = 0 → Parks (.gqpop rd ra rb) s s (.empty P q.toNat rb.val) 0))
    ∧ ∀ v, Completes (.gqpush rd ra rb) (s.wokenWith v) (s.wokenWith v) ∧ SetsX (.gqpop rd ra rb) (s.wokenWith v) (s.wokenWith v) rd v

/-! ## Engines -/

/-- The copy engines (R189 to R193): COPY, GATHER and SCATTER hand a legal descriptor to the engine and write its tag, and wait for one of
the port's eight slots; CSTAT reads what a tag's command has done; a queued command starts (GATHER and SCATTER read their index list, an uncorrectable error in it gives a FAULT and
status 2), moves a row at a time, and at its end stores its signal and sends COPYDONE if asked to and frees its slot once its messages have
been accepted; an access that cannot be made stops the command, which takes the lowest free slot of the fault ring, or waits for one; one at
a unit under test is made later. Nothing else changes.
When a follow-up event falls due is the model's choice (log 5). The tag is the model's counter (log 7). -/
def Obligations.CopyEngine : Prop :=
  (∀ (s s1 : State) (rd ra : Reg) (mode : ScatMode) (n : Nat), s.calm → Described s (s.xr ra) 64 n s1 →
    let C := s.t.core
    let K := s1.core C
    let t := K.nextTag
    let issues (i : Instr) (kind : Nat) (mode : ScatMode) : Prop :=
      let c := CopyCmd.of kind mode n s.t.part s.t.tid
      (copyOk c n = false → exec i s = raise .illegal (s.xr ra) s1)
      ∧ (copyOk c n = true → 8 ≤ K.copies.length → exec i s = stall s1)
      ∧ (copyOk c n = true → K.copies.length < 8 →
          SetsX i s (((s1.setCore C { K with copies := K.copies.put t c, nextTag := if 65535 ≤ t then 1 else t + 1,
                                             tagLog := ((t, 1, 0) :: K.tagLog).take 64 }).countSent C).at_ 1 (.engineRowMove C t))
            rd (BitVec.ofNat 64 t))
    issues (.copy rd ra) 1 .last ∧ issues (.gather rd ra) 2 .last ∧ issues (.scatter rd ra mode) 3 mode)
  ∧ (∀ (s : State) (rd ra : Reg), s.calm →
    let K := s.core s.t.core
    let q := (s.xr ra).toNat % 65536
    let logged := K.tagLog.find? fun e => e.1 == q
    (logged = none → WritesX (.cstat rd ra) s rd 0)
    ∧ (∀ e, logged = some e → (∀ c, K.copies.find q = some c → WritesX (.cstat rd ra) s rd (BitVec.ofNat 64 (c.done * 2 ^ 32 + c.state)))
        ∧ (K.copies.find q = none → WritesX (.cstat rd ra) s rd (BitVec.ofNat 64 (e.2.2 * 2 ^ 32 + e.2.1)))))
  ∧ ∀ (s : State) (core tag : Nat) (c : CopyCmd), (s.core core).copies.find tag = some c →
    let as (u : State) (c : CopyCmd) : State := u.setCore core { u.core core with copies := (u.core core).copies.put tag c }
    let move : Event := .engineRowMove core tag
    let ends (u : State) : State :=
      (u.setCore core { u.core core with
        copies := (u.core core).copies.del tag
        tagLog := (u.core core).tagLog.map fun e => if e.1 = tag then (tag, if c.status = 0 then 4 else 5, c.done) else e }).countEnd c.part core
    let faults (f : EFault) (w : Bool) : Prop := ∀ k, f.cause = some k → exec (.engineRowMove core tag) s = .next
      ((as f.s { c with state := 3 }).at_ 0 (.engineFault core tag w (BitVec.ofNat 64 f.va) (BitVec.ofNat 8 k.code)))
    let report : W64 := dieMsg (dieOf core) 1 (BitVec.ofNat 48 (c.status * 2 ^ 40 + tag))
    let ending : Event := .copyCompletion core tag
    let completes (z : State) : Prop :=
      let u := if c.msg = true ∧ c.told = false then z.deliverFor c.task c.part core report else z
      ((c.msg = true ∧ u.holds core report = true) ∨ u.holds (u.part c.part).supcore (dieMsg (dieOf core) 6 (faultPayload 0x0D 0xFF core tag)) = true →
        exec (.copyCompletion core tag) s = .next ((as u { c with signalled := true, told := true }).at_ 16 ending))
      ∧ ((c.msg = true → u.holds core report = false) →
        u.holds (u.part c.part).supcore (dieMsg (dieOf core) 6 (faultPayload 0x0D 0xFF core tag)) = false → exec (.copyCompletion core tag) s = .next (ends u))
    let w := 2 * 2 ^ c.iw
    (c.kind = 1 → c.state = 1 → exec (.engineRowMove core tag) s = .next ((as s { c with idxs := some [], state := 2 }).at_ 1 move))
    ∧ (c.kind ≠ 1 → c.state = 1 →
        (∀ ps s1, s.engPieces c.part { r := true } (runsOf (bytesFrom c.idx (w * c.rows))) = .ok (ps, s1) → s1.bad = [] → engAbsents ps = [] →
          (∀ p ∈ ps, p.place.isSome = true) →
          let bs := (s1.engRead ps).map fun b => b.2.getD 0
          exec (.engineRowMove core tag) s = .next
            ((as s1 { c with idxs := some ((List.range c.rows).map fun r => ofBytes ((bs.drop (w * r)).take w)), state := 2 }).at_ 1 move))
        ∧ (∀ l s1, c.loadIdx s = .ok (l, true, s1) → exec (.engineRowMove core tag) s = .next
          ((as (s1.engineMemErr (dieOf core) c.part core tag c.task) { c with idxs := some l, state := 2, status := 2 }).at_ 1 move))
        ∧ ∀ f, c.loadIdx s = .error f → faults f false)
    ∧ (c.state = 2 → c.idxs ≠ none → c.done < c.rows →
        (∀ s1 held err, c.moveRow core tag c.done s = .done s1 held err → exec (.engineRowMove core tag) s = .next
          ((as s1 { c with done := c.done + 1, held := held, status := if err then 2 else c.status }).at_ 1
            (if c.rows ≤ c.done + 1 then ending else move)))
        ∧ (∀ w f, c.moveRow core tag c.done s = .fault w f → faults f w
          ∧ (f.cause = none → exec (.engineRowMove core tag) s = .next ((as f.s c).at_ 16 move)))
        ∧ (c.moveRow core tag c.done s = .later → exec (.engineRowMove core tag) s = .next (s.at_ 16 move)))
    ∧ (c.state = 3 → c.fault = none → ∀ write va (k : Cause), k = .xlate ∨ k = .access →
        let fault : Event := .engineFault core tag write va (BitVec.ofNat 8 k.code)
        let p := s.part c.part
        (p.freeSlot = none → exec (.engineFault core tag write va (BitVec.ofNat 8 k.code)) s = .next (s.at_ 16 fault))
        ∧ (∀ n, p.freeSlot = some n →
          let u : State := { s.setPart c.part { p with ringSlots := n :: p.ringSlots } with
            mem := s.mem.setBytes (wordCells (p.fring + 32 * n) (faultRecord write c.kind va.toNat core tag c.task)) }
          exec (.engineFault core tag write va (BitVec.ofNat 8 k.code)) s = .next (as (u.deliverFor c.task c.part p.supcore (dieMsg (dieOf core) 6 (faultPayload k.code n core tag)))
            { c with fault := some n })))
    ∧ (c.state = 5 ∨ (c.state = 2 ∧ c.rows ≤ c.done) →
        ((c.sig = false ∨ c.signalled = true) → completes s)
        ∧ (c.sig = true → c.signalled = false →
          (∀ w, s.engSignal c.task c.part c.sigAddr c.sigVal = .ok (some w) → completes (w.report (dieOf core) c.part core tag c.task))
          ∧ (s.engSignal c.task c.part c.sigAddr c.sigVal = .ok none → exec (.copyCompletion core tag) s = .next ((as s c).at_ 16 ending))))

/-- The collective engines (R371 to R375, R378): CEARB exchanges the weights; CEPOST posts a legal descriptor, and waits for one of the
engine's 64 entries; the head of a stream waits for its partners and goes on when they agree, or ends with status 3 when they do not
and with status 1 on a dead ring; it waits for its threshold and, once that is met, reads the bucket; a reduction step combines the arriving
chunk; a SEND's step ends it; a completion stores CVAL and sends CEDONE if asked to, and once its messages have been accepted marks the
task's failure record for a status other than 0 and frees the entry. What ends the descriptor at another position ends it here 95,000
reference cycles after the match, where R379 gives 50 microseconds as the bound. Nothing else changes.
When a follow-up event falls due is the model's choice (logs 5 and 8). The tag is the model's counter (log 7). -/
def Obligations.CollectiveEngine : Prop :=
  (∀ (s s1 : State) (rd ra : Reg) (n : Nat), s.calm →
    let v := s.xr ra
    let P := s.t.part
    let C := s.t.core
    let d := words64 n
    let key := 16 * P + d.getD 0 0 / 2 ^ 8 % 16
    let c : CEDesc := { d := d, ring := key, part := P, task := s.t.tid, core := C }
    let die := ringDie (s1.ring key)
    let e := s1.engine die
    let t := e.nextTag
    (4096 ≤ v.toNat → Traps (.cearb rd ra) s .illegal v)
    ∧ (v.toNat < 4096 → SetsX (.cearb rd ra) s (s.setPart P { s.part P with weights := v }) rd (s.part P).weights)
    ∧ (Described s v 64 n s1 →
      ((ceOk d = false ∨ ringValid (s1.ring key) = false) → exec (.cepost rd ra) s = raise .illegal v s1)
      ∧ (ceOk d = true → ringValid (s1.ring key) = true →
        (c.msg = true → s1.inPart P c.dcore = false → exec (.cepost rd ra) s = raise .access (BitVec.ofNat 64 c.dcore) s1)
        ∧ ((c.msg = false ∨ s1.inPart P c.dcore = true) →
          (64 ≤ e.list.length → exec (.cepost rd ra) s = stall s1)
          ∧ (e.list.length < 64 →
            SetsX (.cepost rd ra) s
              (((s1.setEngine die { list := e.list ++ [(t, c)], nextTag := if 65535 ≤ t then 1 else t + 1 }).countSent C).at_ 1
                (.collectiveStart die key (decide (4 ≤ d.getD 0 0 % 8))))
              rd (BitVec.ofNat 64 t))))))
  ∧ ∀ (s : State) (die ring tag : Nat) (p2p : Bool) (d : CEDesc), (s.engine die).head ring p2p = some (tag, d) → d.fault = none →
    let n := ringSize (s.ring ring)
    let w := d.ft.width
    let start : Event := .collectiveStart die ring p2p
    let ended (u : State) (status : Nat) : State :=
      (u.setDesc die tag { d with phase := 3, status := status, write := none, fault := none }).at_ 0 (.collectiveCompletion die ring p2p)
    let finish (u : State) : State :=
      let z := if d.status = 0 then u else u.failTask d.task (d.status == 1)
      ((z.setEngine die { z.engine die with list := (z.engine die).list.filter fun x => x.1 != tag }).countEnd d.part d.core).at_ 1 start
    let ending : Event := .collectiveCompletion die ring p2p
    let report : W64 := dieMsg die 5 (BitVec.ofNat 48 (d.status * 2 ^ 40 + ring % 16 * 2 ^ 36 + tag))
    let memErr : W64 := dieMsg die 6 (faultPayload 0x0D 0xFF d.core tag)
    let completes (z : State) (c : CEDesc) : Prop :=
      let u := if d.msg = true ∧ d.told = false then z.deliverFor d.task d.part d.dcore report else z
      ((d.msg = true ∧ u.holds d.dcore report = true) ∨ u.holds (u.part d.part).supcore memErr = true →
        exec (.collectiveCompletion die ring p2p) s = .next ((u.setDesc die tag { c with told := true }).at_ 16 ending))
      ∧ ((d.msg = true → u.holds d.dcore report = false) → u.holds (u.part d.part).supcore memErr = false →
        exec (.collectiveCompletion die ring p2p) s = .next (finish u))
    let flat (ps : List EPiece) (u : State) : Prop := u.bad = [] ∧ engAbsents ps = [] ∧ ∀ p ∈ ps, p.place.isSome = true
    let reads (z : State) : Prop := ∀ ps s1, z.engPieces d.part { r := true } (runsOf (bytesFrom d.bucket (w * d.count))) = .ok (ps, s1) → flat ps s1 →
      let bs := (s1.engRead ps).map fun b => b.2.getD 0
      let u := s1.setDesc die tag { d with phase := 2, data := (List.range d.count).map fun k => ofBytes ((bs.drop (w * k)).take w) }
      exec (.collectiveStart die ring p2p) s = .next (if d.op = 4 then u.at_ 2280 (.ringStep die ring true []) else u)
    let past := (d.ends = 1 ∨ d.ends = 4) ∧ d.endAt ≤ s.now
    (d.phase < 3 → ringDead (s.ring ring) = true → exec (.collectiveStart die ring p2p) s = .next (ended s 1))
    ∧ (d.phase = 0 → ringDead (s.ring ring) = false →
        (s.partners d = none → exec (.collectiveStart die ring p2p) s = .next (s.at_ 64 start))
        ∧ (∀ ps, s.partners d = some ps →
            let u := s.setPkg { s.pkg with peers := ps.foldl (fun l p => l.erase p) s.pkg.peers }
            let z := (u.setDesc die tag { d with phase := 1, ends := endOf ps, endAt := s.now + 95000 }).at_ 0 start
            exec (.collectiveStart die ring p2p) s = .next
              (if ps.all d.agrees then (if endOf ps = 1 ∨ endOf ps = 4 then z.at_ 95000 start else z) else ended u 3)))
    ∧ (0 < d.phase → d.phase < 3 → ringDead (s.ring ring) = false → past → exec (.collectiveStart die ring p2p) s = .next (ended s d.ends))
    ∧ (d.phase = 1 → ringDead (s.ring ring) = false → ¬ past →
        ((d.rsig = 0 ∨ d.met = true) → reads s)
        ∧ (d.rsig ≠ 0 → d.met = false → ∀ ps s1, s.engPieces d.part { r := true } [(d.rsig, 8)] = .ok (ps, s1) → flat ps s1 →
          let v := (BitVec.ofNat 64 (ofBytes ((s1.engRead ps).map fun b => b.2.getD 0))).toInt
          (v < (BitVec.ofNat 64 (d.word 4)).toInt → ∀ pa k, ps = [⟨d.rsig, 8, some (.at pa, k)⟩] →
            exec (.collectiveStart die ring p2p) s = .next ((s1.setDesc die tag { d with watch := some pa }).at_ 64 start))
          ∧ ((BitVec.ofNat 64 (d.word 4)).toInt ≤ v → reads s1)))
    ∧ (d.phase = 2 → ringDead (s.ring ring) = false → d.write = none → (ringPorts (s.ring ring)).any (fun p => (s.unit 3 p).testing) = false →
        d.op = 4 → ∀ arrived, exec (.ringStep die ring p2p arrived) s = .next ((s.setDesc die tag { d with
          step := 1, phase := 3, status := if d.status = 0 then d.ends else d.status, write := none, fault := none }).at_ 0
            (.collectiveCompletion die d.ring d.p2p)))
    ∧ (d.phase = 2 → ringDead (s.ring ring) = false → d.write = none → (ringPorts (s.ring ring)).any (fun p => (s.unit 3 p).testing) = false → d.op ≤ 2 → d.step + 2 < n →
        let c := d.chunk n ((ringPos (s.ring ring) + n + n - 1 - d.step) % n)
        ∀ arrived : List W32, arrived.length = c.2 → ∃ data,
          exec (.ringStep die ring p2p arrived) s = .next (s.setDesc die tag { d with step := d.step + 1, data := data })
          ∧ (d.data.length = d.count → ∀ k, k < d.count → data.getD k 0 =
              if c.1 ≤ k ∧ k < c.1 + c.2 then d.reduce ((arrived.getD (k - c.1) 0).toNat % 256 ^ w) (d.data.getD k 0) else d.data.getD k 0))
    ∧ (d.phase = 3 →
        ((d.sig = false ∨ d.signalled = true) → completes s d)
        ∧ (d.sig = true → d.signalled = false →
          (∀ x, s.engSignal d.task d.part d.csig (BitVec.ofNat 64 (d.word 7)) = .ok (some x) →
            completes (x.report die d.part d.core tag d.task) { d with signalled := true })
          ∧ (s.engSignal d.task d.part d.csig (BitVec.ofNat 64 (d.word 7)) = .ok none →
            exec (.collectiveCompletion die ring p2p) s = .next ((s.setDesc die tag d).at_ 16 ending))))

/-! ## Views, key-value sequences, remap windows -/

/-- Views (R276 to R282): VIEWREG registers a legal descriptor under the lowest free number with every block pending, a page of a wrong kind
raising ACCESS, or answers −1 without a free number and −2 where eight views cover a block; VIEWDROP removes a view that nothing uses, and
closes one that is in use and waits; VIEWST reads and clears a counter; DERIVE starts the pending block whose turn it is; PUBLICATION writes
the derived block and then its state entry, or marks the block FAULTED, with a FAULT message where the master could not be read; VLDV writes
the blocks it reads and their scales and counts what it met, and what was not there reads as zero and leaves pg. Nothing else changes.
When a follow-up event falls due is the model's choice (log 5). -/
def Obligations.Views : Prop :=
  (∀ (s s1 s2 s3 : State) (rd ra rb : Reg) (n : Nat) (qs : List Piece) (w : View),
    let P := s.t.part
    let a := s.xr ra
    let sh := descWord n 5
    let k := descWord n 3 / 2 ^ 44 % 16 + 1
    let table := s2.piecesValue 32 qs
    let v := View.of n table [] s.t.core
    let q := s.xr rb
    let sel : Fin 4 := Fin.ofNat 4 q.toNat
    let flat (ps : List Piece) (u : State) : Prop := absents (ps.map (·.place)) = [] ∧ u.bad = []
    (s.calm → Described s a 64 n s1 → sh < 2 ^ 56 → sh % 64 = 0 →
      s1.locatePieces 32 32 { r := true } .plain ((List.range k).map fun j => BitVec.ofNat 64 (sh + 32 * j)) = .ok (qs, s2) → flat qs s2 →
      (viewOk n table v = false → exec (.viewreg rd ra) s = raise .illegal a s2)
      ∧ (viewOk n table v = true →
        ((v.vf ≠ 8 ∧ w = v ∧ s3 = s2) ∨ (v.vf = 8 ∧ ∃ p, s2.locatePieces 32 32 { r := true } .plain [BitVec.ofNat 64 (descWord n 4)] = .ok ([p], s3)
          ∧ flat [p] s3 ∧ cbOk (codebookOf (s3.piecesValue 32 [p])) = true ∧ w = { v with cb := codebookOf (s3.piecesValue 32 [p]) })) →
        (∀ c tv z, masterPieces w.masterRanges s3 = .error ⟨some (c, tv), z, none⟩ → exec (.viewreg rd ra) s = raise c tv z)
        ∧ ∀ m z, masterPieces w.masterRanges s3 = .ok (m, z) →
          (∀ c tv y, viewPages w.storageRanges z = .error ⟨some (c, tv), y, none⟩ → exec (.viewreg rd ra) s = raise c tv y)
          ∧ ∀ y, viewPages w.storageRanges z = .ok y →
            let x := { w with master := m, pending := w.blocks.map fun b => (b.1, b.2, y.stamp) }
            let free := (List.range 256).find? fun i => ((y.part P).views.find i).isNone
            (free = none → SetsX (.viewreg rd ra) s y rd (-1))
            ∧ (free ≠ none → View.tooMany x y = true → SetsX (.viewreg rd ra) s y rd (-2))
            ∧ (∀ id, free = some id → View.tooMany x y = false →
                ((x.statePlaces P y).any (fun pa => y.underTest pa 16) = true → exec (.viewreg rd ra) s = stall y)
                ∧ ((x.statePlaces P y).any (fun pa => y.underTest pa 16) = false → SetsX (.viewreg rd ra) s (((x.clearStates P y).bump.setView P id x).kickFerries) rd (BitVec.ofNat 64 id)))))
    ∧ (s.calm →
      ((255 < a.toNat ∨ (s.part P).views.find a.toNat = none) → WritesX (.viewdrop rd ra) s rd 1)
      ∧ ∀ u, a.toNat ≤ 255 → (s.part P).views.find a.toNat = some u →
        (s.viewRead P a.toNat = false → u.deriving_ = [] → u.stopped = [] →
          SetsX (.viewdrop rd ra) s ((s.setPart P { s.part P with views := (s.part P).views.del a.toNat }).kickFerries) rd 0)
        ∧ ((s.viewRead P a.toNat = true ∨ u.deriving_ ≠ [] ∨ u.stopped ≠ []) →
          exec (.viewdrop rd ra) s = stall (s.setView P a.toNat { u with closed := true })))
    ∧ (s.calm → s.quiet →
      let bad : Prop := 512 ≤ q.toNat ∨ q.toNat / 4 % 64 ≠ 0
      (a ≠ BitVec.allOnes 64 → (255 < a.toNat ∨ (s.part P).views.find a.toNat = none) → Traps (.viewst rd ra rb) s .illegal a)
      ∧ (a = BitVec.allOnes 64 → bad → Traps (.viewst rd ra rb) s .illegal q)
      ∧ (a = BitVec.allOnes 64 → ¬ bad → SetsX (.viewst rd ra rb) s
          (if q.getLsbD 8 then s.setPart P { s.part P with viewTotals := (s.part P).viewTotals.set sel 0 } else s) rd ((s.part P).viewTotals.get sel))
      ∧ ∀ u, a.toNat ≤ 255 → (s.part P).views.find a.toNat = some u →
        (bad → Traps (.viewst rd ra rb) s .illegal q)
        ∧ (¬ bad → SetsX (.viewst rd ra rb) s
            (if q.getLsbD 8 then s.setView P a.toNat { u with counters := u.counters.set sel 0 } else s) rd (u.counters.get sel))))
  ∧ (∀ (s : State) (part id row blk pa : Nat) (v : View) (h : Shard), (s.part part).views.find id = some v →
    let die := v.die row blk
    (∀ d, v.pending.find? (fun d => (d.1, d.2.1) == (row, blk)) = some d → (s.part part).held = false →
      (s.nextPending die = some (part, id, d) → s.ferryLoad die < 64 → exec (.derive part id row blk) s = .next
        (((s.setView part id { v with pending := v.pending.filter (· != d), deriving_ := v.deriving_ ++ [(row, blk, s.blockSeq v row blk)] }).after
            (.die die) (s.deriveCycles part v row blk) (.publication part id row blk)).kickFerry die))
      ∧ ((s.nextPending die ≠ some (part, id, d) ∨ 64 ≤ s.ferryLoad die) → exec (.derive part id row blk) s = .next s))
    ∧ (∀ (d : Nat × Nat × Nat) (sa s0 s1 : State) (bytes : Option Nat), v.deriving_.find? (fun d => (d.1, d.2.1) == (row, blk)) = some d →
        shardOf row v.shards = some h → s.ferryAt part (v.stateVa h row blk) = .ok (pa, sa) → sa.masterBytes part v row blk = .ok (bytes, s0) →
        let b := BlockState.ofWords (sa.loadLE pa 8) (sa.loadLE (pa + 8) 8)
        let o := 1 - b.slot
        let marks (u z : State) (e : BlockState) : Prop := StoresCells u z (leCells pa 8 e.words.1 ++ leCells (pa + 8) 8 e.words.2)
        let writes (u : State) (e : BlockState) : Prop := ∃ z, marks u z e
          ∧ exec (.publication part id row blk) s = .next (z.endDerive part id row blk d.2.2 true)
        (v.deriveBytes bytes = .fault → s0.healthy → writes s0 { b with faulted := true })
        ∧ (bytes = none → s0.mem.wf = true → badIn s0.bad pa 16 = none → (∀ k, k < 16 → s0.served (pa + k) = true) → ∃ z, marks s0 z { b with faulted := true }
          ∧ exec (.publication part id row blk) s = .next ((z.ferryMemErr part id v row blk).endDerive part id row blk d.2.2 true))
        ∧ ∀ sc codes, v.deriveBytes bytes = .ok sc codes →
          v.writeBlock part h o (row - h.firstRow) (32 * blk) codes s0 = .ok (s1, false) → s1.healthy →
          writes s1 ⟨d.2.2, true, false, o, if o = 0 then sc else b.sc0, if o = 1 then sc else b.sc1⟩))
  ∧ ∀ (s s1 : State) (vr ra rb : Reg) (pg : Pg) (sc : Sc) (pol : ViewPol) (v : View) (z : ViewRead),
    s.vectorReady (.vldv vr ra rb pg sc pol) → s.mayBegin (.vldv vr ra rb pg sc pol) → s.rd.st.ph ≠ .c → s.t.seq.wait = none → (s.xr ra).toNat ≤ 255 →
    (s.part s.t.part).views.find (s.xr ra).toNat = some v → v.closed = false →
    let row := (s.xr rb).toNat / 2 ^ 32
    let col := (s.xr rb).toNat % 2 ^ 32
    let bb := 4 * v.ebits
    let js := (List.range v.nb).filter fun j => decide ((s.pr pg).toNat / 2 ^ (bb * j) % 2 ^ bb ≠ 0)
    let r2 : Reg := Fin.ofNat 32 (vr.val + 1)
    row < v.rows → col < v.cols → col % 32 = 0 →
    v.readAll (stronger pol ((ViewPol.ofCode? v.dpol).getD .mst)) (s.pr pg) row (col / 32) js (js.map fun j => s.blockSeq v row (col / 32 + j)) s = .ok (z, s1) →
    let u := ((s1.meetAbsent (absents z.places)).countView s.t.part (s.xr ra).toNat z.count 0).countScales s.t.core z.count.reserved
    ∃ t, exec (.vldv vr ra rb pg sc pol) s = .next t
      ∧ VectorFrame [vr, r2] (if z.gone = [] then u else u.pw pg (s.pr pg &&& ~~~ pieceBits 1 z.gone)) t
      ∧ t.t.vr r2 = vSetBytes (s.vr r2) z.scales ∧ (vr ≠ r2 → t.t.vr vr = vSetBytes (s.vr vr) z.bytes)

/-- Remap windows and key-value sequences (R292, R297 to R301): RMAPSET writes a row's entry, 1 for an absent row; KVSLOT finds where a position's slot lies; KVAPP
extends the sequence, in a new block where the last is full or shared, or answers −1 without room and −2 for an absent block; KVTRUNC
shortens it or makes it the beginning of another; KVEVICT clears positions of a block, or moves or drops the block. Nothing else changes.
The contents of new slots are free values (log 4), and the order of the free lists is the model's (log 67). ILLEGAL for a fork of another slot
size, 0 for the demotion of an absent block and -1 for an eviction's copy without room are readings (log 29). -/
def Obligations.RemapAndKeyValue : Prop :=
  ∀ (s s1 s2 : State) (rd ra rb : Reg) (e : TlbEntry), s.calm →
    let a := s.xr ra
    let w := s.xr rb
    let P := s.t.part
    let slot := e.frame + 64 + 8 * ((a.toNat - e.base) / e.rowSize)
    (PageAt s a .remap e s1 → s1.healthy → s1.underTest slot 8 = false →
      (w = 0 → ∃ z, Machine.Stores s1 z slot 8 1 ∧ Completes (.rmapset ra rb) s z)
      ∧ (w.toNat % 64 ≠ 0 → exec (.rmapset ra rb) s = raise .align w s1)
      ∧ (∀ d, w ≠ 0 → w.toNat % 64 = 0 → 0x01000000 ≤ w.toNat → w.toNat + e.rowSize ≤ 2 ^ 56 → s1.xlate w.toNat = .ok (d, s2) → s2.healthy →
          d.base ≤ w.toNat → w.toNat + e.rowSize ≤ d.base + d.size →
          let pa := d.frame + (w.toNat - d.base)
          let fits : Prop := d.kind = .plain ∧ d.allows { r := e.readable, w := e.writable } = true ∧ assigned pa = true ∧ assigned (pa + (e.rowSize - 1)) = true
          (fits → ∃ z, Machine.Stores s2 z slot 8 pa ∧ Completes (.rmapset ra rb) s z)
          ∧ (¬ fits → exec (.rmapset ra rb) s = raise .access w s2)))
    ∧ (isOpt s.t.core = false → PageAt s a .kv e s1 → s1.mem.wf = true → s1.bad = [] → s1.pkg.units = [] →
        let q := s1.kvSeq e
        let n := w.toNat
        let b := q.len % 64
        let j := q.len / 64
        let i := s1.kvMap q j
        let d (k : Nat) := s1.kvGet P (s1.kvMap q k)
        let c := s1.pathLatency s.t.core e.frame + 8
        let size (u : State) := u.mem.readLE e.frame 4
        let extends_ (i : Nat) (u : State) : Prop :=
          let g := u.kvGet P i
          let bits := g.surv ||| ((2 ^ n - 1) * 2 ^ b)
          let z := (freeCells (g.base + popCount b bits * q.ss) (n * q.ss) (u.kvPut P i { g with surv := bits })).kvSetLen q (q.len + n)
          SetsX (.kvapp rd ra rb) s (z.heldFor c) rd (BitVec.ofNat 64 q.len) ∧ (u.mem.wf = true → size z = (q.len + n) % 2 ^ 32)
        SetsX (.kvslot rd ra rb) s (s1.heldFor c) rd
          (if q.len ≤ n then -3 else if (d (n / 64)).res = 2 then -2 else if (d (n / 64)).surv / 2 ^ (n % 64) % 2 = 0 then -1
           else BitVec.ofNat 64 (64 * (n / 64) + popCount (n % 64) (d (n / 64)).surv))
        ∧ (n = 0 ∨ 64 - b < n → exec (.kvapp rd ra rb) s = raise .illegal w s1)
        ∧ (1 ≤ n → n ≤ 64 - b → (s1.part P).regSize < 64 * q.ss → exec (.kvapp rd ra rb) s = raise .illegal a s1)
        ∧ (1 ≤ n → n ≤ 64 - b → 64 * q.ss ≤ (s1.part P).regSize →
            (b = 0 →
              (s1.kvTake P = none → SetsX (.kvapp rd ra rb) s (s1.heldFor c) rd (-1))
              ∧ ∀ i s2, s1.kvTake P = some (i, s2) →
                (s2.anyRegion P = none → SetsX (.kvapp rd ra rb) s (s1.heldFor c) rd (-1))
                ∧ ∀ r base s3, s2.anyRegion P = some (r, base, s3) → extends_ i ((s3.kvPut P i ⟨0, r, base, 1⟩).kvSetMap q j (some i)))
            ∧ (b ≠ 0 → (d j).res = 2 → SetsX (.kvapp rd ra rb) s (s1.heldFor c) rd (-2))
            ∧ (b ≠ 0 → (d j).res ≠ 2 → (d j).refcnt ≤ 1 → extends_ i s1)
            ∧ (b ≠ 0 → (d j).res ≠ 2 → 1 < (d j).refcnt →
              (s1.kvUnshare P q j b = none → SetsX (.kvapp rd ra rb) s (s1.heldFor c) rd (-1))
              ∧ ∀ m u, s1.kvUnshare P q j b = some (m, u) → extends_ m u))
        ∧ (s.xr rd = 0 →
            (n ≤ q.len → Completes (.kvtrunc rd ra rb) s ((s1.kvTruncate P q n).heldFor c) ∧ size (s1.kvTruncate P q n) = n % 2 ^ 32)
            ∧ (q.len < n → exec (.kvtrunc rd ra rb) s = raise .illegal w s1))
        ∧ (∀ f, s.xr rd ≠ 0 → PageAt s1 (s.xr rd) .kv f s2 → s2.bad = [] →
            let p := s2.kvSeq f
            ((p.len < n ∨ f.frame = e.frame ∨ p.ss ≠ q.ss) → exec (.kvtrunc rd ra rb) s = raise .illegal w s2)
            ∧ (n ≤ p.len → f.frame ≠ e.frame → p.ss = q.ss →
              Completes (.kvtrunc rd ra rb) s ((((s2.kvTruncate P q 0).kvShare P p q ((n + 63) / 64)).kvSetLen q n).heldFor c))))
    ∧ (isOpt s.t.core = false → PageAt s (a &&& ~~~3) .kv e s1 → s1.mem.wf = true → s1.bad = [] → s1.pkg.units = [] →
        let q := s1.kvSeq e
        let j := (a.toNat - e.base) / q.ss / 64
        let i := s1.kvMap q j
        let d := s1.kvGet P i
        let c := s1.pathLatency s.t.core e.frame + 8
        let answers (u : State) (v : W64) : Prop := SetsX (.kvevict rd ra rb) s (u.heldFor c) rd v
        let clears (i : Nat) (u : State) : Prop :=
          let g := u.kvGet P i
          let new := g.surv &&& (2 ^ 64 - 1 - w.toNat)
          let z := if g.res = 2 then u else moveSlots g.base q.ss (compaction g.surv new) u
          answers (z.kvPut P i { g with surv := new }) (BitVec.ofNat 64 new)
        let moves (r : Nat) : Prop := (∀ u, s1.kvMove P i r q.ss = some u → answers u 0) ∧ (s1.kvMove P i r q.ss = none → answers s1 (-1))
        (q.len ≤ 64 * j → exec (.kvevict rd ra rb) s = raise .illegal a s1)
        ∧ (64 * j < q.len →
            (a.toNat % 4 = 0 →
              (d.refcnt ≤ 1 → clears i s1)
              ∧ (1 < d.refcnt →
                let r := s1.kvUnshare P q j (if q.len / 64 = j then q.len % 64 else 64)
                (r = none → answers s1 (-1)) ∧ ∀ m u, r = some (m, u) → clears m u))
            ∧ (a.toNat % 4 = 1 → (d.res ≠ 0 → answers s1 0) ∧ (d.res = 0 → moves 1))
            ∧ (a.toNat % 4 = 2 → (d.res = 2 → answers s1 (-2)) ∧ (d.res = 0 → answers s1 0) ∧ (d.res ≠ 2 → d.res ≠ 0 → moves 0))
            ∧ (a.toNat % 4 = 3 → answers ((s1.giveRegion P d.res d.base).kvPut P i { d with res := 2, base := 0 }) 0)))

/-! ## The matrix unit -/

/-- The matrix unit (R183, R225 to R240): VSTQ queues a command of sixteen words; in its turn a command has its effect and starts: MZERO, MLDACC and an
int8 MMA set the words of the region, MMAG accumulates the rows its indices name, MSTACC stores them, MFMT, MSWAP and MTABLE set the core's and the cluster's
state, MXPOSE moves the panels, MSIG only signals; a refused command reports instead; MOPS signals or sends its message; the completion sends
its messages and, once they have been accepted, frees the entry. Nothing else changes.
When a follow-up event falls due is the model's choice (log 5). Which refusal comes first is the model's choice (log 26). -/
def Obligations.MatrixUnit : Prop :=
  (∀ (s : State) (vr ra rb : Reg) (sw : Nat) (k' : Core), s.vectorReady (.vstq vr ra rb) → s.rd.st.ph ≠ .c → s.posted = [] → s.t.matrixReport = none →
    s.xr ra = 0x800000 → (s.xr rb).toNat ≤ 3 →
    let C := s.t.core
    let c : MCmd := { w := words32 ((s.vr vr).toNat / 2 ^ (512 * (s.xr rb).toNat) % 2 ^ 512), task := s.t.tid, part := s.t.part,
                      exact := s.rd.st.exact, apx := s.rd.st.apx, nft := s.rd.st.nft }
    (s.core C).mq.length < 8 → (s.core C).accept c s.t.tid s.t.st.s = some (k', sw) →
    VectorGives (.vstq vr ra rb) s
      (((s.setCore C { k' with mq := k'.mq ++ [{ c with swaps := sw }], mtail := 0 }).countSent C).mKick (clusterOf C)))
  ∧ (∀ (s : State) (core : Nat) (c : MCmd) (r : List MCmd), (s.core core).mq = c :: r → c.started = false →
    let K := s.core core
    let k := clusterOf core
    (s.cluster k).mbusy = some (core % 8) → c.refusal K.fmt = none →
    let in_ (i j : Nat) : Prop := i < c.m ∧ j < c.n
    let starts (u : State) (d : MCmd) (n : Nat) : State := (u.setHead core { d with started := true }).after (.issue core) n (.matrixCompletion core)
    let consumes (u : State) (d : MCmd) (used n : Nat) : State :=
      ((u.setHead core { d with started := true }).after (.issue core) used (.mops core)).after (.issue core) n (.matrixCompletion core)
    let refuses (u : State) (why at_ n : Nat) : State :=
      (u.setHead core { c with started := true, refused := some (c.tval why at_) }).after (.issue core) (2 + n) (.matrixCompletion core)
    let rowsA := (List.range c.m).map fun i => c.field 2 + i * c.field 10
    let alone (u : State) : Prop := ∃ ps, s.mPieces core c.part { w := true } c.sigRange = .ok (ps, u)
    (c.op = 3 → ∀ u, alone u → ∃ a, exec (.mzero core) s = .next (starts (u.setAcc core c a) c 4)
      ∧ (let A := u.acc core c
         a = { A with words := a.words, sat := false, ncnt := A.ncnt.filter fun p => decide (c.m ≤ p.1) }
         ∧ ∀ i j, i < 128 → j < 128 → (in_ i j → a.word i j = 0) ∧ (¬ in_ i j → a.word i j = A.word i j)))
    ∧ (c.op = 4 → ∀ d s1, s.mRead core c.part (rowsA.map fun a => (a, 4 * c.n)) c.sigRange = .ok (d, [], s1) → d.any anyBad = false →
        ∃ a, exec (.mldacc core) s = .next (starts (s1.setAcc core c a) { c with memErr := false, sat := false, absent := false }
            ((c.m * c.n * 4 + 2047) / 2048 + 8 + mLatency core s c.part (c.field 2)))
          ∧ (let A := s1.acc core c
             a = { A with words := a.words, sat := false, ncnt := A.ncnt.filter fun p => decide (c.m ≤ p.1) }
             ∧ ∀ i j, i < 128 → j < 128 → (in_ i j → a.word i j = dataNat (d.getD i []) / 2 ^ (32 * j) % 2 ^ 32) ∧ (¬ in_ i j → a.word i j = A.word i j)))
    ∧ (c.op = 5 → c.stats = false →
        let of := Ft.ofCode (c.kb % 8)
        let ranges := (List.range c.m).map fun i => (c.field 4 + i * c.field 11, c.n * of.width)
        let all := ranges ++ (if c.field 6 = 0 then [] else [(c.field 6, 320)])
        ∀ ps sp s0 s1, s.mPieces core c.part { w := true } (all.flatMap fun r => runsOf (bytesFrom r.1 r.2)) = .ok (ps, s0) →
        s0.mPieces core c.part { w := true } c.sigRange = .ok (sp, s1) →
        let A := s1.acc core c
        let bytes := ranges.zipIdx.flatMap fun r =>
          ((List.range c.n).flatMap fun j => leBytes of.width (outEl K.fmt.ints of none (A.word r.2 j))).zipIdx.map fun b => (r.1.1 + b.2, b.1)
        let block := if c.field 6 = 0 then [] else A.statusBytes.zipIdx.map fun b => (c.field 6 + b.2, b.1)
        let write := (s1.setAcc core c A).engWrite c.task ps (bytes ++ block).reverse
        (∀ w, write = some w → exec (.mstacc core) s = .next
          (starts (w.mReport core c) c ((c.m * c.n * 4 + 2047) / 2048 + 8 + mLatency core s c.part (c.field 4))))
        ∧ (write = none → exec (.mstacc core) s = .next (s.after (.issue core) 16 (.mstacc core))))
    ∧ (c.op = 6 → ∀ d s1, s.mRead core c.part ((if c.af = 8 then [(c.field 2, 32)] else []) ++ (if c.bf = 8 then [(c.field 4, 32)] else [])) c.sigRange = .ok (d, [], s1) →
        d.any anyBad = false →
        let book (l : List MByte) : List W16 := (List.range 16).map fun q => BitVec.ofNat 16 (dataNat l / 2 ^ (16 * q) % 2 ^ 16)
        exec (.mfmt core) s = .next (starts
          (s1.setCore core { s1.core core with fmt :=
            { afmt := c.af, ascale := (c.word 1).testBit 8, bfmt := c.bf, bscale := (c.word 1).testBit 9, statBase := c.word 1 / 2 ^ 16 % 2 ^ 8,
              acb := book (if c.af = 8 then d.headD [] else []), bcb := book (if c.bf = 8 then d.getLastD [] else []), acbAt := c.field 2, bcbAt := c.field 4 } })
          { c with memErr := false, absent := false } 2))
    ∧ (c.op = 7 → ∀ u, alone u →
        exec (.mswap core) s = .next (starts (u.setCore core { u.core core with bank := (u.core core).mitten, mitten := (u.core core).bank }) c 2))
    ∧ (c.op = 10 → ∀ u, alone u → exec (.msig core) s = .next (starts u c 2))
    ∧ (c.op = 8 → ∀ d s1, s.mRead core c.part [(c.field 2, 64)] c.sigRange = .ok ([d], [], s1) → anyBad d = false →
        let t8 := d.map fun b => b.toByte.toNat
        let first := mLatency core s c.part (c.field 2)
        let legal : Prop := (∀ b ∈ t8, b < 8) ∧ ∀ i, i < 8 → isPerm8 ((t8.drop (8 * i)).take 8) = true
        (legal → exec (.mtable core) s = .next
          (starts (s1.setCluster k { s1.cluster k with mtable := t8 }) { c with memErr := false, absent := false } (2 + first)))
        ∧ (¬ legal → exec (.mtable core) s = .next (refuses s1 8 0 (first + s.walkCycles core c.part [c.field 2 / 65536]))))
    ∧ (c.op = 1 → (∀ d used n u, mProduct core K.fmt c rowsA 0 0 false [] s = .done d used n u → exec (.mma core) s = .next (consumes u d used n))
      ∧ (K.fmt.ints = true → ∀ d s1, s.mRead core c.part ((rowsA.map fun a => (a, packedBytes 7 (32 * c.kb))) ++ c.bRanges K.fmt) c.sigRange = .ok (d, [], s1) →
        d.any anyBad = false →
        let ca := (d.take c.m).map (codesOf 7 (32 * c.kb))
        let cb := c.bCodes K.fmt (d.drop c.m)
        let A := s1.acc core c
        let sum (i j : Nat) := sumInts (ca.getD i []) (cb.getD j []) 0 c.kb (A.word i j) false
        let n := mLatency core s c.part (c.field 2) + 16 + 32 * c.kb
        ∃ a o, exec (.mma core) s = .next
            (consumes (s1.setAcc core c a) { c with sat := o, nan := false, nf := none, fmts := (7, 7), absent := false } (n - 32) n)
          ∧ a = { A with words := a.words, sat := A.sat || o } ∧ (o = true ↔ ∃ i j, in_ i j ∧ (sum i j).2 = true)
          ∧ ∀ i j, i < 128 → j < 128 → (in_ i j → a.word i j = (sum i j).1 % 2 ^ 32) ∧ (¬ in_ i j → a.word i j = A.word i j)))
    ∧ (c.op = 2 → ∀ d ab s1, s.mRead core c.part [(c.field 6, 2 * c.m)] [] = .ok ([d], ab, s1) → anyBad d = false →
        let rows := (List.range c.m).map fun i => c.field 2 + dataNat d / 2 ^ (16 * i) % 2 ^ 16 * c.field 10
        let before := mLatency core s c.part (c.field 6) + 16 + s.walkCycles core c.part [c.field 6 / 65536]
        ∀ c' used n u, mProduct core K.fmt c rows (ceilDiv (c.m * 32 * c.kb * mbits K.fmt.afmt) (8 * 2048)) before false ab s1 = .done c' used n u →
        exec (.mmag core) s = .next (consumes u c' used n))
    ∧ (c.op = 9 → s.bad = [] → s.pkg.units = [] → (s.mHeads k).length = 8 → (∀ h ∈ s.mHeads k, s.xposeMiss h.1 h.2 = none ∧ h.2.kb = c.kb) →
        let hs := (s.mHeads k).map fun h => (h.1, { h.2 with swaps := 0 })
        let u := swapAll (s.mHeads k) (s.setCluster k { s.cluster k with mbusy := some 8 })
        let base := vaultBase k
        let mv := (List.range 8).map (xposeMoves (s.cluster k).mtable (hs.map (·.2)))
        let x := xposeAll base (mv.flatten.map (·.2)) (mv.flatten.map (·.1)) mv u
        let z := xposeWrite (hs.zip x.1) x.2
        exec (.mxpose core) s = .next (startAll (Nat.max 8 (2 * c.kb)) (fun _ => false) hs z)
        ∧ (s.healthy → ∀ m ∈ mv.flatten, m.1 ∉ mv.flatten.map (·.2) → (mv.flatten.filter fun x => x.1 == m.1).length = 1 →
            z.mem.byteAt (base + m.1) = u.byteAt (base + m.2))))
  ∧ ∀ (s : State) (core : Nat) (c : MCmd) (r : List MCmd), (s.core core).mq = c :: r →
    let k := clusterOf core
    (c.started = false → (s.cluster k).mbusy = some (core % 8) → ∀ why at_, c.refusal (s.core core).fmt = some (why, at_) → ∀ i : Instr,
      (c.op, i) ∈ [(1, Instr.mma core), (2, .mmag core), (3, .mzero core), (4, .mldacc core), (5, .mstacc core), (6, .mfmt core), (7, .mswap core),
        (8, .mtable core), (9, .mxpose core), (10, .msig core)] →
      exec i s = .next ((s.setHead core { c with started := true, refused := some (c.tval why at_) }).after (.issue core) 2 (.matrixCompletion core)))
    ∧ (c.started = true → c.signalled = false → c.refused = none → (c.op = 1 ∨ c.op = 2) → c.sig = false →
        let z := s.setHead core { c with signalled := true }
        (c.nomsg = true → exec (.mops core) s = .next z)
        ∧ (c.nomsg = false → exec (.mops core) s = .next (z.deliverFor c.task c.part core (muMsg k 3 (c.op * 2 ^ 8 + c.tag)))))
    ∧ (c.started = true → c.signalled = false → c.refused = none → (c.op = 1 ∨ c.op = 2) → c.sig = true →
        (∀ u, s.mSignal core c = some u → exec (.mops core) s = .next (u.setHead core { c with signalled := true }))
        ∧ (s.mSignal core c = none → exec (.mops core) s = .next (s.after (.issue core) 16 (.mops core))))
    ∧ (c.started = true → c.told = false → (c.signalled = true ∨ (c.sig = false ∧ (c.refused ≠ none ∨ (c.op ≠ 1 ∧ c.op ≠ 2)))) →
        let e := { c with signalled := true }
        let u := mTell core e s
        let held := (e.tells u core).any fun m => u.holds m.1 m.2
        (held = true → exec (.matrixCompletion core) s = .next (u.after (.issue core) 16 (.matrixCompletion core)))
        ∧ (held = false →
          let q := u.core core
          let z := (u.setCore core ({ q with mq := q.mq.tail }.settleTail)).countEnd c.part core
          let busy := (List.range 8).any fun j => match (z.core (8 * k + j)).mq with
            | d :: _ => d.started
            | [] => false
          exec (.matrixCompletion core) s = .next (if busy then z else (z.setCluster k { z.cluster k with mbusy := none }).mKick k))
        ∧ (c.refused = none → c.nf = none → c.memErr = false → c.absent = false →
          u = (if c.nomsg = true then s else s.deliverFor c.task c.part core (muMsg k 4 c.mdone)).setHead core { e with told := true }))

/-! ## Tasks, messages and counters -/

/-- Counters, remote writes and tasks (R8 to R18, R384). CTRRD reads a counter of the core; CTRSET sets it, and an entry whose condition
then holds is marked and launches. TASKW puts a legal descriptor into the lowest free slot of the core and writes its number, or all ones
where no slot is free. WRC sends a write and a counter change of 1, WRC.c one of 1 minus the low half of xb; a VERSIONED word takes a new
version, or the task parks for want of room. A write on its way is performed; a counter change takes effect once the task's earlier ones
to that core have, after the task's writes, and one to a core that has left the partition joins the task's failure record. An entry
that is met becomes a ready task, in the starting state of R8, once its core holds fewer than 16 tasks and has room for its Hatbox. DONE retires the task.
Nothing else changes. When a follow-up event falls due is the model's choice (log 5). Task numbers are the model's counter (log 6). -/
def Obligations.TasksAndCounters : Prop :=
  (∀ (s s1 : State) (rd ra rb : Reg) (n : Fin 16) (d pa : Nat) (k : PageKind), s.calm →
    let C := s.t.core
    let K := s.core C
    let v : W32 := (s.xr ra).setWidth 32
    let a := s.xr ra
    let b := s.xr rb
    let T := (s.xr rd).toNat
    WritesX (.ctrrd rd n) s rd ((K.ctr.get n).signExtend 64)
    ∧ Completes (.ctrset ra n) s (s.setCtr C n v)
    ∧ ((∀ x ∈ K.table, x.2.met = true ∨ x.2.ctr ≠ n ∨ v.toInt < x.2.thr.toInt) → s.setCtr C n v = s.setCore C { K with ctr := K.ctr.set n v })
    ∧ (∀ slot e, K.table = [(slot, e)] → e.met = false → e.ctr = n → e.thr.toInt ≤ v.toInt →
        s.setCtr C n v = (s.setCore C { K with ctr := K.ctr.set n v, table := [(slot, { e with met := true })] }).at_ 0 (.entryLaunch C (Fin.ofNat 16 slot)))
    ∧ (a.toNat % 32 ≠ 0 → Traps (.taskw rd ra rb) s .align a)
    ∧ (Described s a 32 d s1 →
        let B := b.toNat
        let e := WEntry.of d s.t.part s.t.launch
        let u := s1.heldFor (s1.messageLatency C B + 8)
        (s1.inPart s.t.part B = false → exec (.taskw rd ra rb) s = raise .access b s1)
        ∧ (s1.inPart s.t.part B = true → taskwOk d B = false → exec (.taskw rd ra rb) s = raise .illegal a s1)
        ∧ (s1.inPart s.t.part B = true → taskwOk d B = true →
          (freeSlot (s1.core B).table = none → SetsX (.taskw rd ra rb) s u rd (BitVec.allOnes 64))
          ∧ ∀ j, freeSlot (s1.core B).table = some j →
            let z := ((u.setCore B { s1.core B with table := (s1.core B).table.put j e }).countSent C).countRecv B
            SetsX (.taskw rd ra rb) s (if e.thr.toInt ≤ ((s1.core B).ctr.get e.ctr).toInt then
              (z.setCore B { z.core B with table := (z.core B).table.put j { e with met := true } }).at_ 0 (.entryLaunch B (Fin.ofNat 16 j)) else z) rd (BitVec.ofNat 64 j)))
    ∧ ∀ i ∈ [(Instr.wrc rd ra rb n, (1 : W32)), (.wrcC rd ra rb n, 1 - b.setWidth 32)],
        let sent (u : State) : State := State.after { u.countSent C with sends := u.sends ++ [⟨T, none, s.t.tid, s.t.part, n, i.2⟩] } (dieClk C)
          (u.messageLatency C T) (.wrcArrival T n i.2 s.t.tid)
        (a.toNat % 8 ≠ 0 → Traps i.1 s .align a)
        ∧ (s.locate a 8 { w := true } = .ok (⟨.at pa, k⟩, s1) → a.toNat % 8 = 0 →
          (k = .view → exec i.1 s = raise .access a s1)
          ∧ (k ≠ .view → s1.inPart s.t.part T = false → exec i.1 s = raise .access (s.xr rd) s1)
          ∧ (k ≠ .view → k ≠ .versioned → s1.inPart s.t.part T = true → Completes i.1 s (sent (State.after
              { s1 with posted := s1.posted ++ [⟨s.t.tid, leCells pa 8 b.toNat⟩] } (dieClk C) (s1.messageLatency C T) .accessPerformed)))
          ∧ (k = .versioned → s1.inPart s.t.part T = true →
              (∀ l u, s1.newVersion s.t.tid pa b = some (l, u) → Completes i.1 s (sent u))
              ∧ (s1.newVersion s.t.tid pa b = none → Parks i.1 s s1 (.room pa b) a)))
        ∧ ∀ w, Completes i.1 (s.wokenWith w) (sent (s.wokenWith w)))
  ∧ (∀ (s : State) (p : Posted) (r : List Posted), s.posted = p :: r →
    ((∀ c ∈ p.cells, s.underTest c.1 1 = false) → exec .accessPerformed s = .next ({ s with posted := r }.perform p))
    ∧ ((∃ c ∈ p.cells, s.underTest c.1 1 = true) → exec .accessPerformed s = .next (s.at_ 16 .accessPerformed)))
  ∧ (∀ (s : State) (pre post : List Flight) (f : Flight), f.msg = none → s.sends = pre ++ f :: post →
    let arrives := exec (.wrcArrival f.core f.ctr f.delta f.tid) s
    let u := performOf f.tid s.posted { s with posted := s.posted.filter (·.tid != f.tid), sends := pre ++ post }
    ((∀ e ∈ pre, ¬ (e.core = f.core ∧ e.tid = f.tid ∧ e.msg = none)) → (∀ p ∈ s.posted, p.tid = f.tid → s.postedHeld p = false) →
      (u.inPart f.part f.core = true → arrives = .next ((u.countRecv f.core).setCtr f.core f.ctr ((u.core f.core).ctr.get f.ctr + f.delta)))
      ∧ (u.inPart f.part f.core = false → arrives = .next (u.failTask f.tid false)))
    ∧ (∀ e, pre = [e] → e.core = f.core → e.tid = f.tid → e.msg = none → (e.ctr, e.delta) ≠ (f.ctr, f.delta) →
      arrives = .next (s.at_ 1 (.wrcArrival f.core f.ctr f.delta f.tid))))
  ∧ (∀ (s : State) (core : Nat) (slot : Fin 16) (e : WEntry), (s.core core).table.find slot.val = some e →
    let u := s.setCore core { s.core core with table := (s.core core).table.del slot.val }
    let z := if u.holdsWork e.part then u else u.wdogAnew e.part
    let n := s.freshTid
    ((e.met = false ∨ 16 ≤ (s.tasksOn core).length) → exec (.entryLaunch core slot) s = .next s)
    ∧ (e.met = true → (s.tasksOn core).length < 16 →
      (((s.part e.part).held = true ∨ s.hatboxRoom e.part core e.hv = none) → exec (.entryLaunch core slot) s = .next (s.at_ 64 (.entryLaunch core slot)))
      ∧ ∀ h, (s.part e.part).held = false → s.hatboxRoom e.part core e.hv = some h → exec (.entryLaunch core slot) s = .next { z with
          tasks := z.tasks.put n { tid := n, part := e.part, core := core, launch := e.launch, prio := e.prio, run := .ready, hatbox := h, since := s.stamp,
                                   pc := e.entry, x := (Vector.replicate 32 0).set 1 e.arg, hvDecl := e.hv, hvMade := e.hv, tilex := e.tx, tiley := e.ty,
                                   tilez := e.tz, allotn := e.allot, livem := BitVec.ofNat 32 (2 ^ e.allot - 1) }
          nextTid := n + 1
          stamp := s.stamp + 1
          launches := match s.launches.find e.launch with
            | some l => s.launches.put e.launch { l with tids := l.tids ++ [n] }
            | none => s.launches }))
  ∧ (∀ s : State, ∃ n, s.freshTid = s.nextTid + n ∧ (s.livingTids.length < 2 ^ 31 → s.freshTid % 2 ^ 32 ≠ 0 ∧ ∀ m ∈ s.livingTids, m % 2 ^ 32 ≠ s.freshTid % 2 ^ 32))
  ∧ ∀ s : State, s.quiet → s.t.handleReport = none → s.t.matrixReport = none → s.t.answers = [] → s.t.handleOps = [] → s.ownHeld = false →
    exec .done s = .next s.retire ∧ s.retire.t = { last := .retired } ∧ s.retire.locks = s.locks.filter (fun l => l.2.2 != s.t.tid)
    ∧ s.retire.lockQueue = s.lockQueue.filter (fun l => l.2.2 != s.t.tid)
    ∧ s.retire.posted = s.posted.filter (fun p => p.tid != s.t.tid || p.cells.all fun c => decide (2 ^ 48 ≤ c.1))
    ∧ (∀ q ∈ (s.retire.core s.t.core).phys, q.1 ≠ s.t.tid)
    ∧ (s.posted = [] → s.retire.mem = s.mem ∧ ((∀ x ∈ s.tasks.vals, x.follow = none) → s.t.launch = 0 → s.retire.tasks = s.tasks))
    ∧ (∀ q, s.t.evalOf = some q → ∃ d, (d, .evaluationCompletion q.1 q.2) ∈ s.retire.sched)

/-- Messages (R195 to R197, R66, R79, R94). SENDMSG sends to a core of the partition and waits while its mailbox is full; a message reaches the
core after its sender's earlier ones, wakes the task that waits longest for its kind, and otherwise, or while its sender holds an older one,
enters the mailbox, or is held while that is full; one to a core that has left the partition joins the failure record. WAITMSG takes the oldest selected message or parks,
POLLMSG takes it or writes 0, and a pending matrix report comes before a message of the unit; UIEN sets the mask and the enable. A
user-level interrupt saves the pc and x24 to x31 and goes to UIVEC, after 8 cycles; a RESUME message continues a halted or double-trapped
task; HREADY completes a waiter, and frees a dead entry after its last one. Nothing else changes.
When a follow-up event falls due is the model's choice (log 5); that what is in flight lands before the interrupt's registers are saved is
the model's choice too (log 49). -/
def Obligations.Messages : Prop :=
  (∀ (s : State) (rd ra rb : Reg), s.calm →
    let a := s.xr ra
    let A := a.toNat
    let C := s.t.core
    let K := s.core C
    let m := coreMsg C 8 ((s.xr rb).setWidth 48)
    let mask : W16 := a.setWidth 16
    (s.inPart s.t.part A = false → Traps (.sendmsg ra rb) s .access a)
    ∧ (s.inPart s.t.part A = true → 32 ≤ s.mailLoad A → exec (.sendmsg ra rb) s = stall s)
    ∧ (s.inPart s.t.part A = true → s.mailLoad A < 32 →
        Completes (.sendmsg ra rb) s (State.after { s.countSent C with sends := s.sends ++ [{ core := A, msg := some m, tid := s.t.tid, part := s.t.part }] }
          (dieClk C) (s.messageLatency C A) (.user A m)))
    ∧ ((8192 ≤ A ∨ A % 2 = 1) → Traps (.waitmsg rd ra) s .illegal a ∧ Traps (.pollmsg rd ra) s .illegal a ∧ Traps (.uien ra) s .illegal a)
    ∧ (A < 8192 → A % 2 = 0 →
        Completes (.uien ra) s { s with t := { s.t with uiMask := mask, st := { s.t.st with uie := decide (a ≠ 0) } } }
        ∧ (takeMsg mask K.mailbox = none → WritesX (.pollmsg rd ra) s rd 0 ∧ Parks (.waitmsg rd ra) s s (.message mask) 0)
        ∧ ∀ w r, takeMsg mask K.mailbox = some (w, r) → ∀ i ∈ [Instr.waitmsg rd ra, .pollmsg rd ra],
            let u := s.setCore C { K with mailbox := r ++ K.held.take (32 - r.length), held := K.held.drop (32 - r.length) }
            (matrixKind w = false → SetsX i s u rd w)
            ∧ (matrixKind w = true → s.t.matrixReport = none → SetsX i s (u.tookMsg w) rd w)
            ∧ (matrixKind w = true → ∀ c tv x, s.t.matrixReport = some (c, tv, x) → exec i s =
                raise c tv { s with t := { s.t with matrixReport := none, nfRec := if c = .nonfinite then x else s.t.nfRec } }))
    ∧ ∀ w, SetsX (.waitmsg rd ra) (s.wokenWith w) ((s.wokenWith w).tookMsg w) rd w)
  ∧ (∀ (s : State) (mask : W16), (∀ pre w post, selects mask (msgKind w) = true → (∀ x ∈ pre, selects mask (msgKind x) = false) →
        takeMsg mask (pre ++ w :: post) = some (w, pre ++ post))
      ∧ ∀ w, (msgKind w ≠ 4 → s.tookMsg w = s) ∧ ((s.core s.t.core).absentDone = [] → s.tookMsg w = s))
  ∧ (∀ (s : State) (msg : W64) (pre post : List Flight) (f : Flight), f.msg = some msg → s.sends = pre ++ f :: post →
    let c := f.core
    let u : State := { s with sends := pre ++ post }
    ((∀ e ∈ pre, (e.tid ≠ f.tid ∨ e.msg = none) ∧ (e.core ≠ c ∨ e.msg ≠ some msg)) →
      (s.inPart f.part c = true → exec (.user c msg) s = .next ((u.countRecv c).deliver c msg))
      ∧ (s.inPart f.part c = false → exec (.user c msg) s = .next (u.failTask f.tid false)))
    ∧ (∀ e, pre = [e] → e.tid = f.tid → e.msg ≠ none → (e.core ≠ c ∨ e.msg ≠ some msg) → exec (.user c msg) s = .next (s.at_ 1 (.user c msg))))
  ∧ (∀ (s : State) (c : Nat) (msg : W64),
    let K := s.core c
    (s.owned c = false → s.deliver c msg = s)
    ∧ (s.owned c = true →
      (s.senderHolds c msg = false → ∀ w, s.waiter c (msgKind msg) = some w → (matrixKind msg = false ∨ w.matrixReport = none) →
          s.deliver c msg = s.wakeTask w.tid (.value msg))
      ∧ ((s.senderHolds c msg = true ∨ s.waiter c (msgKind msg) = none) →
        (K.mailbox.length < 32 → K.held = [] → s.deliver c msg = s.setCore c { K with mailbox := K.mailbox ++ [msg] })
        ∧ ((32 ≤ K.mailbox.length ∨ K.held ≠ []) → s.deliver c msg = s.setCore c { K with held := K.held ++ [msg] }))))
  ∧ (∀ s : State,
    let open_ : Prop := s.t.wake = none ∧ s.t.doneA = false ∧ s.t.st.uie = true ∧ s.t.st.uia = false ∧ s.t.st.s = false ∧ s.t.st.ph = .n ∧ s.t.slot = none ∧ s.t.seq.cap = none
      ∧ ∃ m ∈ (s.core s.t.core).mailbox, selects s.t.uiMask (msgKind m) = true
    (open_ →
      let u := s.withdraw
      let t := u.t.landAll
      exec .userInterrupt s = .next { u with t := { t with uiepc := t.pc, uiShadow := Vector.ofFn fun k => t.x[k.val + 24], st := { t.st with uia := true },
                                                           pc := t.uivec, last := .moved, wake := none, hold := u.tclock + 8 } }
      ∧ (s.t.answers = [] → s.t.loads = [] → s.t.seq.loads = [] → s.t.searching = false → s.t.near = none → s.t.lockWait = false →
          (∀ l ∈ s.lockQueue, l.2.2 ≠ s.t.tid) → u = s ∧ t = s.t))
    ∧ (¬ open_ → exec .userInterrupt s = .next s))
  ∧ (∀ (s : State) (core : Nat) (p : BitVec 48), p.toNat < 2 ^ 32 →
    let named := (s.tasksOn core).find? fun u => u.tid % 2 ^ 32 == p.toNat
    (∀ t, named = some t →
      (t.run = .parked .halt → exec (.resumeMessage core p) s = .next (s.wakeTask t.tid (.value 0)))
      ∧ (t.run = .parked .doubleTrap → exec (.resumeMessage core p) s =
          .next (State.bump (s.setTask { t.continueAt with run := .ready, since := s.stamp, wake := none })))
      ∧ (t.run ≠ .parked .halt → t.run ≠ .parked .doubleTrap → exec (.resumeMessage core p) s = .next s))
    ∧ (named = none → exec (.resumeMessage core p) s = .next s))
  ∧ ∀ (s : State) (t : Task) (P e : Nat) (eager : Bool) (p : BitVec 48) (c : BitVec 8) (addr : W64), s.task t.tid = some t →
    s.pkg.units = [] → t.run = .parked (.handle P e eager) →
    let gen := p.toNat / 2 ^ 32
    let i := p.toNat % 2 ^ 32
    let w : Wake := if eager then .value (BitVec.ofNat 64 (P * 2 ^ 48 + gen * 2 ^ 32 + i)) else if c = 0 then .value addr else .trap (Cause.ofCode c.toNat) t.waitOn
    let u := ((s.setTask { t with waitLink := none }).countRecv t.core).wakeTask t.tid w
    let h := u.hGet P i
    ((h.dead = false ∨ u.readyComing P p = true) → exec (.hready t.tid p c addr) s = .next u)
    ∧ (h.dead = true → h.gen = gen → u.readyComing P p = false → (h.state = 1 ∨ h.state = 4) → exec (.hready t.tid p c addr) s = .next (u.hFree P i))

/-! ## Groups, phases and supersteps -/

/-- Groups (R205 to R209). GJOIN answers 2 to a member, 1 where another member runs on the core, else it joins and answers 0; GLEAVE
answers 1 to a task that is no member, else it leaves and answers 0; GBAR parks a member, and the last arrival fixes the release for the first
epoch boundary at least 8 cycles on, where every member completes with the barrier's number; FOLLOW parks until the leader
issues the unit at the label, and a leader goes on. Phases and exchange (R178, R210 to R213): PHASE sets the phase once everything
has drained, an exchange phase of a compute core from the next epoch boundary on; SENDAT and RECVAT work in their cycles of the phase, a cycle
that is past and another vector than the one of its cycle raise PHASE, and the transfer between them lands two cycles later. Nothing else changes.
When a follow-up event falls due is the model's choice (log 5); an optimiser core's exchange phase starts with the next unit (log 17); that
PHASE.c and PHASE.x out of an exchange phase wait for the send slots is a reading (log 28: R213 says it of PHASE.n). -/
def Obligations.GroupsAndPhases : Prop :=
  (∀ (s : State) (rd ra rb : Reg), s.calm → isOpt s.t.core = false →
    let K := clusterOf s.t.core
    let a := s.xr ra
    let g := a.toNat
    let L := s.xr rb
    let r := s.group K g
    let n := s.t.tid
    let alone : Prop := ∀ x ∈ s.allTasks, x.follow = none
    let member : Prop := n ∈ r.members
    let crowded : Prop := ∃ m ∈ r.members, ∃ t, s.task m = some t ∧ t.core = s.t.core
    (15 < g → ∀ i ∈ [Instr.gjoin rd ra, .gleave rd ra, .gbar rd ra, .follow ra rb], Traps i s .illegal a)
    ∧ (g ≤ 15 →
      (member → WritesX (.gjoin rd ra) s rd 2) ∧ (¬ member → crowded → WritesX (.gjoin rd ra) s rd 1)
      ∧ (¬ member → ¬ crowded → ∃ u, SetsX (.gjoin rd ra) s u rd 0 ∧ (u.group K g).members = r.members ++ [n]
          ∧ (alone → u = s.setGroup K g { r with members := r.members ++ [n] }))
      ∧ (¬ member → WritesX (.gleave rd ra) s rd 1)
      ∧ (member → ∃ u, SetsX (.gleave rd ra) s u rd 0 ∧ (u.group K g).members = r.members.filter (· != n)
          ∧ (alone → u = (s.setGroup K g { r with members := r.members.filter (· != n) }).checkBarrier K g))
      ∧ (member → exec (.gbar rd ra) s = .next ((s.parkedAs (.barrier K g) 0).checkBarrier K g))
      ∧ (¬ member → Traps (.gbar rd ra) s .illegal a ∧ Traps (.follow ra rb) s .illegal a)
      ∧ (∀ v, SetsX (.gbar rd ra) (s.wokenWith v) (s.wokenWith v) rd v)
      ∧ (member → L.toNat % 4 ≠ 0 → Traps (.follow ra rb) s .align L)
      ∧ (member → L.toNat % 4 = 0 → (s.t.slot ≠ none ∨ s.t.len ≠ 4) → Traps (.follow ra rb) s .illegal (s.t.word.setWidth 64))
      ∧ (member → L.toNat % 4 = 0 → s.t.slot = none → s.t.len = 4 →
          (s.leader K g = some n → Completes (.follow ra rb) s s)
          ∧ (∀ l, s.leader K g = some l → l ≠ n → Parks (.follow ra rb) s
              { s with t := { s.t with follow := some { cluster := K, g := g, leader := l, label := L } } } (.follow K g L) 0))
      ∧ (∀ v f, s.t.follow = some f → exec (.follow ra rb) (s.wokenWith v) =
          .next { s with t := { s.t with pc := f.label, last := .moved, wake := none, follow := some { f with joined := true } } })))
  ∧ (∀ (s : State) (K g : Nat),
    let r := s.group K g
    let here (m : Nat) : Prop := ∃ t, s.task m = some t ∧ t.run = .parked (.barrier K g)
    (r.release = none → r.members ≠ [] → (∀ m ∈ r.members, here m) →
      s.checkBarrier K g = (s.setGroup K g { r with release := some r.members }).after (clusterClk K) (s.toEpoch K 8) (.gbarRelease K (Fin.ofNat 16 g)))
    ∧ ((r.release ≠ none ∨ ∃ m ∈ r.members, ¬ here m) → s.checkBarrier K g = s)
    ∧ ∀ k, k ≤ s.toEpoch K k ∧ s.toEpoch K k < k + 64 ∧ (s.xclock K + s.toEpoch K k) % 64 = 0)
  ∧ (∀ (s : State) (vr : Reg) (peer : Fin 8) (cyc : BitVec 14), s.calm → check (.sendat vr peer cyc) s = none →
    let C := s.t.core
    let c := s.t.xphase + cyc.toNat
    let n := s.tissued
    let w := cyc.setWidth 64
    (s.t.st.ph ≠ .x → Traps (.sendat vr peer cyc) s .phase w ∧ Traps (.recvat vr peer cyc) s .phase w)
    ∧ (s.t.st.ph = .x →
      (s.t.xsend.find peer.val ≠ none → exec (.sendat vr peer cyc) s = stall s)
      ∧ (s.t.xsend.find peer.val = none → c < n → Traps (.sendat vr peer cyc) s .phase w)
      ∧ (s.t.xsend.find peer.val = none → n ≤ c → Completes (.sendat vr peer cyc) s
          (State.after { s with t := { s.t with xsend := s.t.xsend.put peer.val (s.vr vr, cyc.toNat) } } (.issue C) (c - n) (.exchangeTransfer s.t.tid peer)))
      ∧ (n < c + 2 → exec (.recvat vr peer cyc) s = stall s)
      ∧ (c + 2 ≤ n →
          let slot := (s.core C).xrecv
          (∀ v, landed peer.val n slot = some (v, cyc.toNat) → Completes (.recvat vr peer cyc) s
            ((s.setCore C { s.core C with xrecv := slot.filter fun e => !(e.1 == peer.val && decide (e.2.2.2 ≤ n)) }).vw vr v))
          ∧ ((∀ v, landed peer.val n slot ≠ some (v, cyc.toNat)) → Traps (.recvat vr peer cyc) s .phase w))))
  ∧ (∀ (s : State) (kind : PhaseKind), s.quiet →
    let K := clusterOf s.t.core
    let z := if s.t.st.ph = .x then s.setCore s.t.core { s.core s.t.core with
        xrecv := (s.core s.t.core).xrecv.filter fun e => decide (s.issued s.t.core < e.2.2.2) } else s
    let t := { s.t with st := { s.t.st with ph := kind }, xphase := s.tissued + 1 }
    ((s.t.answers ≠ [] ∨ (s.t.st.ph = .x ∧ s.t.xsend ≠ [])) → exec (.phase kind) s = stall s)
    ∧ (s.t.answers = [] → (s.t.st.ph ≠ .x ∨ s.t.xsend = []) →
      ((kind ≠ .x ∨ isOpt s.t.core = true) → Completes (.phase kind) s { z with t := t })
      ∧ (kind = .x → isOpt s.t.core = false → Completes (.phase kind) s
          (State.after { z with t := { t with xhold := some (s.reads (clusterClk K)) } } (clusterClk K) (s.toEpoch K 1) (.epochBoundary K)))))
  ∧ ∀ (s : State), s.numbered → (∀ t ∈ s.allTasks, s.task t.tid = some t) →
    (∀ K (g : Fin 16) ms,
      let r := s.group K g.val
      let v := BitVec.ofNat 64 r.barrier
      r.release = some ms →
      (s.xclock K % 64 ≠ 0 → exec (.gbarRelease K g) s = .next (s.after (clusterClk K) (s.toEpoch K 0) (.gbarRelease K g)))
      ∧ (s.xclock K % 64 = 0 → exec (.gbarRelease K g) s =
            .next (((wakeBarrier K g.val v ms s).setGroup K g.val { r with barrier := (r.barrier + 1) % 65536, release := none }).checkBarrier K g.val)
          ∧ ∀ m ∈ ms, ∀ t, s.task m = some t → t.run = .parked (.barrier K g.val) →
              TaskIs (wakeBarrier K g.val v ms s) m fun w => w = { t with run := .ready, wake := some (.value v), since := w.since }))
    ∧ (∀ K, s.xclock K % 64 = 0 → ∃ u, exec (.epochBoundary K) s = .next u ∧ u = { s with t := u.t, tasks := u.tasks } ∧ ∀ t ∈ s.allTasks,
        TaskIs u t.tid fun w => w = if isCompute t.core = true ∧ clusterOf t.core = K ∧ (∃ d, t.xhold = some d ∧ d < s.reads (clusterClk K))
          then { t with xhold := none, xphase := s.reads (clusterClk K) } else t)
    ∧ (∀ t ∈ s.allTasks, ∀ (peer : Fin 8) v c, t.xsend.find peer.val = some (v, c) →
      let n := s.issued t.core
      let dest := t.core / 8 * 8 + peer.val
      let u := s.setTask { t with xsend := t.xsend.del peer.val }
      (n < t.xphase + c → exec (.exchangeTransfer t.tid peer) s = .next (s.after (.issue t.core) (t.xphase + c - n) (.exchangeTransfer t.tid peer)))
      ∧ (t.xphase + c ≤ n → exec (.exchangeTransfer t.tid peer) s =
          .next (u.setCore dest { s.core dest with xrecv := (s.core dest).xrecv ++ [(t.core % 8, v, c, n + 2)] })))

/-- Supersteps (R356 to R363), counting regions and quiescence (R99 to R102). SYNCALL and TREE arrive in their launch's tree, and park; they
wait where no tree is free, and are illegal without a launch. A barrier that every participant has reached is released after the tree's
delay: the superstep number rises by one, and each completes with it. A round's end gives every participant the combination of its
contributions, or ILLEGAL where they differ. REGION closes the region that is open and opens the next; QUIET parks in an open region. A wave
boundary begins a region, and closes it after two successive waves with equal, unchanged totals and no running or ready task: with
status 0, or 1 when tasks are parked elsewhere, whose records are then written and whose number SUPCORE learns by DEADLOCK. Nothing else changes.
Of more than 256 such tasks the first are recorded, and an area that takes no record counts none: the model's choice (log 66).
When a follow-up event falls due is the model's choice (log 5). -/
def Obligations.SuperstepsAndRegions : Prop :=
  (∀ (s s1 : State) (rd ra rb : Reg) (op : TreeOp) (l : Launch) (ps : List Piece) (pa : Nat → Nat), s.calm →
    let a := s.xr ra
    let c := s.xr rb
    let n := s.t.launch
    let C := s.t.core
    let word : W64 := s.t.word.setWidth 64
    (s.t.st.ph ≠ .n → Traps (.syncall rd) s .phase 0 ∧ Traps (.tree rd ra rb op) s .phase a)
    ∧ (s.t.st.ph = .n →
      (∀ v, SetsX (.syncall rd) (s.wokenWith v) (s.wokenWith v) rd v ∧ SetsX (.tree rd ra rb op) (s.wokenWith v) (s.wokenWith v) rd v)
      ∧ (s.launches.find n = none → Traps (.syncall rd) s .illegal word ∧ Traps (.tree rd ra rb op) s .illegal word)
      ∧ (s.launches.find n = some l →
        (∀ k, l.tree = some k → exec (.syncall rd) s = .next ((s.parkedAs (.syncall true) 0).checkSync n C))
        ∧ (∀ k, l.tree = none → s.freeTree l.part = some k →
            exec (.syncall rd) s = .next (((s.setLaunch n { l with tree := some k }).parkedAs (.syncall true) 0).checkSync n C))
        ∧ (l.tree = none → s.freeTree l.part = none → Parks (.syncall rd) s s (.syncall false) 0)
        ∧ (treeOk op c = false → Traps (.tree rd ra rb op) s .illegal c)
        ∧ (treeOk op c = true → highAddr a = false → a.toNat % 64 ≠ 0 → Traps (.tree rd ra rb op) s .align a)
        ∧ (treeOk op c = true → highAddr a = false → a.toNat % 64 = 0 → s.locatePieces 64 64 { r := true, w := true } .plain [a] = .ok (ps, s1) →
            Pieced ps pa → s1.bad = [] →
            (l.tree = none → s1.freeTree l.part = none → exec (.tree rd ra rb op) s = .next (s1.parkedAs (.tree false) a))
            ∧ ∀ k, l.tree = some k ∨ (l.tree = none ∧ s1.freeTree l.part = some k) →
                let u := s1.setLaunch n { l with tree := some k, arrivals := l.arrivals ++ [⟨s.t.tid, s.t.treeRound, op, c, a, s1.piecesValue 64 ps⟩] }
                exec (.tree rd ra rb op) s =
                  .next ((State.parkedAs { u with t := { u.t with treeRound := s.t.treeRound + 1 } } (.tree true) a).checkLaunch n C)))))
  ∧ (∀ (s : State) (n core : Nat) (l : Launch), s.launches.find n = some l →
    (s.syncReady n = true → s.checkSync n core = s.after (.issue core) (s.treeDelay l.part) (.syncallRelease n))
    ∧ (s.syncReady n = false → s.checkSync n core = s ∧ exec (.syncallRelease n) s = .next s)
    ∧ (s.syncReady n = true ↔ packetTasks l.d ≤ l.placed ∧ s.participants n ≠ [] ∧ ∀ t ∈ s.participants n, t.run = .parked (.syncall true))
    ∧ (s.syncReady n = true →
      let v : W64 := (l.superstep + 1).setWidth 64
      let u := wakeAll v (s.participants n) (s.setLaunch n { l with superstep := l.superstep + 1 })
      exec (.syncallRelease n) s = .next u
      ∧ (s.numbered → ∀ t ∈ s.participants n, s.task t.tid = some t → TaskIs u t.tid fun w => w = { t with run := .ready, wake := some (.value v), since := w.since })))
  ∧ (∀ (s : State) (n round : Nat) (l : Launch) (x : Arrival) (r : List Arrival), s.launches.find n = some l → s.roundReady n round = true →
    sortArrivals s (l.arrivals.filter fun a => a.round == round) = x :: r → (∀ y ∈ x :: r, treeWaits s y = false) →
    let s' := s.setLaunch n { l with arrivals := l.arrivals.filter fun a => a.round != round }
    let w := treeCombine x.op x.ctl ((x :: r).map (·.bytes))
    ((∀ y ∈ r, y.op = x.op ∧ y.ctl = x.ctl) → exec (.treeRoundCompletion n round) s = .next (treeStores w (x :: r) s'))
    ∧ ((∃ y ∈ r, y.op ≠ x.op ∨ y.ctl ≠ x.ctl) → exec (.treeRoundCompletion n round) s = .next (treeTraps (x :: r) s'))
    ∧ (r = [] → ∀ ps u, (s'.focus x.tid).locatePieces 64 64 { w := true } .plain [x.va] = .ok (ps, u) → exec (.treeRoundCompletion n round) s =
        .next (((u.store (piecesCells 64 ps w)).wakeTask x.tid (.value (BitVec.ofNat 64 w))).focus s.t.tid)))
  ∧ (∀ (s : State) (rd ra : Reg), s.calm →
    let a := s.xr ra
    let P := s.t.part
    let z := if (s.part P).regionOpen then s.closeRegion P 2 else s
    (a.toNat % 64 ≠ 0 → Traps (.region rd ra) s .align a)
    ∧ (a.toNat % 64 = 0 → SetsX (.region rd ra) s
        (z.setPart P { z.part P with region := (z.part P).region + 1, regionReport := a, regionCore := s.t.core, regionOpen := true, regionBegun := false,
                                     regionSums := none }) rd (((z.part P).region + 1).setWidth 64))
    ∧ (∀ v, SetsX (.quiet rd) (s.wokenWith v) (s.wokenWith v) rd v)
    ∧ (s.t.handleOps ≠ [] → exec (.quiet rd) s = stall s)
    ∧ (s.t.handleOps = [] →
      (∀ h, s.t.handleReport = some h → exec (.quiet rd) s = raise .handle h { s with t := { s.t with handleReport := none } })
      ∧ (s.t.handleReport = none →
        ((s.part P).regionOpen = true → Parks (.quiet rd) s s .quiet 0)
        ∧ ((s.part P).regionOpen = false → Traps (.quiet rd) s .illegal (s.t.word.setWidth 64)))))
  ∧ (∀ (s : State) (P status : Nat),
    let p := s.part P
    let closed (u : State) (n : Nat) : State :=
      (u.setPart P { u.part P with regionOpen := false, regionBegun := false, regionSums := none }).deliver p.supcore
        (countMsg P 9 (p.region.toNat * 2 ^ 32 + n * 2 ^ 16 + status))
    let q := s.allTasks.filter fun t => t.part == P && t.isQuiet
    (q = [] → s.closeRegion P status = closed s 0)
    ∧ (∀ t, q = [t] → s.closeRegion P status = closed (s.wakeTask t.tid (.value (BitVec.ofNat 64 status))) 1)
    ∧ (let sums := s.totals P
       let calm : Prop := sums.1 = sums.2 ∧ s.busy P = false
       let calmTwice : Prop := calm ∧ p.regionSums = some sums ∧ q ≠ []
       (p.regionOpen = false → s.wave P = s)
       ∧ (p.regionOpen = true → p.regionBegun = false → s.wave P = s.setPart P { p with regionBegun := true })
       ∧ (p.regionOpen = true → p.regionBegun = true →
         (¬ calmTwice → (calm → s.wave P = s.setPart P { p with regionSums := some sums }) ∧ (¬ calm → s.wave P = s.setPart P { p with regionSums := none }))
         ∧ (calmTwice → s.parkRecords P = [] → s.wave P = s.closeRegion P 0)
         ∧ (calmTwice → s.parkRecords P ≠ [] →
             let u := s.closeRegion P 1
             s.wave P = u.setPart P { u.part P with
               deadlocks := (u.part P).deadlocks ++ [⟨p.region, p.regionReport, p.regionCore, (s.parkRecords P).take 256⟩] }))))
  ∧ (∀ (s : State) (P : Nat) (d : Deadlock) (r : List Deadlock),
    (s.writeRecords P d = none → s.tellDeadlocks P (d :: r) = s)
    ∧ (∀ n u, s.writeRecords P d = some (n, u) → s.tellDeadlocks P [d] =
        (u.setPart P { u.part P with deadlocks := [] }).at_ 1 (.deadlock P (BitVec.ofNat 48 (d.region.toNat * 2 ^ 32 + n * 2 ^ 16))))
    ∧ (∀ ps u w, s.mPieces d.core P { w := true } (runsOf (bytesFrom d.area.toNat (16 * d.records.length))) = .ok (ps, u) →
        u.engWrite 0 ps ((d.records.flatMap fun r => r.flatMap fun w => leBytes 8 w).zipIdx.map fun b => (d.area.toNat + b.2, b.1)) = some w →
        w.refused = false → w.lost = false → s.writeRecords P d = some (d.records.length, w.s)))
  ∧ ∀ (s : State) (P : Nat) (payload : BitVec 48),
    (s.now % 256 = 0 → exec .waveBoundary s = .next ((waveParts s.parts.keys s).at_ 256 .waveBoundary))
    ∧ (s.now % 256 = 0 → ∀ p, s.parts = [(P, p)] → exec .waveBoundary s = .next
        ((((s.wave P).tellDeadlocks P ((s.wave P).part P).deadlocks).readTails P).at_ 256 .waveBoundary))
    ∧ exec (.deadlock P payload) s = .next (s.deliver (s.part P).supcore (countMsg P 10 payload.toNat))
    ∧ (P < 8 → ∀ k, k < 16 → msgKind (countMsg P k payload.toNat) = k ∧ (countMsg P k payload.toNat).setWidth 48 = payload)

/-! ## The package -/

/-- The power commands of the management mailbox (R320 to R323): a bad range answers 2, a retired unit 3, a unit that is in use 1 for RETAIN and
OFF; a deeper state is entered at once, and below IDLE the cores lose their state, in OFF the memory its contents; a shallower one is
reached after the exit time. A new clock point of a running die holds after 10 µs. The clamp and thermal governors (R324, R325, R332): a sample above the
limit halves the issue rate, and entering that enters an event; 1 µs below 90 % of it doubles the rate; an alert, its hold 2 ms later
without a power command, the end of the hold, and 125 °C. An event is counted, and its record enters the ring, or is lost while the ring is full.
Nothing else changes, but the hang watchdogs, which stand while a cluster of their partition does not run (R353). Times are counted in cycles of the 1.9 GHz reference
(log 8); what memory lost in OFF reads as is a free value (log 2). Readings: the vector of an event on endpoint 0 (log 18), status 2 for a range of
zero or past the last unit (log 43), the retired units and the immediate entry of a deeper state (log 44). -/
def Obligations.PowerAndGovernors : Prop :=
  (∀ (s : State) (i : Instr) (op cls n : Nat), (i, op, cls, n) ∈ [(.die, 1, pDie, 4), (.clusters, 2, pCluster, 512), (.optcores, 3, pOpt, 96)] →
      s.commanded op →
      let p := Power.ofCode s.cState
      let z := powerUnits cls p s.cRange s
      let y := if cls = pDie ∧ s.cState = 0 then clockDies s.cClk s.cRange z else z
      ((s.cCount = 0 ∨ n < s.cFirst + s.cCount) → exec i s = .next (s.respond 2))
      ∧ (s.cCount ≠ 0 → s.cFirst + s.cCount ≤ n →
        ((∃ u ∈ s.cRange, s.unitRetired cls u = true) → exec i s = .next (s.respond 3))
        ∧ ((∀ u ∈ s.cRange, s.unitRetired cls u = false) →
          (2 ≤ p.depth → (∃ u ∈ s.cRange, s.resident cls u = true) → exec i s = .next (s.respond 1))
          ∧ ((p.depth < 2 ∨ ∀ u ∈ s.cRange, s.resident cls u = false) → exec i s = .next ((tendWdogs y.parts y).respond 0)
              ∧ ((∀ q ∈ y.parts, y.wdogCounts (y.part q.1) = (y.part q.1).wdogPaused.isNone) → tendWdogs y.parts y = y)))))
  ∧ (∀ (s : State) (cls u : Nat) (p : Power),
      let w := s.setDie (pUnitDie cls u) { s.die (pUnitDie cls u) with commanded := true }
      let gone := w.setPkg { w.pkg with exits := w.pkg.exits.del (unitKey cls u) }
      let from_ := s.unitPower cls u
      (from_.depth ≤ p.depth → s.powerUnit cls u p = (gone.setUnitPower cls u p).losePower cls u p)
      ∧ (p.depth < from_.depth → s.powerUnit cls u p =
          (gone.setPkg { w.pkg with exits := (w.pkg.exits.del (unitKey cls u)).put (unitKey cls u) p }).at_
            (match from_ with | .run => 0 | .idle => 1900 | .retain => 95000 | .off => 3800000) (.powerStateExit cls u))
      ∧ (p.depth < 2 → s.losePower cls u p = s)
      ∧ (p ≠ .off → (s.losePower cls u p).mem = s.mem)
      ∧ (2 ≤ p.depth → ∀ c ∈ pCores cls u, (s.losePower cls u p).core c = { idle := (s.core c).idle })
      ∧ (s.mem.wf = true → ∀ a, (s.losePower cls u .off).mem.byteAt a =
          if inRanges (pMemory cls u) a then Config.lostByte (s.free + 1) a else s.mem.byteAt a)
      ∧ (s.pkg.exits.find (unitKey cls u) = some p →
          let z := (s.setPkg { s.pkg with exits := s.pkg.exits.del (unitKey cls u) }).setUnitPower cls u p
          let d := z.die u
          let y := if cls = pDie ∧ d.nextClk ≠ d.clk then (z.setDie u { d with holdEnd := z.now + 19000 }).at_ 19000 (.clockHoldEnd u) else z
          exec (.powerStateExit cls u) s = .next (tendWdogs y.parts y))
      ∧ (s.pkg.exits.find (unitKey cls u) = none → exec (.powerStateExit cls u) s = .next s))
  ∧ (∀ (s : State) (D clk : Nat),
      let d := s.die D
      (d.power ≠ .run → s.clockDie clk D = s.setDie D { d with nextClk := clk })
      ∧ (d.power = .run → (d.clk ≠ clk ∨ d.nextClk ≠ clk) → s.clockDie clk D =
          (s.setDie D { d with nextClk := clk, holdEnd := s.now + 19000 }).at_ 19000 (.clockHoldEnd D))
      ∧ (d.holdEnd ≤ s.now → exec (.clockHoldEnd D) s = .next (s.setDie D { d with clk := d.nextClk }))
      ∧ (s.now < d.holdEnd → exec (.clockHoldEnd D) s = .next s))
  ∧ (∀ (s : State) (D n : Nat),
      let d := s.die D
      let up := s.setDie D { d with rate := Nat.min 8 (2 * d.rate), coolSince := s.now }
      let down := s.setDie D { d with rate := d.rate / 2, coolSince := s.now }
      (d.limit < n → exec (.clampSample D n) s = .next (if d.rate = 1 then (up.event 1 D 0).at_ 1900 (.clampRecovery D) else up))
      ∧ (n ≤ d.limit → exec (.clampSample D n) s = .next (s.setDie D { d with coolSince := if d.limit * 9 ≤ n * 10 then s.now else d.coolSince }))
      ∧ (d.rate ≤ 1 → exec (.clampRecovery D) s = .next s)
      ∧ (1 < d.rate → d.coolSince + 1900 ≤ s.now → exec (.clampRecovery D) s = .next (if d.rate / 2 ≤ 1 then down else down.at_ 1900 (.clampRecovery D)))
      ∧ (1 < d.rate → s.now < d.coolSince + 1900 → exec (.clampRecovery D) s = .next (s.at_ (d.coolSince + 1900 - s.now) (.clampRecovery D)))
      ∧ (d.alert < n → d.alertAt = none → exec (.thermalAlert D n) s =
          .next (((s.setDie D { d with alertAt := some s.now, commanded := false }).event 2 D 0).at_ 3800000 (.thermalHold D)))
      ∧ ((n ≤ d.alert ∨ d.alertAt ≠ none) → exec (.thermalAlert D n) s = .next s)
      ∧ (∀ a, d.alertAt = some a →
          (d.thermalHold = false → a + 3800000 ≤ s.now → d.commanded = false →
            exec (.thermalHold D) s = .next ((s.setDie D { d with thermalHold := true }).event 3 D 0))
          ∧ ((d.thermalHold = true ∨ s.now < a + 3800000 ∨ d.commanded = true) → exec (.thermalHold D) s = .next s))
      ∧ (let c := if n ≤ 125 then false else d.critical
         let alerted : Prop := d.thermalHold = true ∨ d.alertAt ≠ none
         (n + 5 ≤ d.alert → (¬ alerted ∨ d.commanded = true) → exec (.thermalHoldEnd D n) s =
            .next (s.setDie D { d with critical := c, thermalHold := false, alertAt := none }))
         ∧ ((d.alert < n + 5 ∨ (alerted ∧ d.commanded = false)) → exec (.thermalHoldEnd D n) s = .next (s.setDie D { d with critical := c })))
      ∧ (125 < n → exec (.criticalTemperature D n) s = .next ((s.setDie D { d with critical := true }).event 4 D 0))
      ∧ (n ≤ 125 → exec (.criticalTemperature D n) s = .next s))
  ∧ ∀ (s : State) (kind D data : Nat),
      let d := s.die D
      let n := d.events.getD kind 0 + 1
      let u := s.setDie D { d with events := d.events.put kind n }
      let p := s.pkg
      let a := hostBase + p.ringBase + 32 * (p.producer.toNat % p.ringSlots)
      (p.ringSlots ≤ (p.producer - p.consumer).toNat → s.event kind D data = { u with pkg := { u.pkg with lost := p.lost + 1 } })
      ∧ ((p.producer - p.consumer).toNat < p.ringSlots → s.event kind D data = { u with
          mem := s.mem.setBytes (wordCells a [kind * 2 ^ 56 + D * 2 ^ 48 + data % 2 ^ 48, s.dtime.toNat, n, 0])
          pkg := { u.pkg with producer := p.producer + 1, msix := p.msix ++ [(0, 0)] } })

/-- The other commands of the management mailbox (R324, R325, R331, R334, R335, R337, R338, R350, R352, R353), each with the values it takes and its
response for the others: LIMITS sets a die's limit and threshold; EVENTRING sets the ring; ATTEST takes the next leaf and writes its report to host
memory, or answers 4; PCREATE makes the partition of a legal block from units that run and are free, and resets it; PTUNE sets AGE and WDOG; PDESTROY takes an
empty partition away; PRESIZE and PRETIRE begin a resize for which there is room; PRESET resets. A partition that does not exist
answers 2. Nothing else changes. The model's readings: the range checks of the commands (log 43), 0 slots read as 65,536 (log 18), status 2 for
a partition that exists and the reset of a new one with cause 3 (log 40), the free words of a report (log 13). -/
def Obligations.MailboxCommands : Prop :=
  (∀ (s : State) (i : Instr) (op : Nat), (i, op) ∈ [(Instr.limits, 4), (.attest, 5), (.eventring, 6), (.pcreate, 0x10), (.presize, 0x11), (.pretire, 0x12),
        (.preset, 0x13), (.pdestroy, 0x14), (.ptune, 0x15)] → (i = .presize → ∀ k q, s.parts.find k = some q → q.resize = none) →
      (s.pkg.booted = true → s.pkg.doorbell = true → s.pkg.busy = false → s.cOp = op → s.c0Ok = false → exec i s = .next (s.respond 2))
      ∧ ((s.pkg.booted = false ∨ s.pkg.doorbell = false ∨ (s.pkg.busy = false ∧ s.cOp ≠ op)) → exec i s = .next s))
  ∧ ∀ (s : State),
    let P := s.cw 1
    let slots := if s.cw 2 % 65536 = 0 then 65536 else s.cw 2 % 65536
    (s.commanded 4 →
      let ok := s.cCount ≠ 0 ∧ s.cFirst + s.cCount ≤ 4 ∧ 500 ≤ s.cw 1 ∧ s.cw 1 ≤ 2000 ∧ s.cw 2 ≤ 255
      (ok → ∃ z : State, exec .limits s = .next (z.respond 0) ∧ z = { s with pkg := { s.pkg with dies := z.pkg.dies } }
        ∧ ∀ d, z.die d = if d ∈ s.cRange then { s.die d with limit := s.cw 1, alert := s.cw 2 } else s.die d)
      ∧ (¬ ok → exec .limits s = .next (s.respond 2)))
    ∧ (s.commanded 6 →
      let ok := s.cw 1 % 4096 = 0 ∧ (∃ k, k < 11 ∧ slots = 64 * 2 ^ k) ∧ hostBase + s.cw 1 + 32 * slots ≤ 2 ^ 48
      (ok → exec .eventring s = .next (State.respond { s with pkg := { s.pkg with ringBase := s.cw 1, ringSlots := slots, producer := 0, consumer := 0, lost := 0 } } 0))
      ∧ (¬ ok → exec .eventring s = .next (s.respond 2)))
    ∧ (s.commanded 5 →
      let a := hostBase + s.cw 7
      ((s.cw 7 % 4096 ≠ 0 ∨ 2 ^ 48 < a + 4096) → exec .attest s = .next (s.respond 2))
      ∧ (s.cw 7 % 4096 = 0 → a + 4096 ≤ 2 ^ 48 →
        (s.pkg.takeLeaf = none → exec .attest s = .next (s.respond 4))
        ∧ ∀ leaf p, s.pkg.takeLeaf = some (leaf, p) → exec .attest s = .next (State.respond
            { s with pkg := p, mem := s.mem.setBytes ((wordCells a (s.report_ leaf)).take 3988), free := s.free + 463 } 0)))
    ∧ (s.commanded 0x10 → s.underTest (s.cw 2) 128 = false →
      let j := s.cw 3 % 65536
      let n := s.cw 3 / 65536
      let opts := (List.range n).map (j + ·)
      let blk := s.cw 2
      let d := (List.range 16).map fun k => s.dw (blk + 8 * k)
      let named := P ≤ 7 ∧ s.parts.find P = none ∧ blk % 64 = 0 ∧ blk < 2 ^ 48 ∧ onDevice blk = true ∧ s.cCount ≠ 0 ∧ s.cFirst + s.cCount ≤ 512
        ∧ j + n ≤ 96 ∧ n ≤ 96 ∧ blockOk d (s.cRange.flatMap fun k => (List.range 8).map (8 * k + ·)) = true
      let free := (∀ k ∈ s.cRange, s.clusterTaken k = false ∧ s.clusterPower k = .run) ∧ ∀ q ∈ opts, s.optTaken q = false ∧ s.optPower q = .run
      (named → free → (∀ k ∈ s.cRange, s.clusterRetired k = false) → exec .pcreate s =
        .next ((((s.setPart P (Part.ofBlock d s.cRange opts)).writeRings P).resetPart P 3).respond 0))
      ∧ (named → free → (∃ k ∈ s.cRange, s.clusterRetired k = true) → exec .pcreate s = .next (s.respond 3))
      ∧ (named → ¬ free → exec .pcreate s = .next (s.respond 1)) ∧ (¬ named → exec .pcreate s = .next (s.respond 2)))
    ∧ (∀ op i, (op, i) ∈ [(0x11, Instr.presize), (0x12, .pretire), (0x13, .preset), (0x14, .pdestroy), (0x15, .ptune)] → s.commanded op →
        (7 < P ∨ s.parts.find P = none) → (i = .presize → ∀ k q, s.parts.find k = some q → q.resize = none) →
        exec i s = .next (s.respond 2))
    ∧ ∀ p, P ≤ 7 → s.parts.find P = some p →
      (s.commanded 0x15 →
        let ok := s.cw 2 ≠ 0 ∧ s.cw 2 < 2 ^ 32 ∧ s.cw 3 < 2 ^ 32
        (ok → exec .ptune s = .next (((s.setPart P { p with age := s.cw 2, wdog := s.cw 3 }).watch P).respond 0))
        ∧ (¬ ok → exec .ptune s = .next (s.respond 2)))
      ∧ (s.commanded 0x14 →
        let idle := s.holdsWork P = false ∧ (∀ k ∈ s.cores, (∀ c ∈ k.2.copies, c.2.part ≠ P) ∧ ∀ m ∈ k.2.mq, m.part ≠ P)
          ∧ ∀ e ∈ s.engines, ∀ q ∈ e.2.list, q.2.part ≠ P
        let u := emptyPools P p.clusters s
        (idle → exec .pdestroy s = .next ((State.kickFerries { u with parts := u.parts.del P }).respond 0)) ∧ (¬ idle → exec .pdestroy s = .next (s.respond 1)))
      ∧ (s.commanded 0x13 → exec .preset s = .next ((s.resetPart P 3).respond 0))
      ∧ (s.commanded 0x11 → (∀ k q, s.parts.find k = some q → q.resize = none) →
        let r : Resize := { leaving := p.computeCores.filter fun c => !s.cRange.contains (clusterOf c), clusters := s.cRange, dest := some (s.cw 2) }
        let named := s.cCount ≠ 0 ∧ s.cFirst + s.cCount ≤ 512 ∧ destOk s.cRange (s.cw 2) (p.clusters.filter fun k => !s.cRange.contains k).length = true
        let coming := s.cRange.filter fun k => !p.clusters.contains k
        (¬ named → exec .presize s = .next (s.respond 2))
        ∧ (named → (∃ k ∈ coming, s.clusterTaken k = true ∨ s.clusterPower k ≠ .run) → exec .presize s = .next (s.respond 1))
        ∧ (named → (∀ k ∈ coming, s.clusterTaken k = false ∧ s.clusterPower k = .run) →
          ((∃ k ∈ coming, s.clusterRetired k = true) → exec .presize s = .next (s.respond 3))
          ∧ ((∀ k ∈ coming, s.clusterRetired k = false) →
            (s.roomFor P r = false → exec .presize s = .next (s.respond 1))
            ∧ (s.roomFor P r = true → exec .presize s =
                .next ((s.beginResize P r).setPkg { s.pkg with busy := true })))))
      ∧ (s.commanded 0x12 →
        let r : Resize := { leaving := [s.cFirst], clusters := p.clusters, dest := none }
        (p.resize ≠ none → exec .pretire s = .next (s.at_ 64 .pretire))
        ∧ (p.resize = none →
          ((s.cCount ≠ 1 ∨ s.inPart P s.cFirst = false) → exec .pretire s = .next (s.respond 2))
          ∧ (s.cCount = 1 → s.inPart P s.cFirst = true →
            (s.roomFor P r = false → exec .pretire s = .next (s.respond 1))
            ∧ (s.roomFor P r = true → exec .pretire s =
                .next ((s.beginResize P r).setPkg { s.pkg with busy := true })))))

/-- The host through the Landing, and boot (R318 to R320, R331, R333, R340). Before boot nothing is read or written, and BOOT verifies the
images: the first that fails leaves its status, and else the package is booted. An image passes where the digests of its keys are the fused ones and its
signatures verify with them; the functions of that are the device's. Then a write through the aperture takes effect at its
homes and what lies outside the window or in no assigned range is discarded; a read gives the aligned word; the aperture's base is a multiple of
64 GiB; the registers of BAR0 hold what is written, and a doorbell starts its command, while a command that stands is not disturbed;
an endpoint link trains at the widths and rates it has. Nothing else changes.
The model's choices and readings: when a follow-up event falls due (log 5); a read that cannot be served is a free value (log 2); the order of an
image's defects and the verifying functions (log 46); the low bits of an address, which are ignored (log 43); the words behind BAR4 (log 64). -/
def Obligations.HostAndBoot : Prop :=
  ∀ (s : State) (ep : Fin 2) (off : Nat) (data : List Byte) (v : W64),
    let base := s.pkg.aperture.toNat
    let a := (base + off) / 8 * 8
    let p := s.pkg
    let reg (o : Nat) (q : Pkg) : Prop := exec (.registerWrite o v) s = .next { s with pkg := q }
    (p.booted = false →
      let st := bootStatusOf p.fusedKeys p.fusedVersion p.images
      (∀ i ∈ [Instr.hostWrite ep off data, .hostRead off, .apertureBaseWrite v, .registerWrite off v], exec i s = .next s)
      ∧ (st = 0 → exec .boot s = .next (State.at_ { s with pkg := { p with booted := true } } (256 - s.now % 256) .waveBoundary))
      ∧ (st ≠ 0 → exec .boot s = .next { s with pkg := { p with bootStatus := st } })
      ∧ (∀ (i : Image) r n k, bootStatusOf k n [] = 0 ∧ (bootStatusOf k n (i :: r) = if i.wellFormed = false then 4 else if i.ecdsaOk k = false then 1
          else if i.hssOk k = false then 2 else if i.version < n then 3 else bootStatusOf k n r)
        ∧ (i.ecdsaOk k = true ↔ Config.sha384 (keyBytes i.ecdsaKey) = k.1 ∧ Config.ecdsaVerifies i.ecdsaKey i.bytes i.ecdsaSig = true)
        ∧ (i.hssOk k = true ↔ Config.sha384 (keyBytes i.hssKey) = k.2 ∧ Config.hssVerifies i.hssKey i.bytes i.hssSig = true)))
    ∧ (p.booted = true →
      (let cells := (byteCells (base + off) data).filter fun c => assigned c.1 && decide (c.1 < base + 2 ^ 36)
       s.bad = [] → p.units = [] → p.hostHeld.find ep.val = none → (∀ c ∈ cells, s.served c.1 = true) → ∃ t, exec (.hostWrite ep off data) s = .next t ∧ StoresCells s t cells)
      ∧ (let ok := s.bad = [] ∧ assigned a = true ∧ s.served a = true ∧ off < 2 ^ 36
         (data ≠ [] → p.hostHeld.find ep.val = none → s.underTest (base + off) data.length = true → exec (.hostWrite ep off data) s =
            .next (State.at_ { s with pkg := { p with hostHeld := p.hostHeld.put ep.val [(off, data)] } } 16 (.hostWrite ep 0 [])))
         ∧ (ok → s.underTest a 8 = true → exec (.hostRead off) s = .next (s.at_ 16 (.hostRead off)))
         ∧ (ok → s.underTest a 8 = false → exec (.hostRead off) s = .next { s with pkg := { p with hostData := BitVec.ofNat 64 (s.loadLE a 8) } })
         ∧ ((assigned a = false ∨ s.served a = false ∨ 2 ^ 36 ≤ off) →
           exec (.hostRead off) s = .next { s with pkg := { p with hostData := Config.freeWord s.free }, free := s.free + 1 }))
      ∧ (let q := { p with aperture := BitVec.ofNat 64 (v.toNat / 2 ^ 36 * 2 ^ 36) }
         exec (.apertureBaseWrite v) s = .next { s with pkg := q } ∧ reg 8 q)
      ∧ (p.doorbell = false →
          (∀ k : Fin 8, reg (0x1000 + 8 * k.val) { p with cmd := p.cmd.set k.val v })
          ∧ (∀ e, opEvent s.cOp = some e → exec (.registerWrite 0x1040 1) s = .next (State.at_ { s with pkg := { p with doorbell := true } } 0 e))
          ∧ (opEvent s.cOp = none → exec (.registerWrite 0x1040 1) s = .next (State.respond { s with pkg := { p with doorbell := true } } 2))
          ∧ (v ≠ 1 → reg 0x1040 p))
      ∧ (p.doorbell = true → reg 0x1040 p ∧ ∀ k : Fin 8, reg (0x1000 + 8 * k.val) p)
      ∧ reg 0x10C8 { p with consumer := v } ∧ reg 0 p ∧ reg 0x10C0 p ∧ reg 0x10D0 p ∧ (∀ k : Fin 8, reg (0x1080 + 8 * k.val) p)
      ∧ (∀ (P : Fin 8) (q : Fin 16), exec (.registerWrite (0x100000 + 0x1000 * P.val + 8 * q.val) v) s = .next (s.at_ 0 (.launchDoorbell P.val q v)))
      ∧ (∀ o, 0x108000 ≤ o → o < 0x4000000 → reg o { p with bar := p.bar.put o v }))
    ∧ ∀ (x16 : Bool) (rate : Nat),
      (1 ≤ rate → rate ≤ 128 → exec (.endpointLinkTraining ep x16 rate) s = .next { s with pkg := { p with links := p.links.put ep.val (x16, rate) } })
      ∧ ((rate = 0 ∨ 128 < rate) → exec (.endpointLinkTraining ep x16 rate) s = .next s)

/-- Launch queues, placement, pre-emption, completion and partition reset (R339 to R349, R353 to R355). A doorbell stores TAIL, and the dispatcher
reads every TAIL; a packet that breaks the rules is rejected: its record is written, HEAD and DONE pass it; the next task of the packet
in front is placed where its rule sends it, in the starting state of R8 and R341, and HEAD passes a packet with its last task; a requested
halt pre-empts at a boundary, with every register kept; a launch that has finished writes its record, counts towards DONE with status 0, and is gone; a hung or failed partition is reset:
its tasks and launches are gone, its configuration stays, and the cause and the time stand in its report area. What a unit under test serves
is waited for. Nothing else changes.
The model's choices: when a follow-up event falls due (log 5); task numbers are the model's counter (log 6); the watchdog's microsecond is 1,900 cycles of
the 1.9 GHz reference, and placement runs on the clock of SUPCORE's die (log 8). -/
def Obligations.Launches : Prop :=
  (∀ (s : State) (P : Nat) (p : Part) (q : Fin 16) (v : W64), s.parts.find P = some p → (s.queuesHeld P = true ∨ s.pkg.hostHeld ≠ []) →
    exec (.launchDoorbell P q v) s = .next (s.at_ 16 (.launchDoorbell P q v)))
  ∧ (∀ (s : State) (P : Nat) (p : Part) (q : Fin 16) (v : W64) (h : QHead), s.parts.find P = some p → s.pkg.units = [] → s.pkg.hostHeld = [] →
    exec (.launchDoorbell P q v) s =
      .next (State.readTails { s with mem := s.mem.setBytes (leCells (p.lqtab + 64 * q.val + 16) 8 v.toNat) } P)
    ∧ (s.mem.wf = true → s.bad = [] → ∃ t, exec (.launchDoorbell P q v) s = .next t ∧ t = { s with mem := t.mem, parts := t.parts, sched := t.sched, timed := t.timed }
        ∧ t.mem = s.mem.setBytes (leCells (p.lqtab + 64 * q.val + 16) 8 v.toNat) ∧ (t.part P).tails.getD q.val 0 = v.toNat)
    ∧ (p.heads.find q.val = some h →
      (h.bad = true → exec (.packetReject P q) s = .next ((((s.completionRecord P q.val h.n h.d false true 0).countDone P q.val h.n).advanceHead P q.val h.n).kickPlace P)
        ∧ (s.mem.wf = true → ∃ t, exec (.packetReject P q) s = .next t ∧ t.qHead P q.val = (h.n + 1) % 2 ^ 64 ∧ t.tasks = s.tasks ∧ t.t = s.t))
      ∧ (h.bad = false → exec (.packetReject P q) s = .next s))
    ∧ (p.held = true → exec (.placeTask P) s = .next s)
    ∧ (p.held = false → p.candidates = [(q.val, h)] →
      let i := ((s.launches.find h.launch).map (·.placed)).getD 0
      (s.chooseCore P h i = none → exec (.placeTask P) s = .next s)
      ∧ ∀ c victim, s.chooseCore P h i = some (c, victim) → ∀ n l s1, s.headLaunch P q.val h = (n, l, s1) →
        ((s.launches.find h.launch = some l ∧ n = h.launch ∧ s1 = s)
          ∨ (s.launches.find h.launch = none ∧ n = s.nextLaunch ∧ s1 = { s.setPart P { p with heads := p.heads.put q.val { h with launch := n } } with
              launches := s.launches.put n l, nextLaunch := n + 1 } ∧ l.part = P ∧ l.queue = q.val ∧ l.index = h.n ∧ l.d = h.d ∧ l.placed = 0))
        ∧ (s1.hatboxRoom P c (pf h.d 7 14 1 == 1) = none → exec (.placeTask P) s = .next s)
        ∧ ∀ hb, s1.hatboxRoom P c (pf h.d 7 14 1 == 1) = some hb →
          let m := s1.freshTid
          ∃ s2, s1.spawn (packetTask h.d i P c n) = some s2
            ∧ s2.tasks = s1.tasks.put m { packetTask h.d i P c n with tid := m, hatbox := hb, run := .ready, since := s.stamp }
            ∧ s2 = { s1 with tasks := s2.tasks, nextTid := m + 1, stamp := s1.stamp + 1, launches := s2.launches, parts := s2.parts }
            ∧ (s1.launches.find n = some l → s2.launches = s1.launches.put n { l with tids := l.tids ++ [m] })
            ∧ ∀ x, s2.launches.find n = some x →
              let s3 := s2.setLaunch n { x with placed := i + 1 }
              let s4 := match victim with
                | some t => s3.askHalt t
                | none => s3
              exec (.placeTask P) s = .next ((if packetTasks h.d ≤ i + 1 then s4.advanceHead P q.val h.n else s4).kickPlace P))
    ∧ (let resets (i : Instr) (c : Nat) : Prop := ∃ t, exec i s = .next t ∧ (∀ n w, t.task n = some w → w.part ≠ P)
         ∧ (∀ l ∈ t.launches, l.2.part ≠ P) ∧ t.mem.readLE (p.report + 0x800) 8 = c ∧ t.mem.readLE (p.report + 0x808) 8 = s.dtime.toNat
         ∧ (t.part P).root = p.root ∧ (t.part P).clusters = p.clusters
       (∀ c, exec (.partitionReset P c) s = .next (s.resetPart P c)) ∧ (s.mem.wf = true → ∀ c, c < 2 ^ 64 → resets (.partitionReset P c) c)
       ∧ (p.wdog = 0 → exec (.watchdogExpiry P) s = .next s)
       ∧ (p.wdog ≠ 0 → (p.wdogPaused ≠ none ∨ s.holdsWork P = false) → exec (.watchdogExpiry P) s = .next (s.at_ (p.wdog * 1900) (.watchdogExpiry P)))
       ∧ (p.wdog ≠ 0 → p.wdogPaused = none → s.holdsWork P = true →
         (p.wdogBase + p.wdog * 1900 ≤ s.now → exec (.watchdogExpiry P) s = .next (s.resetPart P 1) ∧ (s.mem.wf = true → resets (.watchdogExpiry P) 1))
         ∧ (s.now < p.wdogBase + p.wdog * 1900 → exec (.watchdogExpiry P) s =
             .next (s.at_ (p.wdogBase + p.wdog * 1900 - s.now) (.watchdogExpiry P))))))
  ∧ (∀ (s : State) (C n : Nat) (t : Task), s.numbered → (s.core C).preempt = some n → s.task n = some t →
      let u := s.setCore C { s.core C with preempt := none }
      (t.run = .running → t.atBoundary = true → exec (.preemptHalt C) s = .next (u.halt n)
        ∧ ((∀ x ∈ s.allTasks, x.follow = none) → TaskIs (u.halt n) n fun w => w = t.halted s.stamp (s.issued t.core) ∧ w.run = .preempted ∧ w.pc = t.pc
            ∧ w.x = t.x ∧ w.v = t.v ∧ w.p = t.p ∧ w.h = t.h ∧ w.b = t.b))
      ∧ (t.run = .running → t.atBoundary = false → exec (.preemptHalt C) s = .next (s.at_ 1 (.preemptHalt C)))
      ∧ (t.run ≠ .running → exec (.preemptHalt C) s = .next u))
  ∧ ∀ (s : State) (n : Nat) (l : Launch), s.launches.find n = some l →
      ((l.allPlaced = false ∨ s.launchEmpty n = false) → exec (.launchCompletion n) s = .next s)
      ∧ (l.allPlaced = true → s.launchEmpty n = true →
        ((s.commandsOf l.tids = true ∨ s.accessesOf l.tids = true ∨ s.queuesHeld l.part = true ∨ s.recordHeld l.d = true) →
            exec (.launchCompletion n) s = .next (s.at_ 64 (.launchCompletion n)))
        ∧ (s.commandsOf l.tids = false → s.accessesOf l.tids = false → s.queuesHeld l.part = false → s.recordHeld l.d = false →
          let r := s.completionRecord l.part l.queue l.index l.d l.missed false l.fence
          let u := if l.fence = 0 then r.countDone l.part l.queue l.index else r
          let z : State := { u with launches := u.launches.del n }
          exec (.launchCompletion n) s = .next ((wakeTrees z.allTasks z).kickPlace l.part)
          ∧ (pf l.d 5 0 56 = 0 → pf l.d 7 16 1 = 0 → r = s)
          ∧ ((∀ x ∈ z.allTasks, x.run ≠ .parked (.syncall false) ∧ x.run ≠ .parked (.tree false)) → wakeTrees z.allTasks z = z)))

/-- Errors and the targeted self-test (R65, R326 to R330, R332, R367, R379): what finds an error starts the unit's test, or is counted
while it runs, and counts its event; the end of the test classifies it, takes a spare or retires the unit; SELFTEST asks for one; a dead link's
rings are marked, in the plan and in the ring table; TLBINV drops the leaves of its range and completes once the accesses that used them are performed.
The model's choices: how the runs of a test end is the hardware's (log 19); a dead ring's descriptors, for which R379 gives a bound of 50 µs, are looked at
when it is over (log 5), which is 95,000 cycles of the 1.9 GHz reference later, as are a test's microseconds (log 8). -/
def Obligations.ErrorsAndTests : Prop :=
  (∀ (s : State) (cls idx pa port : Nat),
    let u := s.unit cls idx
    let first := Config.testPasses s.free
    let test (place : Option Nat) : State :=
      ((State.setUnit { s with free := s.free + 2 } cls idx { u with testing := true, errors := 0, place := place }).holdMatrix cls idx).at_
        (if first then testCycles cls else 2 * testCycles cls) (.testdone cls idx first (Config.testPasses (s.free + 1)))
    let found (z : State) : State := { z with bad := if z.bad.contains (badUnit pa) then z.bad else badUnit pa :: z.bad }
    (u.testing = false → ∀ place, s.startTest cls idx place = test place)
    ∧ (u.testing = true → ∀ place, s.startTest cls idx place = s.setUnit cls idx { u with errors := u.errors + 1 })
    ∧ (cls ≠ 2 → s.holdMatrix cls idx = s)
    ∧ (unitExists cls idx = true → exec (.correctedError cls idx) s = .next (s.startTest cls idx none))
    ∧ (unitExists cls idx = false → exec (.correctedError cls idx) s = .next s)
    ∧ (port < 12 → exec (.portError port) s = .next (s.startTest 3 port none))
    ∧ (12 ≤ port → exec (.portError port) s = .next s ∧ exec (.linkDeath port) s = .next s)
    ∧ (unitOf pa = some (cls, idx) →
        let lost (z : State) : State := resetVital pa s.parts ((z.event 6 (unitDie cls idx) pa).startTest cls idx (some pa))
        (assigned pa = true → isHost pa = false → exec (.uncorrectedError pa) s = .next (lost (found s)))
        ∧ exec (.patrolScrub pa .uncorrected) s = .next (lost (found s))
        ∧ exec (.patrolScrub pa .corrected) s = .next ((s.event 7 (unitDie cls idx) 0).startTest cls idx (some pa))
        ∧ exec (.patrolScrub pa .clean) s = .next s
        ∧ ((∀ q ∈ s.parts, ¬ (q.2.hcBase ≤ pa ∧ pa < q.2.hcBase + 64) ∧ ¬ (q.2.lqtab ≤ pa ∧ pa < q.2.lqtab + 1024)) → ∀ z, resetVital pa s.parts z = z))
    ∧ ((assigned pa = false ∨ isHost pa = true) → exec (.uncorrectedError pa) s = .next s))
  ∧ (∀ (s : State) (cls idx port key d0 : Nat) (r1 r2 : Bool),
    let u := s.unit cls idx
    (u.testing = true →
        (Gives (.testdone cls idx r1 r2) s fun t => Counted s t 5 (unitDie cls idx) ∧ (t.unit cls idx).testing = false
          ∧ ((r1 = true ∨ r2 = true) → u.transients = [] → (t.unit cls idx).used = u.used ∧ (t.unit cls idx).retired = u.retired)
          ∧ (r1 = false → r2 = false → s.sparesUsed cls idx < unitSpares cls → (t.unit cls idx).used = u.used + 1 ∧ (t.unit cls idx).retired = u.retired)
          ∧ (r1 = false → r2 = false → unitSpares cls ≤ s.sparesUsed cls idx → (t.unit cls idx).used = u.used ∧ (t.unit cls idx).retired = true)))
    ∧ (u.testing = false → exec (.testdone cls idx r1 r2) s = .next s)
    ∧ (port < 12 → s.pkg.plan = [(key, d0)] →
        let dead := s.setUnit 3 port { s.unit 3 port with retired := true }
        let uses := bitsOf d0 63 1 = 1 ∧ bitsOf d0 61 1 = 0 ∧ (bitsOf d0 4 4 = port ∨ bitsOf d0 0 4 = port)
        let die := bitsOf d0 8 2
        (uses → exec (.linkDeath port) s = .next (State.at_ (State.at_ { dead with
            pkg := { dead.pkg with plan := [(key, d0 + 2 ^ 61)] }
            mem := if s.parts.find (key / 16) = none then s.mem
              else s.mem.setBytes (leCells ((s.part (key / 16)).report + 0x400 + 64 * (key % 16)) 8 (d0 + 2 ^ 61)) }
            95000 (.collectiveStart die key false)) 95000 (.collectiveStart die key true)))
        ∧ (¬ uses → exec (.linkDeath port) s = .next dead)))
  ∧ ∀ (s : State) (rd ra rb : Reg), s.calm →
    let v := s.xr ra
    let n := s.xr rb
    let cls := bitsOf v.toNat 56 8
    let idx := bitsOf v.toNat 0 32
    (check (.selftest rd ra) s = none →
      ((bitsOf v.toNat 32 24 ≠ 0 ∨ unitExists cls idx = false ∨ s.unitServes cls idx s.t.part = false) → WritesX (.selftest rd ra) s rd 2)
      ∧ (bitsOf v.toNat 32 24 = 0 → unitExists cls idx = true → s.unitServes cls idx s.t.part = true →
          ((s.unit cls idx).testing = true → WritesX (.selftest rd ra) s rd 1)
          ∧ ((s.unit cls idx).testing = false →
              let u := s.startTest cls idx none
              SetsX (.selftest rd ra) s (u.setUnit cls idx { u.unit cls idx with askers := (u.unit cls idx).askers ++ [s.t.core] }) rd 0)))
    ∧ (check (.tlbinv ra rb) s = none →
      let whole := n = BitVec.allOnes 64
      let legal := v.toNat % 65536 = 0 ∧ n ≠ 0 ∧ n.toNat % 65536 = 0 ∧ v.toNat + n.toNat ≤ 2 ^ 56
      let lo := if whole then 0 else v.toNat
      let m := if whole then 2 ^ 56 else n.toNat
      let u := invalidate s.t.part lo m s
      (whole ∨ legal →
        ((∀ x ∈ u.allTasks, x.part ≠ s.t.part ∨ x.holdsLeaf lo m = false) → Completes (.tlbinv ra rb) s u)
        ∧ ((∃ x ∈ u.allTasks, x.part = s.t.part ∧ x.holdsLeaf lo m = true) → exec (.tlbinv ra rb) s = stall u)
        ∧ (∀ k, (u.cluster k).tlb = (s.cluster k).tlb.filter fun e => !(e.part == s.t.part && overlap e.base e.size lo m))
        ∧ u = { s with clusters := u.clusters, parts := u.parts })
      ∧ (¬ (whole ∨ legal) → Traps (.tlbinv ra rb) s .illegal v))

/-- What happens at a core, its cluster and its homes (R26, R27, R94, R96, R168, R171, R180, R186, R214, R216, R286). A register fill takes 20 cycles;
a compute-phase load whose count has run out is delivered; a stream reads a block ahead; the item-memory control register takes a legal
value at S level; a lock is asked for again; an answer writes its destination; a search answers its task; an evaluation's end
completes its entry; a spark becomes an evaluation on an idle core or fizzles; a walk fills the translation cache. What a unit under test serves
is waited for. Nothing else changes.
The model's choices and readings: when a follow-up event falls due (log 5); the number of an evaluation (log 6); the storage in the order of use and the
cache that keeps the latest 1,024 leaves (log 32); the lowest idle core for a spark (log 41). -/
def Obligations.CoreEvents : Prop :=
  (∀ (s : State) (n : Reg) (l : LoadRec) (b : Stream) (k : Nat) (vr : VReg) (s1 : State) (w : W64),
    let C := s.t.core
    let K := s.core C
    let me := (s.t.tid, n.val)
    (s.t.tid = 0 → exec (.registerFill n) s = .next s)
    ∧ (s.t.tid ≠ 0 →
      (me ∈ K.phys → exec (.registerFill n) s = .next (s.setCore C { K with phys := me :: K.phys.erase me }))
      ∧ (me ∉ K.phys → K.phys.length < 128 → exec (.registerFill n) s = .next ((s.heldFor 20).setCore C { K with phys := me :: K.phys })))
    ∧ (s.t.loads = [l] →
      (l.left = 0 → exec .loadDelivery s = .next { s.putX l.rd l.value with t := { (s.putX l.rd l.value).t with loads := [] } })
      ∧ (l.left ≠ 0 → exec .loadDelivery s = .next s))
    ∧ (s.t.streams.find n.val = some b →
      ((b.d.out = true ∨ 4 ≤ b.ahead.length ∨ b.nextAhead = none) → exec (.streamBlockRead n) s = .next s)
      ∧ (b.d.out = false → b.ahead.length < 4 → b.nextAhead = some k → b.d.phaseBad k s = false → s.readBlock b.d k = .ok (vr, s1) →
          exec (.streamBlockRead n) s =
            .next { s1 with t := { s1.t with streams := s1.t.streams.put n.val { b with ahead := b.ahead ++ [vr] } } }))
    ∧ (let able := s.t.st.s = true ∧ isOpt C = false ∧ imctlOk w = true
       (able → Completes (.imctlWrite w) s (s.setCluster (clusterOf C) { s.cluster (clusterOf C) with imctl := w }))
       ∧ (¬ able → Traps (.imctlWrite w) s .access 0x800100)))
  ∧ (∀ (s : State) (t : Task) (K : Nat), s.task t.tid = some t →
    exec (.lockRetry t.tid) s = .next (s.setTask { t with lockWait := false })
    ∧ (∀ a, t.answers = [a] → a.regs = [] →
        (a.due ≤ s.reads a.clk → exec (.homeAnswer t.tid) s = .next (s.setTask { t with
            answers := [], x := match a.rd with
              | some rd => if rd = 0 then t.x else t.x.set rd a.value
              | none => t.x }))
        ∧ (s.reads a.clk < a.due → exec (.homeAnswer t.tid) s = .next (s.setTask t)))
    ∧ (∀ sought q rest, (s.cluster K).searches = (t.tid, sought, q) :: rest →
        let c := s.cluster K
        let n := s.issued (8 * K)
        let w := s.search K sought q
        (n < c.searchEnd → exec (.itemMemorySearch K) s = .next (s.after (.issue (8 * K)) (c.searchEnd - n) (.itemMemorySearch K)))
        ∧ (c.searchEnd ≤ n → s.searchHeld K q = true → exec (.itemMemorySearch K) s = .next (s.after (.issue (8 * K)) 16 (.itemMemorySearch K)))
        ∧ (c.searchEnd ≤ n → s.searchHeld K q = false → s.bad = [] → exec (.itemMemorySearch K) s =
            .next ((s.setCluster K { c with searches := rest, searchEnd := n + (bitsOf q.toNat 16 12 + 15) / 16 }).setTask { t with near := some w }))))
  ∧ ∀ (s s1 : State) (K C P i : Nat) (va h : W64) (r : List W64) (e : TlbEntry),
    let en := s.hGet P i
    let c := s.cluster K
    let able (j : Nat) : Bool := s.idle (8 * K + j) && decide ((s.evalsOn (8 * K + j)).length < 32)
    let again (u : State) : State := u.after (.die (K / 128)) 1 (.sparkConversion K)
    let more (u : State) : State := if r = [] then u else again u
    let calm := s.bad = [] ∧ s.pkg.units = []
    (en.state ≠ 3 → exec (.evaluationCompletion P i) s = .next s)
    ∧ (en.state = 3 →
      (∀ v, s.evals.find (s.named en.evtask) = some v →
        (v.running = false → exec (.evaluationCompletion P i) s = .next s)
        ∧ (v.running = true → s.goes v.core = true → exec (.evaluationCompletion P i) s = .next (s.evalStep (s.named en.evtask) v))
        ∧ (v.running = true → s.goes v.core = false →
            exec (.evaluationCompletion P i) s = .next (s.after (.issue v.core) 1 (.evaluationCompletion P i))))
      ∧ (s.evals.find (s.named en.evtask) = none →
        ((s.task (s.named en.evtask)).isSome = true → exec (.evaluationCompletion P i) s = .next s)
        ∧ (s.task (s.named en.evtask) = none → s.completeHeld P i = true → exec (.evaluationCompletion P i) s = .next (s.at_ 16 (.evaluationCompletion P i)))
        ∧ (s.task (s.named en.evtask) = none → s.completeHeld P i = false → exec (.evaluationCompletion P i) s = .next (s.completeEntry P i none)
          ∧ (s.mem.wf = true → s.bad = [] → i < (s.part P).hcFresh → en.narg = 0 → en.waiter = none → en.dead = false → en.charge = 0 → s.completeEntry P i none =
              (s.withEntry P i { en with state := 1, cause := 0, evtask := 0, evcore := 0, waiter := none, ent := 0 }).countRecv en.evcore))))
    ∧ (c.sparks = [] → exec (.sparkConversion K) s = .next s)
    ∧ (s.clusterRetired K = true → exec (.sparkConversion K) s = .next s)
    ∧ (c.sparks = h :: r → s.clusterRetired K = false → s.entryHeld (hPart h) (hIndex h) = true → exec (.sparkConversion K) s = .next (again s))
    ∧ (c.sparks = h :: r → calm →
      ((List.range 8).find? able = none → exec (.sparkConversion K) s = .next (again s))
      ∧ ∀ j, (List.range 8).find? able = some j →
        let Q := hPart h
        let x := hIndex h
        let f := s.hGet Q x
        let core := 8 * K + j
        (¬ (f.state = 2 ∧ f.gen = hGen h) → exec (.sparkConversion K) s =
          .next (more (s.setCluster K { c with sparks := r, fizzled := c.fizzled + 1, recv := c.recv + 1 })))
        ∧ (f.state = 2 → f.gen = hGen h → f.op ≠ SuspOp.call.code → ∀ hb, s.hatboxRoom Q core false = some hb →
          let n := s.freshTid
          let z := ((s.setCluster K { c with sparks := r, converted := c.converted + 1, recv := c.recv + 1 }).withEntry Q x
            { f with state := 3, evtask := n % 2 ^ 32, evcore := core }).countSent core
          exec (.sparkConversion K) s = .next (more { z with
            evals := z.evals.put n { part := Q, idx := x, core := core, prio := 0, hatbox := hb, demand := none, since := s.stamp }
            nextTid := n + 1
            stamp := s.stamp + 1 })))
    ∧ (let k := tlbHome C
       (∀ q, tlbFind P va.toNat (s.cluster k).tlb = some q → exec (.translationWalk C P va) s = .next s)
       ∧ (tlbFind P va.toNat (s.cluster k).tlb = none →
         (∀ x u, s.walk P va.toNat = .error (some x, u) → exec (.translationWalk C P va) s = .next (s.metError u))
         ∧ (∀ u, s.walk P va.toNat = .error (none, u) → exec (.translationWalk C P va) s = .next (s.at_ 16 (.translationWalk C P va)))
         ∧ (s.walk P va.toNat = .ok (e, s1) → exec (.translationWalk C P va) s =
             .next (s1.setCluster k { s1.cluster k with tlb := (e :: (s1.cluster k).tlb).take 1024 }))))

/-! ## Reset -/

/-- The machine right after power-on: no partition, no task, nothing in memory, the boot alone to come; each die's clamp limit is 1,875 A
and its alert threshold 105 °C (R324, R325), and each collective engine's first tag is 1 (R380).
That unwritten memory reads as one byte, and that boot is the first event, is the model's choice (log 2, log 9). -/
def Obligations.ResetLeaves : Prop :=
  State.reset.mem.wf = true ∧ (∀ a, State.reset.mem.byteAt a = Memory.blank) ∧ State.reset.parts = [] ∧ (∀ n, State.reset.task n = none)
  ∧ State.reset.pkg.booted = false ∧ State.reset.sched = [(0, .boot)]
  ∧ (∀ d, (State.reset.die d).limit = 1875 ∧ (State.reset.die d).alert = 105)
  ∧ ∀ d, (State.reset.engines.getD d {}).nextTag = 1

/-- What partition reset leaves (R10, R82, R110, R151, R159, R168, R195, R205, R225, R229, R230, R238, R378): in its cores zero counters, no waiting-task entry, an empty
mailbox and statistics buffer, L all ones, BADSCALE zero, empty queues, the bf16 context, zero accumulators with no owner; in its clusters no group, no
spark, IMCTL zero, the identity table; the weights 0x888; and a Hatcheck of FREE entries of generation 0 with the full bound.
BADSCALE, L, IMCTL and the permutation table are read as reset with the partition (log 45). -/
def Obligations.PartitionResetLeaves : Prop :=
  ∀ (s : State) (P cause : Nat) (p : Part), s.parts.find P = some p →
    Gives (.partitionReset P cause) s fun t =>
      (∀ c ∈ p.cores, let k := t.core c
        k.ctr = Vector.replicate 16 0 ∧ k.table = [] ∧ k.mailbox = [] ∧ k.held = [] ∧ k.stats = [] ∧ k.tieL = BitVec.allOnes 8192 ∧ k.badscale = 0
        ∧ k.copies = [] ∧ k.mq = [] ∧ k.sent = 0 ∧ k.recv = 0 ∧ k.fmt.afmt = 1 ∧ k.fmt.bfmt = 1 ∧ k.fmt.ascale = false ∧ k.fmt.bscale = false
        ∧ k.fmt.statBase = 0 ∧ k.bank.owner = none ∧ k.mitten.owner = none ∧ ∀ i j, k.bank.acc0.word i j = 0 ∧ k.bank.acc1.word i j = 0
          ∧ k.mitten.acc0.word i j = 0 ∧ k.mitten.acc1.word i j = 0)
      ∧ (∀ K ∈ p.clusters, let k := t.cluster K
        k.groups = [] ∧ k.sparks = [] ∧ k.offered = 0 ∧ k.converted = 0 ∧ k.fizzled = 0 ∧ k.overflow = 0 ∧ k.imctl = 0 ∧ k.clock = s.issued (8 * K)
        ∧ ∀ a b, a < 8 → b < 8 → k.mtable[8 * a + b]? = some b)
      ∧ (t.part P).weights = 0x888 ∧ (t.part P).views = [] ∧ (t.part P).hcBound = BitVec.allOnes 64 ∧ (t.part P).hcMode = 0 ∧ (t.part P).hcTotal = 0
      ∧ ((p.lqtab + 1024 ≤ p.entryPa 0 ∨ p.entryPa p.hcCapacity ≤ p.lqtab) → (p.report + 0x810 ≤ p.entryPa 0 ∨ p.entryPa p.hcCapacity ≤ p.report + 0x800) →
          ∀ i, i < p.hcCapacity → (t.hGet P i).state = 0 ∧ (t.hGet P i).gen = 0)

/-! ## Words and steps -/

/-- Words that the manual writes out decode to the instructions it writes them for (R37, R38), and two that name none are refused (R39). -/
def Obligations.DecodeWords : Prop :=
  decode 0x15298E78 = .ok (.acas 5 6 7 true .plain) ∧ decode 0x223A0071 = .ok (.budget 7 8 .eager) ∧ decode 0x1F298000 = .ok (.copy 5 6)
  ∧ decode 0x23018E30 = .ok (.follow 6 7) ∧ decode 0x1029A002 = .ok (.ld 5 6 .w .plain 2) ∧ decode 0x111911FF = .ok (.lds 3 4 .h .plain (-1))
  ∧ decode 0x02280002 = .ok (.mfsr 5 .epc) ∧ decode 0x03024000 = .ok (.mtsr 9 .status) ∧ decode 0x24000001 = .ok (.phase .c)
  ∧ decode 0x5410C006 = .ok (.pnot 2 3) ∧ decode 0x13298E24 = .ok (.stv 5 6 7 .dev) ∧ decode 0x23298E50 = .ok (.tree 5 6 7 .sum)
  ∧ decode 0x53184512 = .ok (.vclt 3 1 2 4 .fp16) ∧ decode 0x5510DE00 = .ok (.vcvt 2 3 true .int8 0 .fp32) ∧ decode 0x50190A06 = .ok (.vfma 3 4 5 0 .fp32)
  ∧ decode 0x18410A80 = .ok (.vld 8 4 5 2 .plain) ∧ decode 0x1C218E01 = .ok (.vldv 4 6 7 0 .plain .take) ∧ decode 0x5131924A = .ok (.vmulX 6 6 9 1 .bf16)
  ∧ decode 0x5A298608 = .ok (.vnrd 5 6 3 0 .east) ∧ decode 0x5D020A38 = .ok (.vrrd 0 8 5 0 7) ∧ decode 0x1B118E00 = .ok (.vstq 2 6 7)
  ∧ decode 0x00000000 = .error .noMajor ∧ decode 0x01000001 = .error .reserved

/-- Decoding the word of a well-formed instruction gives the instruction back, every operand at every value (R30 to R38). -/
def Obligations.RoundTrip : Prop := ∀ i : Instr, i.wf = true → decode (encode i) = .ok i

/-- A word that decodes is, but for its P bit, the word of a well-formed instruction: no other bit of it is ignored (R39, R40). -/
def Obligations.DecodeInverse : Prop := ∀ (w : W32) (i : Instr), decode w = .ok i → i.wf = true ∧ encode i = w &&& 0x7FFFFFFF#32

/-- A step runs the instruction that it decodes (R30 to R33, R55, R59): where the focused task has the turn, nothing is due and nothing holds its unit, the
word at the pc is executed as a lone word, or with the next one as a pair, and what follows a unit follows; a word that names no instruction raises
ILLEGAL. An event that is due is run before any turn: those of real time first, then those of the clocks.
The turns of a step are the model's form (log 1). -/
def Obligations.StepRunsDecodedInstruction : Prop :=
  (∀ (s s1 : State) (r : List Nat) (w : W32),
    let o : State := State.settleSeq { s with todo := r, old := none }
    let u : State := { o with t := { o.t with trapWait := false } }
    let goes (x : State) (q : IssueUnit) (run : State → Out) : Prop := (∀ n ∈ q.vecRegs x, (x.t.tid, n) ∈ (x.core x.t.core).phys) →
      ∀ y, touchRegs (q.vecRegs x) x = .next y → step s = andThen (run y) fun z => .next (q.finish y z)
    (∀ d e q, s.sched = (d, e) :: q → s.now < d) → (∀ x ∈ s.timed, s.reads x.1 < x.2.1) → s.todo = s.t.tid :: r → s.t.tid ≠ 0 → s.t.run = .running →
    s.t.hold ≤ s.tclock → u.userPending = false → (∀ l ∈ s.t.loads, l.left ≠ 0) → s.t.seq.head = none → s.t.streams = [] → s.t.reloadErr = none →
    s.t.xhold = none → s.t.lockWait = false → s.t.rowWait = [] → s.t.follow = none → u.queueFull = false → u.fetch s.t.pc = .ok (w, s1) →
    (∀ i, pairBit w = false → decode w = .ok i → interlocked i s1 = false → goes s1 ⟨i, w, none⟩ fun y => exec i (y.forWord w false 4))
    ∧ (∀ e, pairBit w = false → decode w = .error e → step s = andThen (raise .illegal (w.setWidth 64) (s1.forWord w false 4)) fun z =>
        .next (match z.t.last with | .stalled => z | _ => z.afterTrap))
    ∧ ∀ (v : W32) (s2 : State) (i j : Instr), pairBit w = true → classA w = false → s.t.pc.toNat % 8 = 0 → s1.fetch (s.t.pc + 4) = .ok (v, s2) →
        classA v = true → pairBit v = false → decode w = .ok i → decode v = .ok j → sharesDest i j = false → s2.t.pc = s.t.pc →
        interlocked i s2 = false → interlocked j s2 = false → goes s2 ⟨i, w, some (j, v)⟩ (execPair i w j v))
  ∧ ∀ (s : State),
    (∀ d e q, s.sched = (d, e) :: q → d ≤ s.now → step s = runEvent e (State.unfocus { s with sched := q }))
    ∧ ((∀ d e q, s.sched = (d, e) :: q → s.now < d) → ∀ c d e pre post, s.timed = pre ++ (c, d, e) :: post → d ≤ s.reads c →
        (∀ x ∈ pre, s.reads x.1 < x.2.1) → step s = runEvent e (State.unfocus { s with timed := pre ++ post }))
    ∧ ((∀ d e q, s.sched = (d, e) :: q → s.now < d) → (∀ x ∈ s.timed, s.reads x.1 < x.2.1) → s.todo = [] → step s = .next s.tick ∧ s.tick.now = s.now + 1)

/-- Memory keeps its canonical form: addresses rising, no entry equal to what an unlisted address reads as.
The form is the model's (log 2). -/
def Obligations.MemoryInvariant : Prop := ∀ s t : State, s.mem.wf = true → step s = .next t → t.mem.wf = true

/-- Every instruction, command and event answers a next state in every state; a step is never refused, and stops only where the list of turns names
number 0, which is no task.
The rows without a word, and that one not enabled changes nothing, are the model's form (log 1). -/
def Obligations.EveryInstructionRuns : Prop :=
  (∀ (i : Instr) (s : State), ∃ t, exec i s = .next t)
  ∧ (∀ (s : State) (f : Fault), step s = .fault f → ∃ r, s.todo = 0 :: r) ∧ ∀ (s : State) (f : Refusal), step s ≠ .refused f
end

