-- ==== Sys2Proof/Laws/Memory.lean ====
section
/-! SUPPORT. Memory: reading after a write, and that every operation keeps the canonical form. -/

namespace Sys2Proof.Machine

/-! ## The canonical form -/

theorem cellsWf_cons {bg : Nat → Byte} {lo : Option Nat} {k : Nat} {b : Byte} {r : List Host.Cell} :
    cellsWf bg lo ((k, b) :: r) = true ↔ (∀ l, lo = some l → l < k) ∧ b ≠ bg k ∧ cellsWf bg (some k) r = true := by
  cases lo <;> simp [cellsWf, and_assoc]

/-- A bound below another one holds as well. -/
theorem cellsWf_mono {bg : Nat → Byte} {lo : Option Nat} {l : Nat} {m : List Host.Cell} (h : cellsWf bg (some l) m = true)
    (hl : ∀ k, lo = some k → k ≤ l) : cellsWf bg lo m = true := by
  cases m with
  | nil => rfl
  | cons c r =>
    rw [cellsWf_cons] at h ⊢
    exact ⟨fun k e => Nat.lt_of_le_of_lt (hl k e) (h.1 l rfl), h.2⟩

/-- Below the first cell every address reads as the background. -/
theorem cellAt_of_le {bg : Nat → Byte} {l a : Nat} {m : List Host.Cell} (h : cellsWf bg (some l) m = true) (ha : a ≤ l) : cellAt bg m a = bg a := by
  cases m with
  | nil => rfl
  | cons c r =>
    have hk : l < c.1 := (cellsWf_cons.mp h).1 l rfl
    rw [cellAt, if_neg (by omega), if_pos (by omega)]

/-- Two lists of cells in canonical form that read alike are one. -/
theorem cells_ext {bg : Nat → Byte} {m n : List Host.Cell} {lo lo' : Option Nat} (hm : cellsWf bg lo m = true) (hn : cellsWf bg lo' n = true)
    (h : ∀ a, cellAt bg m a = cellAt bg n a) : m = n := by
  induction m generalizing n lo lo' with
  | nil =>
    cases n with
    | nil => rfl
    | cons c r => exact absurd (by simpa [cellAt] using (h c.1).symm) (cellsWf_cons.mp hn).2.1
  | cons c r ih =>
    obtain ⟨-, hb, hr⟩ := cellsWf_cons.mp hm
    cases n with
    | nil => exact absurd (by simpa [cellAt] using h c.1) hb
    | cons d q =>
      obtain ⟨-, hd, hq⟩ := cellsWf_cons.mp hn
      have e : c.1 = d.1 := by
        rcases Nat.lt_trichotomy c.1 d.1 with g | g | g
        · have := h c.1
          rw [cellAt, cellAt, if_pos rfl, if_neg (by omega), if_pos g] at this
          exact absurd this hb
        · exact g
        · have := h d.1
          rw [cellAt, cellAt, if_pos rfl, if_neg (by omega), if_pos g] at this
          exact absurd this.symm hd
      have b : c.2 = d.2 := by
        have := h c.1
        rw [cellAt, cellAt, if_pos rfl, if_pos e.symm] at this
        exact this
      rw [show c = d from Prod.ext e b, ih hr hq fun a => ?_]
      rcases Nat.lt_or_ge c.1 a with g | g
      · have := h a
        rw [cellAt, cellAt, if_neg (by omega), if_neg (by omega), if_neg (by omega), if_neg (by omega)] at this
        exact this
      · rw [cellAt_of_le hr g, cellAt_of_le hq (e ▸ g)]

/-- Dropping cells keeps the form, over a background that agrees on those that stay. -/
theorem cellsWf_filter {bg bg' : Nat → Byte} {lo : Option Nat} {m : List Host.Cell} (p : Host.Cell → Bool) (h : cellsWf bg lo m = true)
    (hp : ∀ c, p c = true → bg' c.1 = bg c.1) : cellsWf bg' lo (m.filter p) = true := by
  induction m generalizing lo with
  | nil => rfl
  | cons c r ih =>
    obtain ⟨h1, h2, h3⟩ := cellsWf_cons.mp h
    rw [List.filter_cons]
    split
    · exact cellsWf_cons.mpr ⟨h1, hp c ‹_› ▸ h2, ih h3⟩
    · exact cellsWf_mono (ih h3) fun k e => Nat.le_of_lt (h1 k e)

/-- Dropping ranges that do not hold an address leaves what it reads as. -/
theorem background_filter {l : List Fill} {p : Fill → Bool} {a : Nat} (h : ∀ g ∈ l, g.has a = true → p g = true) :
    background (l.filter p) a = background l a := by
  induction l with
  | nil => rfl
  | cons g r ih =>
    have ih := ih fun f hf => h f (List.mem_cons_of_mem _ hf)
    rw [List.filter_cons, background]
    split
    · rw [background, ih]
    · rw [ih, if_neg fun e => ‹¬ _› (h g List.mem_cons_self e)]
/-- No range holds the address: it is blank. -/
theorem background_none {l : List Fill} {a : Nat} (h : ∀ g ∈ l, g.has a = false) : background l a = Memory.blank := by
  induction l with
  | nil => rfl
  | cons g r ih =>
    rw [background, if_neg (by rw [h g List.mem_cons_self]; exact Bool.false_ne_true), ih fun f hf => h f (List.mem_cons_of_mem _ hf)]

/-- What an unlisted address reads as once a range has been filled. -/
theorem Memory.background_fill (m : Memory) (f : Fill) (a : Nat) :
    background (m.fill f).fills a = if f.has a then f.byte a else background m.fills a := by
  have hr : f.has a = false → background (m.fills.filter fun g => !decide (f.base ≤ g.base ∧ g.base + g.size ≤ f.base + f.size)) a =
      background m.fills a := fun e => background_filter fun g _ hg => by
    simp only [Fill.has, decide_eq_false_iff_not, decide_eq_true_eq] at e hg
    simp only [Bool.not_eq_true', decide_eq_false_iff_not]; omega
  simp only [Memory.fill]
  split
  · rename_i h
    simp only [Bool.and_eq_true, decide_eq_true_eq] at h
    by_cases e : f.has a = true
    · rw [if_pos e, Fill.byte, if_pos h.1]
      refine background_none fun g hg => ?_
      have := of_decide_eq_true (List.all_eq_true.mp h.2 g hg)
      simp only [Fill.has, decide_eq_true_eq, decide_eq_false_iff_not] at e ⊢; omega
    · rw [if_neg e, hr (Bool.eq_false_iff.mpr e)]
  · rw [background]
    by_cases e : f.has a = true
    · rw [if_pos e, if_pos e]
    · rw [if_neg e, if_neg e, hr (Bool.eq_false_iff.mpr e)]
theorem Memory.wf_fill {m : Memory} (f : Fill) (h : m.wf = true) : (m.fill f).wf = true :=
  cellsWf_filter _ h fun c hc => by rw [Memory.background_fill, if_neg (by simpa using hc)]

/-- A filled range reads as the fill says, the rest as before. -/
theorem cellAt_filter {bg bg' : Nat → Byte} {p : Host.Cell → Bool} {lo : Option Nat} {m : List Host.Cell} {a : Nat} (h : cellsWf bg lo m = true)
    (hp : ∀ b, p (a, b) = p (a, 0)) (ha : p (a, 0) = true → bg' a = bg a) :
    cellAt bg' (m.filter p) a = if p (a, 0) then cellAt bg m a else bg' a := by
  induction m generalizing lo with
  | nil =>
    by_cases e : p (a, 0) = true
    · rw [if_pos e]; exact ha e
    · rw [if_neg e]; rfl
  | cons c r ih =>
    obtain ⟨-, -, h3⟩ := cellsWf_cons.mp h
    have ih := ih h3
    have below (g : a < c.1) : cellAt bg' (r.filter p) a = bg' a := by
      rw [ih]; split
      · rw [cellAt_of_le h3 (Nat.le_of_lt g), ha ‹_›]
      · rfl
    rw [List.filter_cons]
    by_cases e : c.1 = a
    · have hc : p c = p (a, 0) := (congrArg p (Prod.ext e rfl : c = (a, c.2))).trans (hp c.2)
      rw [hc]
      split
      · rw [cellAt, cellAt, if_pos e, if_pos e]
      · rw [ih, if_neg ‹_›]
    · rcases Nat.lt_or_ge a c.1 with g | g
      · have : (if p (a, 0) = true then cellAt bg (c :: r) a else bg' a) = bg' a := by
          rw [cellAt, if_neg e, if_pos g]; split
          · rw [ha ‹_›]
          · rfl
        rw [this]
        split
        · rw [cellAt, if_neg e, if_pos g]
        · exact below g
      · rw [show cellAt bg (c :: r) a = cellAt bg r a by rw [cellAt, if_neg e, if_neg (by omega)], ← ih]
        split
        · rw [cellAt, if_neg e, if_neg (by omega)]
        · rfl
theorem Memory.byteAt_fill {m : Memory} (h : m.wf = true) (f : Fill) (a : Nat) :
    (m.fill f).byteAt a = if f.has a then f.byte a else m.byteAt a := by
  have hb := Memory.background_fill m f a
  have := cellAt_filter (bg' := background (m.fill f).fills) (p := fun c => !f.has c.1) (a := a) h (fun _ => rfl)
    fun e => by rw [hb, if_neg (by simpa using e)]
  rw [Memory.byteAt]
  refine this.trans ?_
  by_cases e : f.has a = true
  · rw [if_neg (by simp [e]), hb, if_pos e, if_pos e]
  · rw [if_pos (by simp [e]), if_neg e]; rfl

/-! ## One byte -/

theorem cellsWf_setCell {bg : Nat → Byte} {lo : Option Nat} {m : List Host.Cell} {a : Nat} {b : Byte} (h : cellsWf bg lo m = true)
    (ha : ∀ l, lo = some l → l < a) : cellsWf bg lo (setCell bg m a b) = true := by
  induction m generalizing lo with
  | nil =>
    rw [setCell]
    split
    · rfl
    · exact cellsWf_cons.mpr ⟨ha, ‹_›, rfl⟩
  | cons c r ih =>
    obtain ⟨h1, h2, h3⟩ := cellsWf_cons.mp h
    rw [setCell]
    split
    · split
      · exact cellsWf_mono h3 fun k e => Nat.le_of_lt (h1 k e)
      · exact cellsWf_cons.mpr ⟨ha, ‹_›, (show c.1 = a from ‹_›) ▸ h3⟩
    · split
      · split
        · exact h
        · exact cellsWf_cons.mpr ⟨ha, ‹_›, cellsWf_cons.mpr ⟨fun l e => by cases e; assumption, h2, h3⟩⟩
      · exact cellsWf_cons.mpr ⟨h1, h2, ih h3 fun l e => by cases e; omega⟩
theorem Memory.wf_setByte {m : Memory} (a : Nat) (b : Byte) (h : m.wf = true) : (m.setByte a b).wf = true :=
  cellsWf_setCell h fun _ e => nomatch e

theorem cellAt_setCell {bg : Nat → Byte} {m : List Host.Cell} {lo : Option Nat} (h : cellsWf bg lo m = true) (a x : Nat) (b : Byte) :
    cellAt bg (setCell bg m a b) x = if x = a then b else cellAt bg m x := by
  induction m generalizing lo with
  | nil =>
    rw [setCell]
    split
    · split <;> simp_all [cellAt]
    · simp only [cellAt]
      by_cases e : x = a
      · rw [if_pos e, if_pos e.symm]
      · rw [if_neg e, if_neg (Ne.symm e), ite_self]
  | cons c r ih =>
    obtain ⟨-, -, h3⟩ := cellsWf_cons.mp h
    rw [setCell]
    split
    · rename_i e
      split
      · rename_i eb
        by_cases hx : x ≤ c.1
        · rw [cellAt_of_le h3 hx]
          by_cases hxa : x = a
          · rw [if_pos hxa, hxa, eb]
          · rw [if_neg hxa, cellAt, if_neg (by omega), if_pos (by omega)]
        · rw [if_neg (by omega), cellAt, if_neg (by omega), if_neg (by omega)]
      · simp only [cellAt]
        by_cases hxa : x = a
        · rw [if_pos hxa.symm, if_pos hxa]
        · rw [if_neg (Ne.symm hxa), if_neg hxa, e, if_neg (Ne.symm hxa)]
    · rename_i e
      split
      · rename_i l
        split
        · rename_i eb
          by_cases hxa : x = a
          · subst hxa; rw [if_pos rfl, eb, cellAt, if_neg e, if_pos l]
          · rw [if_neg hxa]
        · by_cases hxa : x = a
          · rw [if_pos hxa, cellAt, if_pos hxa.symm]
          · rw [if_neg hxa, cellAt, if_neg (Ne.symm hxa)]
            split
            · rw [cellAt, if_neg (by omega), if_pos (by omega)]
            · rfl
      · simp only [cellAt]
        by_cases hx : c.1 = x
        · rw [if_pos hx, if_neg (by omega), if_pos hx]
        · rw [if_neg hx, if_neg hx, ih h3]
          by_cases hxc : x < c.1
          · rw [if_pos hxc, if_neg (by omega), if_pos hxc]
          · rw [if_neg hxc, if_neg hxc]
/-- A byte reads as it was written, and the others as before. -/
theorem Memory.byteAt_setByte {m : Memory} (h : m.wf = true) (a x : Nat) (b : Byte) :
    (m.setByte a b).byteAt x = if x = a then b else m.byteAt x := cellAt_setCell h a x b

/-! ## Lists of cells -/

theorem Memory.wf_setBytes {m : Memory} (l : List (Nat × Byte)) (h : m.wf = true) : (m.setBytes l).wf = true := by
  induction l generalizing m with
  | nil => exact h
  | cons c r ih => exact ih (Memory.wf_setByte c.1 c.2 h)

theorem Memory.setBytes_append (m : Memory) (k l : List (Nat × Byte)) : m.setBytes (k ++ l) = (m.setBytes k).setBytes l := by
  induction k generalizing m with
  | nil => rfl
  | cons c r ih => exact ih _

theorem background_append {l r : List Fill} {a : Nat} (h : ∀ g ∈ l, g.has a = false) : background (l ++ r) a = background r a := by
  induction l with
  | nil => rfl
  | cons g q ih =>
    rw [List.cons_append, background, if_neg (by rw [h g List.mem_cons_self]; exact Bool.false_ne_true), ih fun f hf => h f (List.mem_cons_of_mem _ hf)]
theorem Memory.wf_copy {m : Memory} (src dst n : Nat) (h : m.wf = true) : (m.copy src dst n).wf = true := by
  refine Memory.wf_setBytes _ (cellsWf_filter _ h fun c hc => ?_)
  rw [background_append, Memory.background_fill, if_neg (by simpa using hc)]
  intro g hg
  obtain ⟨hg, hs⟩ := List.mem_filter.mp hg
  obtain ⟨f, -, rfl⟩ := List.mem_map.mp hg
  have hs : 0 < (f.moved src dst n).size := of_decide_eq_true hs
  have hc : c.1 < dst ∨ dst + n ≤ c.1 := by simpa [Fill.has] using hc
  refine decide_eq_false ?_
  simp only [Fill.moved] at hs ⊢
  omega

/-- An address that no cell names reads as before. -/
theorem Memory.byteAt_setBytes_of_notMem {m : Memory} (h : m.wf = true) {l : List (Nat × Byte)} {a : Nat} (ha : ∀ c ∈ l, c.1 ≠ a) :
    (m.setBytes l).byteAt a = m.byteAt a := by
  induction l generalizing m with
  | nil => rfl
  | cons c r ih =>
    rw [Memory.setBytes, ih (Memory.wf_setByte _ _ h) fun d hd => ha d (List.mem_cons_of_mem _ hd), Memory.byteAt_setByte h,
      if_neg fun e => ha c List.mem_cons_self e.symm]

/-- The last cell of an address decides how it reads. -/
theorem Memory.byteAt_setBytes_cons {m : Memory} (h : m.wf = true) {l : List (Nat × Byte)} {a : Nat} {b : Byte} (ha : ∀ c ∈ l, c.1 ≠ a) :
    (m.setBytes ((a, b) :: l)).byteAt a = b := by
  rw [Memory.setBytes, Memory.byteAt_setBytes_of_notMem (Memory.wf_setByte _ _ h) ha, Memory.byteAt_setByte h, if_pos rfl]

/-! ## Little-endian numbers (R4) -/

theorem mem_leCells {a n v : Nat} {c : Nat × Byte} (h : c ∈ leCells a n v) : a ≤ c.1 ∧ c.1 < a + n := by
  induction n generalizing a v with
  | zero => simp [leCells] at h
  | succ n ih =>
    simp only [leCells, List.mem_cons] at h
    rcases h with rfl | h
    · exact ⟨Nat.le_refl a, by dsimp only; omega⟩
    · have := ih h; omega

/-- Byte k of a stored number. -/
theorem byteAt_leCells {m : Memory} (h : m.wf = true) {n : Nat} (a v k : Nat) (hk : k < n) :
    (m.setBytes (leCells a n v)).byteAt (a + k) = BitVec.ofNat 8 (v / 256 ^ k) := by
  induction n generalizing m a v k with
  | zero => omega
  | succ n ih =>
    cases k with
    | zero =>
      simp only [leCells, Nat.add_zero, Nat.pow_zero, Nat.div_one]
      exact Memory.byteAt_setBytes_cons h fun c hc => by have := mem_leCells hc; omega
    | succ k =>
      simp only [leCells, Memory.setBytes]
      rw [show a + (k + 1) = a + 1 + k by omega, ih (Memory.wf_setByte _ _ h) (a + 1) (v / 256) k (by omega), Nat.div_div_eq_div_mul,
        Nat.pow_succ, Nat.mul_comm]
theorem byteAt_leCells_out {m : Memory} (h : m.wf = true) {n a v x : Nat} (hx : ¬ (a ≤ x ∧ x < a + n)) :
    (m.setBytes (leCells a n v)).byteAt x = m.byteAt x :=
  Memory.byteAt_setBytes_of_notMem h fun c hc e => hx (e ▸ mem_leCells hc)

/-- Memories that agree on n bytes hold one number there. -/
theorem Memory.readLE_congr {m q : Memory} {a b : Nat} {n : Nat} (h : ∀ k, k < n → m.byteAt (a + k) = q.byteAt (b + k)) :
    m.readLE a n = q.readLE b n := by
  induction n generalizing a b with
  | zero => rfl
  | succ n ih =>
    have h0 : m.byteAt a = q.byteAt b := h 0 (Nat.succ_pos n)
    rw [Memory.readLE, Memory.readLE, h0, ih (b := b + 1) fun k hk => by
      have := h (k + 1) (by omega); rwa [show a + 1 + k = a + (k + 1) by omega, show b + 1 + k = b + (k + 1) by omega]]

/-- What was stored, little-endian, is read. -/
theorem readLE_leCells {m : Memory} (h : m.wf = true) (a n v : Nat) : (m.setBytes (leCells a n v)).readLE a n = v % 256 ^ n := by
  induction n generalizing m a v with
  | zero => simp [Memory.readLE, Nat.mod_one]
  | succ n ih =>
    have h0 := byteAt_leCells h a v 0 (Nat.succ_pos n)
    rw [Nat.add_zero, Nat.pow_zero, Nat.div_one] at h0
    rw [Memory.readLE, h0]
    simp only [leCells, Memory.setBytes]
    rw [ih (Memory.wf_setByte _ _ h) (a + 1) (v / 256), BitVec.toNat_ofNat, Nat.pow_succ 256, Nat.mul_comm (256 ^ n) 256]
    exact (Nat.mod_mul ..).symm

end Sys2Proof.Machine
end

