-- ==== Sys2Proof/Laws/Access.lean ====
section
/-! SUPPORT. What writing at the homes can do (R249, R270, R280, R322, R326): memory and the record of failing words change as
the cells say; beside them only MSEQ, the views' pending blocks, the events of their derivations, the order stamp, what a control block
holds and what the collective engines have seen. -/

namespace Sys2Proof.Machine

/-- The state with other MSEQ counters, partitions, due events, order stamp and collective engines. -/
def State.sides (s : State) (u : State) : State :=
  { s with mseq := u.mseq, parts := u.parts, sched := u.sched, stamp := u.stamp, engines := u.engines }

theorem pendViews_sides (p g : Nat) (l : List (Nat × View)) (s : State) : pendViews p g l s = s.sides (pendViews p g l s) := by
  induction l generalizing s with
  | nil => rfl
  | cons c r ih =>
    obtain ⟨id, v⟩ := c
    simp only [pendViews]
    split
    · exact ih s
    · split
      · exact ih s
      · rw [ih]; rfl

theorem pendParts_sides (g : Nat) (l : List (Nat × Part)) (s : State) : pendParts g l s = s.sides (pendParts g l s) := by
  induction l generalizing s with
  | nil => rfl
  | cons c r ih =>
    obtain ⟨p, q⟩ := c
    simp only [pendParts]
    rw [ih, pendViews_sides]; rfl

theorem touchGranule_sides (s : State) (g : Nat) : s.touchGranule g = s.sides (s.touchGranule g) := by
  rw [State.touchGranule, pendParts_sides]; rfl

theorem touchAll_sides (l : List Nat) (s : State) : touchAll l s = s.sides (touchAll l s) := by
  induction l generalizing s with
  | nil => rfl
  | cons g r ih => rw [touchAll, ih, touchGranule_sides]; rfl

/-- Where nothing fails, every cell is served, none lies in a control block and no engine waits on one, a write is the write of its cells, and MSEQ and views
follow on the MASTER pages (R270, R279). -/
theorem storeCells_sound {s : State} {l : List (Nat × Byte)} (hb : s.bad = []) (hs : ∀ c ∈ l, s.served c.1 = true)
    (hc : ∀ c ∈ l, s.inControl c.1 = false) (hw : ∀ c ∈ l, s.watched c.1 = false) :
    (s.storeCells l).1 = touchAll ((granulesOf l).filter (s.isMaster ·)) { s with mem := s.mem.setBytes l } ∧ (s.storeCells l).2 = false := by
  have h1 : l.filter (fun c => s.served c.1) = l := List.filter_eq_self.mpr hs
  have h2 : l.any (fun c => s.inControl c.1) = false := by simpa using hc
  have h3 : l.any (fun c => s.watched c.1) = false := by simpa using hw
  unfold State.storeCells
  dsimp only
  rw [h1, hb]
  simp [h2, h3, List.filter_eq_self.mpr (fun (_ : Nat × Byte) _ => rfl)]

/-- A write changes memory and the record of failing words, what follows a write to a MASTER page, and what a control block holds. -/
theorem storeCells_frame (s : State) (l : List (Nat × Byte)) :
    (s.storeCells l).1 = { (s.sides (s.storeCells l).1) with mem := (s.storeCells l).1.mem, bad := (s.storeCells l).1.bad } := by
  unfold State.storeCells
  dsimp only
  rw [touchAll_sides]; rfl

/-- A write keeps the canonical form. -/
theorem storeCells_wf {s : State} (h : s.mem.wf = true) (l : List (Nat × Byte)) : (s.storeCells l).1.mem.wf = true := by
  unfold State.storeCells
  dsimp only
  rw [touchAll_sides]
  exact Memory.wf_setBytes _ h

end Sys2Proof.Machine
end

