-- ==== Sys2Proof/Laws/Ops.lean ====
section
/-! SUPPORT. What the shared operations do: register reads and writes, the checks of R33, and how a word ends. -/

namespace Sys2Proof.Machine

/-! ## Registers (R36) -/

theorem Task.xr_zero (t : Task) : t.xr 0 = 0 := rfl
theorem Task.xr_xw_same (t : Task) (n : Reg) (v : W64) : (t.xw n v).xr n = if n = 0 then 0 else v := by
  by_cases h : n = 0
  · subst h; rfl
  · simp only [Task.xw, Task.xr, h, if_false]; exact Vector.getElem_set_self ..
theorem Task.xr_xw_ne (t : Task) (n m : Reg) (v : W64) (h : m ≠ n) : (t.xw n v).xr m = t.xr m := by
  by_cases hn : n = 0
  · simp only [Task.xw, hn, if_true]
  · simp only [Task.xw, Task.xr, hn, if_false]
    split
    · rfl
    · exact Vector.getElem_set_ne _ _ (fun e => h (Fin.ext e.symm))

/-! ## The checks of R33 -/

/-- Once the checks pass, the word's own part runs. -/
theorem gate_pass {i : Instr} {s : State} {k : State → Out} (h : check i s = none) : gate i s k = k s := by
  simp only [gate, h]
/-- The first check that fails decides the trap. -/
theorem gate_trap {i : Instr} {s : State} {k : State → Out} {c : Cause} {v : W64} (h : check i s = some (c, v)) :
    gate i s k = raise c v s := by
  simp only [gate, h]
/-- A word that every core has, no transfer and not the supervisor's own, passes once its registers do. -/
theorem check_free {i : Instr} {s : State} (ho : notOnOpt i = false) (ht : isTransfer i = false) (hs : isSup i = false)
    (hc : s.t.seq.cap = none) (h5 : check5 i s = none) : check i s = none := by
  simp only [check, check3, checkCap, check4, ho, ht, hs, hc, h5, Bool.and_false, Bool.false_and, Option.isSome_none, if_false,
    Bool.false_eq_true]

/-! ## What may hold a word back -/

/-- The instructions that a compute phase refuses go on outside one (R179). -/
theorem noCompute_pass {a : W64} {s : State} {k : State → Out} (h : s.rd.st.ph ≠ .c) : noCompute a s k = k s := by
  simp only [noCompute, h, if_false]
/-- Without a wake the instruction makes its test (R21). -/
theorem onWake_none {s : State} {done : W64 → Out} {k : Out} (h : s.t.wake = none) : onWake s done k = k := by
  simp only [onWake, h]
/-- A woken instruction completes with what the wake brought (R21). -/
theorem onWake_value {s : State} {v : W64} {done : W64 → Out} {k : Out} (h : s.t.wake = some (.value v)) : onWake s done k = done v := by
  simp only [onWake, h]
/-- Without a report a synchronisation goes on (R90, R244). -/
theorem takeHandle_none {s : State} {k : State → Out} (h : s.t.handleReport = none) : takeHandle s k = k s := by
  simp only [takeHandle, h]
theorem takeMatrix_none {s : State} {k : State → Out} (h : s.t.matrixReport = none) : takeMatrix s k = k s := by
  simp only [takeMatrix, h]
/-- A task without words in its sequencer and without loads in flight has drained (R132). -/
theorem drained_quiet {s : State} {k : State → Out} (h : s.quiet) : drained s k = k s := by
  obtain ⟨-, h2, -, hb, -, h4, -⟩ := h
  have q : { s.t.seq with loads := [] } = s.t.seq := by rw [← h4]
  have e : { s with t := s.t.deliverVLoads } = s := by rw [Task.deliverVLoads, h4]; dsimp only [List.foldl_nil]; rw [q]
  simp only [drained, Task.seqEmpty, h2, hb, List.isEmpty_nil, Bool.not_false, Bool.and_self, if_true, e]
/-- A release with no earlier access on its way goes on (R249). -/
theorem released_calm {s : State} {k : State → Out} (h : s.calm) : released s k = k s := by
  obtain ⟨h1, -, -, -, hh, hf, -, -, h3, -, h5, -⟩ := h
  have e : s.t.seq.entries = [] := by simp [Seq.entries, h1, h3]
  have w : s.underWay = false := by simpa [State.underWay, hh] using hf
  simp only [released, releaseAfter, e, w, State.ownHeld, List.any_nil, Bool.or_self, Bool.false_eq_true, if_false, State.flush, h5]

/-! ## How a word ends -/

/-- A word that ends completes. -/
theorem completes_of_fin {i : Instr} {s u : State} (h : exec i s = fin u) : Completes i s u := h
theorem State.xw_eq_putX (s : State) (rd : Reg) (v : W64) : s.xw rd v = s.putX rd v := by
  unfold State.xw State.putX Task.xw; split <;> rfl
/-- A word that ends by writing a scalar register completes with it written. -/
theorem setsX_of_finX {i : Instr} {s u : State} {rd : Reg} {v : W64} (h : exec i s = finX rd v u) : SetsX i s u rd v := by
  rw [SetsX, Completes, h, finX, fin, State.xw_eq_putX]; rfl
/-- A word that parks changes nothing but the task's own record of it. -/
theorem parks_of_parkOn {i : Instr} {s u : State} {p : Park} {on : W64} (h : exec i s = parkOn on p u) : Parks i s u p on := h
/-- A trap with an empty sequencer is taken at once (R77). -/
theorem raise_empty {c : Cause} {v : W64} {s : State} (h : s.t.seq.items = []) (hb : s.t.seq.busy = false) (hc : s.t.seq.cap = none) :
    raise c v s = .next (match s.t.slot with
      | some T => enterTrap c v false s.t.pc T true s
      | none => enterTrap c v false s.t.pc s.t.btgt false s) := by
  have e : { s.t.seq with cap := none } = s.t.seq := by rw [← hc]
  rw [raise, if_neg (by simp [Task.seqEmpty, h, hb]), show { s with t := { s.t with seq := { s.t.seq with cap := none } } } = s by rw [e], hc]
  dsimp only
  split <;> simp only [*]

/-- A word that ends by writing a scalar register writes that register and nothing else. -/
theorem writesX_of_finX {i : Instr} {s : State} {rd : Reg} {v : W64} (h : exec i s = finX rd v s) : WritesX i s rd v := by
  refine ⟨_, h, Task.xr_xw_same .., fun r hr => Task.xr_xw_ne _ _ _ _ (by simpa using hr), fun _ => rfl, ?_⟩
  unfold State.xw Task.xw; split <;> rfl

end Sys2Proof.Machine
end

