-- ==== Sys2Proof/Laws/State.lean ====
section
/-! SUPPORT. What each update of the state leaves in each field, by rfl, so that no proof unfolds a record update; and maps
from numbers. -/

namespace Sys2Proof

/-! ## Maps -/

theorem NMap.find_put_same {α : Type} (m : NMap α) (k : Nat) (a : α) : (m.put k a).find k = some a := by
  induction m with
  | nil => simp [NMap.put, NMap.find]
  | cons c r ih =>
    simp only [NMap.put]
    split
    · simp [NMap.find]
    · split
      · simp [NMap.find]
      · simp only [NMap.find]; rw [if_neg (by omega), ih]
theorem NMap.find_put_ne {α : Type} (m : NMap α) {k j : Nat} (a : α) (h : j ≠ k) : (m.put k a).find j = m.find j := by
  induction m with
  | nil => simp [NMap.put, NMap.find, Ne.symm h]
  | cons c r ih =>
    simp only [NMap.put]
    split
    · simp only [NMap.find, if_neg (Ne.symm h)]
    · split
      · simp only [NMap.find, if_neg (Ne.symm h)]; rw [if_neg (by omega)]
      · simp only [NMap.find, ih]
@[simp] theorem NMap.getD_put_same {α : Type} (m : NMap α) (k : Nat) (a d : α) : (m.put k a).getD k d = a := by
  unfold NMap.getD; rw [NMap.find_put_same]; rfl
theorem NMap.getD_put_ne {α : Type} (m : NMap α) {k j : Nat} (a d : α) (h : j ≠ k) : (m.put k a).getD j d = m.getD j d := by
  unfold NMap.getD; rw [NMap.find_put_ne m a h]

namespace Machine

/-! ## xw -/

@[simp] theorem State.xw_old (s : State) (n : Reg) (v : W64) : (s.xw n v).old = s.old := rfl
@[simp] theorem State.xw_tasks (s : State) (n : Reg) (v : W64) : (s.xw n v).tasks = s.tasks := rfl
@[simp] theorem State.xw_cores (s : State) (n : Reg) (v : W64) : (s.xw n v).cores = s.cores := rfl
@[simp] theorem State.xw_clusters (s : State) (n : Reg) (v : W64) : (s.xw n v).clusters = s.clusters := rfl
@[simp] theorem State.xw_parts (s : State) (n : Reg) (v : W64) : (s.xw n v).parts = s.parts := rfl
@[simp] theorem State.xw_evals (s : State) (n : Reg) (v : W64) : (s.xw n v).evals = s.evals := rfl
@[simp] theorem State.xw_mem (s : State) (n : Reg) (v : W64) : (s.xw n v).mem = s.mem := rfl
@[simp] theorem State.xw_fullBits (s : State) (n : Reg) (v : W64) : (s.xw n v).fullBits = s.fullBits := rfl
@[simp] theorem State.xw_versions (s : State) (n : Reg) (v : W64) : (s.xw n v).versions = s.versions := rfl
@[simp] theorem State.xw_mseq (s : State) (n : Reg) (v : W64) : (s.xw n v).mseq = s.mseq := rfl
@[simp] theorem State.xw_feInit (s : State) (n : Reg) (v : W64) : (s.xw n v).feInit = s.feInit := rfl
@[simp] theorem State.xw_verInit (s : State) (n : Reg) (v : W64) : (s.xw n v).verInit = s.verInit := rfl
@[simp] theorem State.xw_masterInit (s : State) (n : Reg) (v : W64) : (s.xw n v).masterInit = s.masterInit := rfl
@[simp] theorem State.xw_masters (s : State) (n : Reg) (v : W64) : (s.xw n v).masters = s.masters := rfl
@[simp] theorem State.xw_locks (s : State) (n : Reg) (v : W64) : (s.xw n v).locks = s.locks := rfl
@[simp] theorem State.xw_lockQueue (s : State) (n : Reg) (v : W64) : (s.xw n v).lockQueue = s.lockQueue := rfl
@[simp] theorem State.xw_bad (s : State) (n : Reg) (v : W64) : (s.xw n v).bad = s.bad := rfl
@[simp] theorem State.xw_posted (s : State) (n : Reg) (v : W64) : (s.xw n v).posted = s.posted := rfl
@[simp] theorem State.xw_sends (s : State) (n : Reg) (v : W64) : (s.xw n v).sends = s.sends := rfl
@[simp] theorem State.xw_nextTid (s : State) (n : Reg) (v : W64) : (s.xw n v).nextTid = s.nextTid := rfl
@[simp] theorem State.xw_launches (s : State) (n : Reg) (v : W64) : (s.xw n v).launches = s.launches := rfl
@[simp] theorem State.xw_nextLaunch (s : State) (n : Reg) (v : W64) : (s.xw n v).nextLaunch = s.nextLaunch := rfl
@[simp] theorem State.xw_engines (s : State) (n : Reg) (v : W64) : (s.xw n v).engines = s.engines := rfl
@[simp] theorem State.xw_pkg (s : State) (n : Reg) (v : W64) : (s.xw n v).pkg = s.pkg := rfl
@[simp] theorem State.xw_free (s : State) (n : Reg) (v : W64) : (s.xw n v).free = s.free := rfl
@[simp] theorem State.xw_stamp (s : State) (n : Reg) (v : W64) : (s.xw n v).stamp = s.stamp := rfl
@[simp] theorem State.xw_now (s : State) (n : Reg) (v : W64) : (s.xw n v).now = s.now := rfl
@[simp] theorem State.xw_sched (s : State) (n : Reg) (v : W64) : (s.xw n v).sched = s.sched := rfl
@[simp] theorem State.xw_timed (s : State) (n : Reg) (v : W64) : (s.xw n v).timed = s.timed := rfl
@[simp] theorem State.xw_todo (s : State) (n : Reg) (v : W64) : (s.xw n v).todo = s.todo := rfl

/-! ## vw -/

@[simp] theorem State.vw_old (s : State) (n : Reg) (v : VReg) : (s.vw n v).old = s.old := rfl
@[simp] theorem State.vw_tasks (s : State) (n : Reg) (v : VReg) : (s.vw n v).tasks = s.tasks := rfl
@[simp] theorem State.vw_cores (s : State) (n : Reg) (v : VReg) : (s.vw n v).cores = s.cores := rfl
@[simp] theorem State.vw_clusters (s : State) (n : Reg) (v : VReg) : (s.vw n v).clusters = s.clusters := rfl
@[simp] theorem State.vw_parts (s : State) (n : Reg) (v : VReg) : (s.vw n v).parts = s.parts := rfl
@[simp] theorem State.vw_evals (s : State) (n : Reg) (v : VReg) : (s.vw n v).evals = s.evals := rfl
@[simp] theorem State.vw_mem (s : State) (n : Reg) (v : VReg) : (s.vw n v).mem = s.mem := rfl
@[simp] theorem State.vw_fullBits (s : State) (n : Reg) (v : VReg) : (s.vw n v).fullBits = s.fullBits := rfl
@[simp] theorem State.vw_versions (s : State) (n : Reg) (v : VReg) : (s.vw n v).versions = s.versions := rfl
@[simp] theorem State.vw_mseq (s : State) (n : Reg) (v : VReg) : (s.vw n v).mseq = s.mseq := rfl
@[simp] theorem State.vw_feInit (s : State) (n : Reg) (v : VReg) : (s.vw n v).feInit = s.feInit := rfl
@[simp] theorem State.vw_verInit (s : State) (n : Reg) (v : VReg) : (s.vw n v).verInit = s.verInit := rfl
@[simp] theorem State.vw_masterInit (s : State) (n : Reg) (v : VReg) : (s.vw n v).masterInit = s.masterInit := rfl
@[simp] theorem State.vw_masters (s : State) (n : Reg) (v : VReg) : (s.vw n v).masters = s.masters := rfl
@[simp] theorem State.vw_locks (s : State) (n : Reg) (v : VReg) : (s.vw n v).locks = s.locks := rfl
@[simp] theorem State.vw_lockQueue (s : State) (n : Reg) (v : VReg) : (s.vw n v).lockQueue = s.lockQueue := rfl
@[simp] theorem State.vw_bad (s : State) (n : Reg) (v : VReg) : (s.vw n v).bad = s.bad := rfl
@[simp] theorem State.vw_posted (s : State) (n : Reg) (v : VReg) : (s.vw n v).posted = s.posted := rfl
@[simp] theorem State.vw_sends (s : State) (n : Reg) (v : VReg) : (s.vw n v).sends = s.sends := rfl
@[simp] theorem State.vw_nextTid (s : State) (n : Reg) (v : VReg) : (s.vw n v).nextTid = s.nextTid := rfl
@[simp] theorem State.vw_launches (s : State) (n : Reg) (v : VReg) : (s.vw n v).launches = s.launches := rfl
@[simp] theorem State.vw_nextLaunch (s : State) (n : Reg) (v : VReg) : (s.vw n v).nextLaunch = s.nextLaunch := rfl
@[simp] theorem State.vw_engines (s : State) (n : Reg) (v : VReg) : (s.vw n v).engines = s.engines := rfl
@[simp] theorem State.vw_pkg (s : State) (n : Reg) (v : VReg) : (s.vw n v).pkg = s.pkg := rfl
@[simp] theorem State.vw_free (s : State) (n : Reg) (v : VReg) : (s.vw n v).free = s.free := rfl
@[simp] theorem State.vw_stamp (s : State) (n : Reg) (v : VReg) : (s.vw n v).stamp = s.stamp := rfl
@[simp] theorem State.vw_now (s : State) (n : Reg) (v : VReg) : (s.vw n v).now = s.now := rfl
@[simp] theorem State.vw_sched (s : State) (n : Reg) (v : VReg) : (s.vw n v).sched = s.sched := rfl
@[simp] theorem State.vw_timed (s : State) (n : Reg) (v : VReg) : (s.vw n v).timed = s.timed := rfl
@[simp] theorem State.vw_todo (s : State) (n : Reg) (v : VReg) : (s.vw n v).todo = s.todo := rfl

/-! ## pw -/

@[simp] theorem State.pw_old (s : State) (n : Pg) (v : PReg) : (s.pw n v).old = s.old := rfl
@[simp] theorem State.pw_tasks (s : State) (n : Pg) (v : PReg) : (s.pw n v).tasks = s.tasks := rfl
@[simp] theorem State.pw_cores (s : State) (n : Pg) (v : PReg) : (s.pw n v).cores = s.cores := rfl
@[simp] theorem State.pw_clusters (s : State) (n : Pg) (v : PReg) : (s.pw n v).clusters = s.clusters := rfl
@[simp] theorem State.pw_parts (s : State) (n : Pg) (v : PReg) : (s.pw n v).parts = s.parts := rfl
@[simp] theorem State.pw_evals (s : State) (n : Pg) (v : PReg) : (s.pw n v).evals = s.evals := rfl
@[simp] theorem State.pw_mem (s : State) (n : Pg) (v : PReg) : (s.pw n v).mem = s.mem := rfl
@[simp] theorem State.pw_fullBits (s : State) (n : Pg) (v : PReg) : (s.pw n v).fullBits = s.fullBits := rfl
@[simp] theorem State.pw_versions (s : State) (n : Pg) (v : PReg) : (s.pw n v).versions = s.versions := rfl
@[simp] theorem State.pw_mseq (s : State) (n : Pg) (v : PReg) : (s.pw n v).mseq = s.mseq := rfl
@[simp] theorem State.pw_feInit (s : State) (n : Pg) (v : PReg) : (s.pw n v).feInit = s.feInit := rfl
@[simp] theorem State.pw_verInit (s : State) (n : Pg) (v : PReg) : (s.pw n v).verInit = s.verInit := rfl
@[simp] theorem State.pw_masterInit (s : State) (n : Pg) (v : PReg) : (s.pw n v).masterInit = s.masterInit := rfl
@[simp] theorem State.pw_masters (s : State) (n : Pg) (v : PReg) : (s.pw n v).masters = s.masters := rfl
@[simp] theorem State.pw_locks (s : State) (n : Pg) (v : PReg) : (s.pw n v).locks = s.locks := rfl
@[simp] theorem State.pw_lockQueue (s : State) (n : Pg) (v : PReg) : (s.pw n v).lockQueue = s.lockQueue := rfl
@[simp] theorem State.pw_bad (s : State) (n : Pg) (v : PReg) : (s.pw n v).bad = s.bad := rfl
@[simp] theorem State.pw_posted (s : State) (n : Pg) (v : PReg) : (s.pw n v).posted = s.posted := rfl
@[simp] theorem State.pw_sends (s : State) (n : Pg) (v : PReg) : (s.pw n v).sends = s.sends := rfl
@[simp] theorem State.pw_nextTid (s : State) (n : Pg) (v : PReg) : (s.pw n v).nextTid = s.nextTid := rfl
@[simp] theorem State.pw_launches (s : State) (n : Pg) (v : PReg) : (s.pw n v).launches = s.launches := rfl
@[simp] theorem State.pw_nextLaunch (s : State) (n : Pg) (v : PReg) : (s.pw n v).nextLaunch = s.nextLaunch := rfl
@[simp] theorem State.pw_engines (s : State) (n : Pg) (v : PReg) : (s.pw n v).engines = s.engines := rfl
@[simp] theorem State.pw_pkg (s : State) (n : Pg) (v : PReg) : (s.pw n v).pkg = s.pkg := rfl
@[simp] theorem State.pw_free (s : State) (n : Pg) (v : PReg) : (s.pw n v).free = s.free := rfl
@[simp] theorem State.pw_stamp (s : State) (n : Pg) (v : PReg) : (s.pw n v).stamp = s.stamp := rfl
@[simp] theorem State.pw_now (s : State) (n : Pg) (v : PReg) : (s.pw n v).now = s.now := rfl
@[simp] theorem State.pw_sched (s : State) (n : Pg) (v : PReg) : (s.pw n v).sched = s.sched := rfl
@[simp] theorem State.pw_timed (s : State) (n : Pg) (v : PReg) : (s.pw n v).timed = s.timed := rfl
@[simp] theorem State.pw_todo (s : State) (n : Pg) (v : PReg) : (s.pw n v).todo = s.todo := rfl

/-! ## hw -/

@[simp] theorem State.hw_old (s : State) (n : HIdx) (v : HReg) : (s.hw n v).old = s.old := rfl
@[simp] theorem State.hw_tasks (s : State) (n : HIdx) (v : HReg) : (s.hw n v).tasks = s.tasks := rfl
@[simp] theorem State.hw_cores (s : State) (n : HIdx) (v : HReg) : (s.hw n v).cores = s.cores := rfl
@[simp] theorem State.hw_clusters (s : State) (n : HIdx) (v : HReg) : (s.hw n v).clusters = s.clusters := rfl
@[simp] theorem State.hw_parts (s : State) (n : HIdx) (v : HReg) : (s.hw n v).parts = s.parts := rfl
@[simp] theorem State.hw_evals (s : State) (n : HIdx) (v : HReg) : (s.hw n v).evals = s.evals := rfl
@[simp] theorem State.hw_mem (s : State) (n : HIdx) (v : HReg) : (s.hw n v).mem = s.mem := rfl
@[simp] theorem State.hw_fullBits (s : State) (n : HIdx) (v : HReg) : (s.hw n v).fullBits = s.fullBits := rfl
@[simp] theorem State.hw_versions (s : State) (n : HIdx) (v : HReg) : (s.hw n v).versions = s.versions := rfl
@[simp] theorem State.hw_mseq (s : State) (n : HIdx) (v : HReg) : (s.hw n v).mseq = s.mseq := rfl
@[simp] theorem State.hw_feInit (s : State) (n : HIdx) (v : HReg) : (s.hw n v).feInit = s.feInit := rfl
@[simp] theorem State.hw_verInit (s : State) (n : HIdx) (v : HReg) : (s.hw n v).verInit = s.verInit := rfl
@[simp] theorem State.hw_masterInit (s : State) (n : HIdx) (v : HReg) : (s.hw n v).masterInit = s.masterInit := rfl
@[simp] theorem State.hw_masters (s : State) (n : HIdx) (v : HReg) : (s.hw n v).masters = s.masters := rfl
@[simp] theorem State.hw_locks (s : State) (n : HIdx) (v : HReg) : (s.hw n v).locks = s.locks := rfl
@[simp] theorem State.hw_lockQueue (s : State) (n : HIdx) (v : HReg) : (s.hw n v).lockQueue = s.lockQueue := rfl
@[simp] theorem State.hw_bad (s : State) (n : HIdx) (v : HReg) : (s.hw n v).bad = s.bad := rfl
@[simp] theorem State.hw_posted (s : State) (n : HIdx) (v : HReg) : (s.hw n v).posted = s.posted := rfl
@[simp] theorem State.hw_sends (s : State) (n : HIdx) (v : HReg) : (s.hw n v).sends = s.sends := rfl
@[simp] theorem State.hw_nextTid (s : State) (n : HIdx) (v : HReg) : (s.hw n v).nextTid = s.nextTid := rfl
@[simp] theorem State.hw_launches (s : State) (n : HIdx) (v : HReg) : (s.hw n v).launches = s.launches := rfl
@[simp] theorem State.hw_nextLaunch (s : State) (n : HIdx) (v : HReg) : (s.hw n v).nextLaunch = s.nextLaunch := rfl
@[simp] theorem State.hw_engines (s : State) (n : HIdx) (v : HReg) : (s.hw n v).engines = s.engines := rfl
@[simp] theorem State.hw_pkg (s : State) (n : HIdx) (v : HReg) : (s.hw n v).pkg = s.pkg := rfl
@[simp] theorem State.hw_free (s : State) (n : HIdx) (v : HReg) : (s.hw n v).free = s.free := rfl
@[simp] theorem State.hw_stamp (s : State) (n : HIdx) (v : HReg) : (s.hw n v).stamp = s.stamp := rfl
@[simp] theorem State.hw_now (s : State) (n : HIdx) (v : HReg) : (s.hw n v).now = s.now := rfl
@[simp] theorem State.hw_sched (s : State) (n : HIdx) (v : HReg) : (s.hw n v).sched = s.sched := rfl
@[simp] theorem State.hw_timed (s : State) (n : HIdx) (v : HReg) : (s.hw n v).timed = s.timed := rfl
@[simp] theorem State.hw_todo (s : State) (n : HIdx) (v : HReg) : (s.hw n v).todo = s.todo := rfl

/-! ## bw -/

@[simp] theorem State.bw_old (s : State) (n : HIdx) (v : BArr) : (s.bw n v).old = s.old := rfl
@[simp] theorem State.bw_tasks (s : State) (n : HIdx) (v : BArr) : (s.bw n v).tasks = s.tasks := rfl
@[simp] theorem State.bw_cores (s : State) (n : HIdx) (v : BArr) : (s.bw n v).cores = s.cores := rfl
@[simp] theorem State.bw_clusters (s : State) (n : HIdx) (v : BArr) : (s.bw n v).clusters = s.clusters := rfl
@[simp] theorem State.bw_parts (s : State) (n : HIdx) (v : BArr) : (s.bw n v).parts = s.parts := rfl
@[simp] theorem State.bw_evals (s : State) (n : HIdx) (v : BArr) : (s.bw n v).evals = s.evals := rfl
@[simp] theorem State.bw_mem (s : State) (n : HIdx) (v : BArr) : (s.bw n v).mem = s.mem := rfl
@[simp] theorem State.bw_fullBits (s : State) (n : HIdx) (v : BArr) : (s.bw n v).fullBits = s.fullBits := rfl
@[simp] theorem State.bw_versions (s : State) (n : HIdx) (v : BArr) : (s.bw n v).versions = s.versions := rfl
@[simp] theorem State.bw_mseq (s : State) (n : HIdx) (v : BArr) : (s.bw n v).mseq = s.mseq := rfl
@[simp] theorem State.bw_feInit (s : State) (n : HIdx) (v : BArr) : (s.bw n v).feInit = s.feInit := rfl
@[simp] theorem State.bw_verInit (s : State) (n : HIdx) (v : BArr) : (s.bw n v).verInit = s.verInit := rfl
@[simp] theorem State.bw_masterInit (s : State) (n : HIdx) (v : BArr) : (s.bw n v).masterInit = s.masterInit := rfl
@[simp] theorem State.bw_masters (s : State) (n : HIdx) (v : BArr) : (s.bw n v).masters = s.masters := rfl
@[simp] theorem State.bw_locks (s : State) (n : HIdx) (v : BArr) : (s.bw n v).locks = s.locks := rfl
@[simp] theorem State.bw_lockQueue (s : State) (n : HIdx) (v : BArr) : (s.bw n v).lockQueue = s.lockQueue := rfl
@[simp] theorem State.bw_bad (s : State) (n : HIdx) (v : BArr) : (s.bw n v).bad = s.bad := rfl
@[simp] theorem State.bw_posted (s : State) (n : HIdx) (v : BArr) : (s.bw n v).posted = s.posted := rfl
@[simp] theorem State.bw_sends (s : State) (n : HIdx) (v : BArr) : (s.bw n v).sends = s.sends := rfl
@[simp] theorem State.bw_nextTid (s : State) (n : HIdx) (v : BArr) : (s.bw n v).nextTid = s.nextTid := rfl
@[simp] theorem State.bw_launches (s : State) (n : HIdx) (v : BArr) : (s.bw n v).launches = s.launches := rfl
@[simp] theorem State.bw_nextLaunch (s : State) (n : HIdx) (v : BArr) : (s.bw n v).nextLaunch = s.nextLaunch := rfl
@[simp] theorem State.bw_engines (s : State) (n : HIdx) (v : BArr) : (s.bw n v).engines = s.engines := rfl
@[simp] theorem State.bw_pkg (s : State) (n : HIdx) (v : BArr) : (s.bw n v).pkg = s.pkg := rfl
@[simp] theorem State.bw_free (s : State) (n : HIdx) (v : BArr) : (s.bw n v).free = s.free := rfl
@[simp] theorem State.bw_stamp (s : State) (n : HIdx) (v : BArr) : (s.bw n v).stamp = s.stamp := rfl
@[simp] theorem State.bw_now (s : State) (n : HIdx) (v : BArr) : (s.bw n v).now = s.now := rfl
@[simp] theorem State.bw_sched (s : State) (n : HIdx) (v : BArr) : (s.bw n v).sched = s.sched := rfl
@[simp] theorem State.bw_timed (s : State) (n : HIdx) (v : BArr) : (s.bw n v).timed = s.timed := rfl
@[simp] theorem State.bw_todo (s : State) (n : HIdx) (v : BArr) : (s.bw n v).todo = s.todo := rfl

/-! ## setCore -/

@[simp] theorem State.setCore_t (s : State) (c : Nat) (k : Core) : (s.setCore c k).t = s.t := rfl
@[simp] theorem State.setCore_old (s : State) (c : Nat) (k : Core) : (s.setCore c k).old = s.old := rfl
@[simp] theorem State.setCore_tasks (s : State) (c : Nat) (k : Core) : (s.setCore c k).tasks = s.tasks := rfl
@[simp] theorem State.setCore_clusters (s : State) (c : Nat) (k : Core) : (s.setCore c k).clusters = s.clusters := rfl
@[simp] theorem State.setCore_parts (s : State) (c : Nat) (k : Core) : (s.setCore c k).parts = s.parts := rfl
@[simp] theorem State.setCore_evals (s : State) (c : Nat) (k : Core) : (s.setCore c k).evals = s.evals := rfl
@[simp] theorem State.setCore_mem (s : State) (c : Nat) (k : Core) : (s.setCore c k).mem = s.mem := rfl
@[simp] theorem State.setCore_fullBits (s : State) (c : Nat) (k : Core) : (s.setCore c k).fullBits = s.fullBits := rfl
@[simp] theorem State.setCore_versions (s : State) (c : Nat) (k : Core) : (s.setCore c k).versions = s.versions := rfl
@[simp] theorem State.setCore_mseq (s : State) (c : Nat) (k : Core) : (s.setCore c k).mseq = s.mseq := rfl
@[simp] theorem State.setCore_feInit (s : State) (c : Nat) (k : Core) : (s.setCore c k).feInit = s.feInit := rfl
@[simp] theorem State.setCore_verInit (s : State) (c : Nat) (k : Core) : (s.setCore c k).verInit = s.verInit := rfl
@[simp] theorem State.setCore_masterInit (s : State) (c : Nat) (k : Core) : (s.setCore c k).masterInit = s.masterInit := rfl
@[simp] theorem State.setCore_masters (s : State) (c : Nat) (k : Core) : (s.setCore c k).masters = s.masters := rfl
@[simp] theorem State.setCore_locks (s : State) (c : Nat) (k : Core) : (s.setCore c k).locks = s.locks := rfl
@[simp] theorem State.setCore_lockQueue (s : State) (c : Nat) (k : Core) : (s.setCore c k).lockQueue = s.lockQueue := rfl
@[simp] theorem State.setCore_bad (s : State) (c : Nat) (k : Core) : (s.setCore c k).bad = s.bad := rfl
@[simp] theorem State.setCore_posted (s : State) (c : Nat) (k : Core) : (s.setCore c k).posted = s.posted := rfl
@[simp] theorem State.setCore_sends (s : State) (c : Nat) (k : Core) : (s.setCore c k).sends = s.sends := rfl
@[simp] theorem State.setCore_nextTid (s : State) (c : Nat) (k : Core) : (s.setCore c k).nextTid = s.nextTid := rfl
@[simp] theorem State.setCore_launches (s : State) (c : Nat) (k : Core) : (s.setCore c k).launches = s.launches := rfl
@[simp] theorem State.setCore_nextLaunch (s : State) (c : Nat) (k : Core) : (s.setCore c k).nextLaunch = s.nextLaunch := rfl
@[simp] theorem State.setCore_engines (s : State) (c : Nat) (k : Core) : (s.setCore c k).engines = s.engines := rfl
@[simp] theorem State.setCore_pkg (s : State) (c : Nat) (k : Core) : (s.setCore c k).pkg = s.pkg := rfl
@[simp] theorem State.setCore_free (s : State) (c : Nat) (k : Core) : (s.setCore c k).free = s.free := rfl
@[simp] theorem State.setCore_stamp (s : State) (c : Nat) (k : Core) : (s.setCore c k).stamp = s.stamp := rfl
@[simp] theorem State.setCore_now (s : State) (c : Nat) (k : Core) : (s.setCore c k).now = s.now := rfl
@[simp] theorem State.setCore_sched (s : State) (c : Nat) (k : Core) : (s.setCore c k).sched = s.sched := rfl
@[simp] theorem State.setCore_timed (s : State) (c : Nat) (k : Core) : (s.setCore c k).timed = s.timed := rfl
@[simp] theorem State.setCore_todo (s : State) (c : Nat) (k : Core) : (s.setCore c k).todo = s.todo := rfl

/-! ## setCluster -/

@[simp] theorem State.setCluster_t (s : State) (c : Nat) (k : Cluster) : (s.setCluster c k).t = s.t := rfl
@[simp] theorem State.setCluster_old (s : State) (c : Nat) (k : Cluster) : (s.setCluster c k).old = s.old := rfl
@[simp] theorem State.setCluster_tasks (s : State) (c : Nat) (k : Cluster) : (s.setCluster c k).tasks = s.tasks := rfl
@[simp] theorem State.setCluster_cores (s : State) (c : Nat) (k : Cluster) : (s.setCluster c k).cores = s.cores := rfl
@[simp] theorem State.setCluster_parts (s : State) (c : Nat) (k : Cluster) : (s.setCluster c k).parts = s.parts := rfl
@[simp] theorem State.setCluster_evals (s : State) (c : Nat) (k : Cluster) : (s.setCluster c k).evals = s.evals := rfl
@[simp] theorem State.setCluster_mem (s : State) (c : Nat) (k : Cluster) : (s.setCluster c k).mem = s.mem := rfl
@[simp] theorem State.setCluster_fullBits (s : State) (c : Nat) (k : Cluster) : (s.setCluster c k).fullBits = s.fullBits := rfl
@[simp] theorem State.setCluster_versions (s : State) (c : Nat) (k : Cluster) : (s.setCluster c k).versions = s.versions := rfl
@[simp] theorem State.setCluster_mseq (s : State) (c : Nat) (k : Cluster) : (s.setCluster c k).mseq = s.mseq := rfl
@[simp] theorem State.setCluster_feInit (s : State) (c : Nat) (k : Cluster) : (s.setCluster c k).feInit = s.feInit := rfl
@[simp] theorem State.setCluster_verInit (s : State) (c : Nat) (k : Cluster) : (s.setCluster c k).verInit = s.verInit := rfl
@[simp] theorem State.setCluster_masterInit (s : State) (c : Nat) (k : Cluster) : (s.setCluster c k).masterInit = s.masterInit := rfl
@[simp] theorem State.setCluster_masters (s : State) (c : Nat) (k : Cluster) : (s.setCluster c k).masters = s.masters := rfl
@[simp] theorem State.setCluster_locks (s : State) (c : Nat) (k : Cluster) : (s.setCluster c k).locks = s.locks := rfl
@[simp] theorem State.setCluster_lockQueue (s : State) (c : Nat) (k : Cluster) : (s.setCluster c k).lockQueue = s.lockQueue := rfl
@[simp] theorem State.setCluster_bad (s : State) (c : Nat) (k : Cluster) : (s.setCluster c k).bad = s.bad := rfl
@[simp] theorem State.setCluster_posted (s : State) (c : Nat) (k : Cluster) : (s.setCluster c k).posted = s.posted := rfl
@[simp] theorem State.setCluster_sends (s : State) (c : Nat) (k : Cluster) : (s.setCluster c k).sends = s.sends := rfl
@[simp] theorem State.setCluster_nextTid (s : State) (c : Nat) (k : Cluster) : (s.setCluster c k).nextTid = s.nextTid := rfl
@[simp] theorem State.setCluster_launches (s : State) (c : Nat) (k : Cluster) : (s.setCluster c k).launches = s.launches := rfl
@[simp] theorem State.setCluster_nextLaunch (s : State) (c : Nat) (k : Cluster) : (s.setCluster c k).nextLaunch = s.nextLaunch := rfl
@[simp] theorem State.setCluster_engines (s : State) (c : Nat) (k : Cluster) : (s.setCluster c k).engines = s.engines := rfl
@[simp] theorem State.setCluster_pkg (s : State) (c : Nat) (k : Cluster) : (s.setCluster c k).pkg = s.pkg := rfl
@[simp] theorem State.setCluster_free (s : State) (c : Nat) (k : Cluster) : (s.setCluster c k).free = s.free := rfl
@[simp] theorem State.setCluster_stamp (s : State) (c : Nat) (k : Cluster) : (s.setCluster c k).stamp = s.stamp := rfl
@[simp] theorem State.setCluster_now (s : State) (c : Nat) (k : Cluster) : (s.setCluster c k).now = s.now := rfl
@[simp] theorem State.setCluster_sched (s : State) (c : Nat) (k : Cluster) : (s.setCluster c k).sched = s.sched := rfl
@[simp] theorem State.setCluster_timed (s : State) (c : Nat) (k : Cluster) : (s.setCluster c k).timed = s.timed := rfl
@[simp] theorem State.setCluster_todo (s : State) (c : Nat) (k : Cluster) : (s.setCluster c k).todo = s.todo := rfl

/-! ## setPart -/

@[simp] theorem State.setPart_t (s : State) (c : Nat) (k : Part) : (s.setPart c k).t = s.t := rfl
@[simp] theorem State.setPart_old (s : State) (c : Nat) (k : Part) : (s.setPart c k).old = s.old := rfl
@[simp] theorem State.setPart_tasks (s : State) (c : Nat) (k : Part) : (s.setPart c k).tasks = s.tasks := rfl
@[simp] theorem State.setPart_cores (s : State) (c : Nat) (k : Part) : (s.setPart c k).cores = s.cores := rfl
@[simp] theorem State.setPart_clusters (s : State) (c : Nat) (k : Part) : (s.setPart c k).clusters = s.clusters := rfl
@[simp] theorem State.setPart_evals (s : State) (c : Nat) (k : Part) : (s.setPart c k).evals = s.evals := rfl
@[simp] theorem State.setPart_mem (s : State) (c : Nat) (k : Part) : (s.setPart c k).mem = s.mem := rfl
@[simp] theorem State.setPart_fullBits (s : State) (c : Nat) (k : Part) : (s.setPart c k).fullBits = s.fullBits := rfl
@[simp] theorem State.setPart_versions (s : State) (c : Nat) (k : Part) : (s.setPart c k).versions = s.versions := rfl
@[simp] theorem State.setPart_mseq (s : State) (c : Nat) (k : Part) : (s.setPart c k).mseq = s.mseq := rfl
@[simp] theorem State.setPart_feInit (s : State) (c : Nat) (k : Part) : (s.setPart c k).feInit = s.feInit := rfl
@[simp] theorem State.setPart_verInit (s : State) (c : Nat) (k : Part) : (s.setPart c k).verInit = s.verInit := rfl
@[simp] theorem State.setPart_masterInit (s : State) (c : Nat) (k : Part) : (s.setPart c k).masterInit = s.masterInit := rfl
@[simp] theorem State.setPart_masters (s : State) (c : Nat) (k : Part) : (s.setPart c k).masters = s.masters := rfl
@[simp] theorem State.setPart_locks (s : State) (c : Nat) (k : Part) : (s.setPart c k).locks = s.locks := rfl
@[simp] theorem State.setPart_lockQueue (s : State) (c : Nat) (k : Part) : (s.setPart c k).lockQueue = s.lockQueue := rfl
@[simp] theorem State.setPart_bad (s : State) (c : Nat) (k : Part) : (s.setPart c k).bad = s.bad := rfl
@[simp] theorem State.setPart_posted (s : State) (c : Nat) (k : Part) : (s.setPart c k).posted = s.posted := rfl
@[simp] theorem State.setPart_sends (s : State) (c : Nat) (k : Part) : (s.setPart c k).sends = s.sends := rfl
@[simp] theorem State.setPart_nextTid (s : State) (c : Nat) (k : Part) : (s.setPart c k).nextTid = s.nextTid := rfl
@[simp] theorem State.setPart_launches (s : State) (c : Nat) (k : Part) : (s.setPart c k).launches = s.launches := rfl
@[simp] theorem State.setPart_nextLaunch (s : State) (c : Nat) (k : Part) : (s.setPart c k).nextLaunch = s.nextLaunch := rfl
@[simp] theorem State.setPart_engines (s : State) (c : Nat) (k : Part) : (s.setPart c k).engines = s.engines := rfl
@[simp] theorem State.setPart_pkg (s : State) (c : Nat) (k : Part) : (s.setPart c k).pkg = s.pkg := rfl
@[simp] theorem State.setPart_free (s : State) (c : Nat) (k : Part) : (s.setPart c k).free = s.free := rfl
@[simp] theorem State.setPart_stamp (s : State) (c : Nat) (k : Part) : (s.setPart c k).stamp = s.stamp := rfl
@[simp] theorem State.setPart_now (s : State) (c : Nat) (k : Part) : (s.setPart c k).now = s.now := rfl
@[simp] theorem State.setPart_sched (s : State) (c : Nat) (k : Part) : (s.setPart c k).sched = s.sched := rfl
@[simp] theorem State.setPart_timed (s : State) (c : Nat) (k : Part) : (s.setPart c k).timed = s.timed := rfl
@[simp] theorem State.setPart_todo (s : State) (c : Nat) (k : Part) : (s.setPart c k).todo = s.todo := rfl

/-! ## at_ -/

@[simp] theorem State.at__t (s : State) (d : Nat) (e : Event) : (s.at_ d e).t = s.t := rfl
@[simp] theorem State.at__old (s : State) (d : Nat) (e : Event) : (s.at_ d e).old = s.old := rfl
@[simp] theorem State.at__tasks (s : State) (d : Nat) (e : Event) : (s.at_ d e).tasks = s.tasks := rfl
@[simp] theorem State.at__cores (s : State) (d : Nat) (e : Event) : (s.at_ d e).cores = s.cores := rfl
@[simp] theorem State.at__clusters (s : State) (d : Nat) (e : Event) : (s.at_ d e).clusters = s.clusters := rfl
@[simp] theorem State.at__parts (s : State) (d : Nat) (e : Event) : (s.at_ d e).parts = s.parts := rfl
@[simp] theorem State.at__evals (s : State) (d : Nat) (e : Event) : (s.at_ d e).evals = s.evals := rfl
@[simp] theorem State.at__mem (s : State) (d : Nat) (e : Event) : (s.at_ d e).mem = s.mem := rfl
@[simp] theorem State.at__fullBits (s : State) (d : Nat) (e : Event) : (s.at_ d e).fullBits = s.fullBits := rfl
@[simp] theorem State.at__versions (s : State) (d : Nat) (e : Event) : (s.at_ d e).versions = s.versions := rfl
@[simp] theorem State.at__mseq (s : State) (d : Nat) (e : Event) : (s.at_ d e).mseq = s.mseq := rfl
@[simp] theorem State.at__feInit (s : State) (d : Nat) (e : Event) : (s.at_ d e).feInit = s.feInit := rfl
@[simp] theorem State.at__verInit (s : State) (d : Nat) (e : Event) : (s.at_ d e).verInit = s.verInit := rfl
@[simp] theorem State.at__masterInit (s : State) (d : Nat) (e : Event) : (s.at_ d e).masterInit = s.masterInit := rfl
@[simp] theorem State.at__masters (s : State) (d : Nat) (e : Event) : (s.at_ d e).masters = s.masters := rfl
@[simp] theorem State.at__locks (s : State) (d : Nat) (e : Event) : (s.at_ d e).locks = s.locks := rfl
@[simp] theorem State.at__lockQueue (s : State) (d : Nat) (e : Event) : (s.at_ d e).lockQueue = s.lockQueue := rfl
@[simp] theorem State.at__bad (s : State) (d : Nat) (e : Event) : (s.at_ d e).bad = s.bad := rfl
@[simp] theorem State.at__posted (s : State) (d : Nat) (e : Event) : (s.at_ d e).posted = s.posted := rfl
@[simp] theorem State.at__sends (s : State) (d : Nat) (e : Event) : (s.at_ d e).sends = s.sends := rfl
@[simp] theorem State.at__nextTid (s : State) (d : Nat) (e : Event) : (s.at_ d e).nextTid = s.nextTid := rfl
@[simp] theorem State.at__launches (s : State) (d : Nat) (e : Event) : (s.at_ d e).launches = s.launches := rfl
@[simp] theorem State.at__nextLaunch (s : State) (d : Nat) (e : Event) : (s.at_ d e).nextLaunch = s.nextLaunch := rfl
@[simp] theorem State.at__engines (s : State) (d : Nat) (e : Event) : (s.at_ d e).engines = s.engines := rfl
@[simp] theorem State.at__pkg (s : State) (d : Nat) (e : Event) : (s.at_ d e).pkg = s.pkg := rfl
@[simp] theorem State.at__free (s : State) (d : Nat) (e : Event) : (s.at_ d e).free = s.free := rfl
@[simp] theorem State.at__stamp (s : State) (d : Nat) (e : Event) : (s.at_ d e).stamp = s.stamp := rfl
@[simp] theorem State.at__now (s : State) (d : Nat) (e : Event) : (s.at_ d e).now = s.now := rfl
@[simp] theorem State.at__timed (s : State) (d : Nat) (e : Event) : (s.at_ d e).timed = s.timed := rfl
@[simp] theorem State.at__todo (s : State) (d : Nat) (e : Event) : (s.at_ d e).todo = s.todo := rfl

/-! ## bump -/

@[simp] theorem State.bump_t (s : State) : (s.bump).t = s.t := rfl
@[simp] theorem State.bump_old (s : State) : (s.bump).old = s.old := rfl
@[simp] theorem State.bump_tasks (s : State) : (s.bump).tasks = s.tasks := rfl
@[simp] theorem State.bump_cores (s : State) : (s.bump).cores = s.cores := rfl
@[simp] theorem State.bump_clusters (s : State) : (s.bump).clusters = s.clusters := rfl
@[simp] theorem State.bump_parts (s : State) : (s.bump).parts = s.parts := rfl
@[simp] theorem State.bump_evals (s : State) : (s.bump).evals = s.evals := rfl
@[simp] theorem State.bump_mem (s : State) : (s.bump).mem = s.mem := rfl
@[simp] theorem State.bump_fullBits (s : State) : (s.bump).fullBits = s.fullBits := rfl
@[simp] theorem State.bump_versions (s : State) : (s.bump).versions = s.versions := rfl
@[simp] theorem State.bump_mseq (s : State) : (s.bump).mseq = s.mseq := rfl
@[simp] theorem State.bump_feInit (s : State) : (s.bump).feInit = s.feInit := rfl
@[simp] theorem State.bump_verInit (s : State) : (s.bump).verInit = s.verInit := rfl
@[simp] theorem State.bump_masterInit (s : State) : (s.bump).masterInit = s.masterInit := rfl
@[simp] theorem State.bump_masters (s : State) : (s.bump).masters = s.masters := rfl
@[simp] theorem State.bump_locks (s : State) : (s.bump).locks = s.locks := rfl
@[simp] theorem State.bump_lockQueue (s : State) : (s.bump).lockQueue = s.lockQueue := rfl
@[simp] theorem State.bump_bad (s : State) : (s.bump).bad = s.bad := rfl
@[simp] theorem State.bump_posted (s : State) : (s.bump).posted = s.posted := rfl
@[simp] theorem State.bump_sends (s : State) : (s.bump).sends = s.sends := rfl
@[simp] theorem State.bump_nextTid (s : State) : (s.bump).nextTid = s.nextTid := rfl
@[simp] theorem State.bump_launches (s : State) : (s.bump).launches = s.launches := rfl
@[simp] theorem State.bump_nextLaunch (s : State) : (s.bump).nextLaunch = s.nextLaunch := rfl
@[simp] theorem State.bump_engines (s : State) : (s.bump).engines = s.engines := rfl
@[simp] theorem State.bump_pkg (s : State) : (s.bump).pkg = s.pkg := rfl
@[simp] theorem State.bump_free (s : State) : (s.bump).free = s.free := rfl
@[simp] theorem State.bump_now (s : State) : (s.bump).now = s.now := rfl
@[simp] theorem State.bump_sched (s : State) : (s.bump).sched = s.sched := rfl
@[simp] theorem State.bump_timed (s : State) : (s.bump).timed = s.timed := rfl
@[simp] theorem State.bump_todo (s : State) : (s.bump).todo = s.todo := rfl

/-! ## setDie -/

@[simp] theorem State.setDie_t (s : State) (c : Nat) (k : Die) : (s.setDie c k).t = s.t := rfl
@[simp] theorem State.setDie_old (s : State) (c : Nat) (k : Die) : (s.setDie c k).old = s.old := rfl
@[simp] theorem State.setDie_tasks (s : State) (c : Nat) (k : Die) : (s.setDie c k).tasks = s.tasks := rfl
@[simp] theorem State.setDie_cores (s : State) (c : Nat) (k : Die) : (s.setDie c k).cores = s.cores := rfl
@[simp] theorem State.setDie_clusters (s : State) (c : Nat) (k : Die) : (s.setDie c k).clusters = s.clusters := rfl
@[simp] theorem State.setDie_parts (s : State) (c : Nat) (k : Die) : (s.setDie c k).parts = s.parts := rfl
@[simp] theorem State.setDie_evals (s : State) (c : Nat) (k : Die) : (s.setDie c k).evals = s.evals := rfl
@[simp] theorem State.setDie_mem (s : State) (c : Nat) (k : Die) : (s.setDie c k).mem = s.mem := rfl
@[simp] theorem State.setDie_fullBits (s : State) (c : Nat) (k : Die) : (s.setDie c k).fullBits = s.fullBits := rfl
@[simp] theorem State.setDie_versions (s : State) (c : Nat) (k : Die) : (s.setDie c k).versions = s.versions := rfl
@[simp] theorem State.setDie_mseq (s : State) (c : Nat) (k : Die) : (s.setDie c k).mseq = s.mseq := rfl
@[simp] theorem State.setDie_feInit (s : State) (c : Nat) (k : Die) : (s.setDie c k).feInit = s.feInit := rfl
@[simp] theorem State.setDie_verInit (s : State) (c : Nat) (k : Die) : (s.setDie c k).verInit = s.verInit := rfl
@[simp] theorem State.setDie_masterInit (s : State) (c : Nat) (k : Die) : (s.setDie c k).masterInit = s.masterInit := rfl
@[simp] theorem State.setDie_masters (s : State) (c : Nat) (k : Die) : (s.setDie c k).masters = s.masters := rfl
@[simp] theorem State.setDie_locks (s : State) (c : Nat) (k : Die) : (s.setDie c k).locks = s.locks := rfl
@[simp] theorem State.setDie_lockQueue (s : State) (c : Nat) (k : Die) : (s.setDie c k).lockQueue = s.lockQueue := rfl
@[simp] theorem State.setDie_bad (s : State) (c : Nat) (k : Die) : (s.setDie c k).bad = s.bad := rfl
@[simp] theorem State.setDie_posted (s : State) (c : Nat) (k : Die) : (s.setDie c k).posted = s.posted := rfl
@[simp] theorem State.setDie_sends (s : State) (c : Nat) (k : Die) : (s.setDie c k).sends = s.sends := rfl
@[simp] theorem State.setDie_nextTid (s : State) (c : Nat) (k : Die) : (s.setDie c k).nextTid = s.nextTid := rfl
@[simp] theorem State.setDie_launches (s : State) (c : Nat) (k : Die) : (s.setDie c k).launches = s.launches := rfl
@[simp] theorem State.setDie_nextLaunch (s : State) (c : Nat) (k : Die) : (s.setDie c k).nextLaunch = s.nextLaunch := rfl
@[simp] theorem State.setDie_engines (s : State) (c : Nat) (k : Die) : (s.setDie c k).engines = s.engines := rfl
@[simp] theorem State.setDie_free (s : State) (c : Nat) (k : Die) : (s.setDie c k).free = s.free := rfl
@[simp] theorem State.setDie_stamp (s : State) (c : Nat) (k : Die) : (s.setDie c k).stamp = s.stamp := rfl
@[simp] theorem State.setDie_now (s : State) (c : Nat) (k : Die) : (s.setDie c k).now = s.now := rfl
@[simp] theorem State.setDie_sched (s : State) (c : Nat) (k : Die) : (s.setDie c k).sched = s.sched := rfl
@[simp] theorem State.setDie_timed (s : State) (c : Nat) (k : Die) : (s.setDie c k).timed = s.timed := rfl
@[simp] theorem State.setDie_todo (s : State) (c : Nat) (k : Die) : (s.setDie c k).todo = s.todo := rfl

/-! ## setUnit -/

@[simp] theorem State.setUnit_t (s : State) (c i : Nat) (k : TestUnit) : (s.setUnit c i k).t = s.t := rfl
@[simp] theorem State.setUnit_old (s : State) (c i : Nat) (k : TestUnit) : (s.setUnit c i k).old = s.old := rfl
@[simp] theorem State.setUnit_tasks (s : State) (c i : Nat) (k : TestUnit) : (s.setUnit c i k).tasks = s.tasks := rfl
@[simp] theorem State.setUnit_cores (s : State) (c i : Nat) (k : TestUnit) : (s.setUnit c i k).cores = s.cores := rfl
@[simp] theorem State.setUnit_clusters (s : State) (c i : Nat) (k : TestUnit) : (s.setUnit c i k).clusters = s.clusters := rfl
@[simp] theorem State.setUnit_parts (s : State) (c i : Nat) (k : TestUnit) : (s.setUnit c i k).parts = s.parts := rfl
@[simp] theorem State.setUnit_evals (s : State) (c i : Nat) (k : TestUnit) : (s.setUnit c i k).evals = s.evals := rfl
@[simp] theorem State.setUnit_mem (s : State) (c i : Nat) (k : TestUnit) : (s.setUnit c i k).mem = s.mem := rfl
@[simp] theorem State.setUnit_fullBits (s : State) (c i : Nat) (k : TestUnit) : (s.setUnit c i k).fullBits = s.fullBits := rfl
@[simp] theorem State.setUnit_versions (s : State) (c i : Nat) (k : TestUnit) : (s.setUnit c i k).versions = s.versions := rfl
@[simp] theorem State.setUnit_mseq (s : State) (c i : Nat) (k : TestUnit) : (s.setUnit c i k).mseq = s.mseq := rfl
@[simp] theorem State.setUnit_feInit (s : State) (c i : Nat) (k : TestUnit) : (s.setUnit c i k).feInit = s.feInit := rfl
@[simp] theorem State.setUnit_verInit (s : State) (c i : Nat) (k : TestUnit) : (s.setUnit c i k).verInit = s.verInit := rfl
@[simp] theorem State.setUnit_masterInit (s : State) (c i : Nat) (k : TestUnit) : (s.setUnit c i k).masterInit = s.masterInit := rfl
@[simp] theorem State.setUnit_masters (s : State) (c i : Nat) (k : TestUnit) : (s.setUnit c i k).masters = s.masters := rfl
@[simp] theorem State.setUnit_locks (s : State) (c i : Nat) (k : TestUnit) : (s.setUnit c i k).locks = s.locks := rfl
@[simp] theorem State.setUnit_lockQueue (s : State) (c i : Nat) (k : TestUnit) : (s.setUnit c i k).lockQueue = s.lockQueue := rfl
@[simp] theorem State.setUnit_bad (s : State) (c i : Nat) (k : TestUnit) : (s.setUnit c i k).bad = s.bad := rfl
@[simp] theorem State.setUnit_posted (s : State) (c i : Nat) (k : TestUnit) : (s.setUnit c i k).posted = s.posted := rfl
@[simp] theorem State.setUnit_sends (s : State) (c i : Nat) (k : TestUnit) : (s.setUnit c i k).sends = s.sends := rfl
@[simp] theorem State.setUnit_nextTid (s : State) (c i : Nat) (k : TestUnit) : (s.setUnit c i k).nextTid = s.nextTid := rfl
@[simp] theorem State.setUnit_launches (s : State) (c i : Nat) (k : TestUnit) : (s.setUnit c i k).launches = s.launches := rfl
@[simp] theorem State.setUnit_nextLaunch (s : State) (c i : Nat) (k : TestUnit) : (s.setUnit c i k).nextLaunch = s.nextLaunch := rfl
@[simp] theorem State.setUnit_engines (s : State) (c i : Nat) (k : TestUnit) : (s.setUnit c i k).engines = s.engines := rfl
@[simp] theorem State.setUnit_free (s : State) (c i : Nat) (k : TestUnit) : (s.setUnit c i k).free = s.free := rfl
@[simp] theorem State.setUnit_stamp (s : State) (c i : Nat) (k : TestUnit) : (s.setUnit c i k).stamp = s.stamp := rfl
@[simp] theorem State.setUnit_now (s : State) (c i : Nat) (k : TestUnit) : (s.setUnit c i k).now = s.now := rfl
@[simp] theorem State.setUnit_sched (s : State) (c i : Nat) (k : TestUnit) : (s.setUnit c i k).sched = s.sched := rfl
@[simp] theorem State.setUnit_timed (s : State) (c i : Nat) (k : TestUnit) : (s.setUnit c i k).timed = s.timed := rfl
@[simp] theorem State.setUnit_todo (s : State) (c i : Nat) (k : TestUnit) : (s.setUnit c i k).todo = s.todo := rfl

/-! ## What the updates write -/

@[simp] theorem State.xw_t (s : State) (n : Reg) (v : W64) : (s.xw n v).t = s.t.xw n v := rfl
@[simp] theorem State.vw_t (s : State) (n : Reg) (v : VReg) : (s.vw n v).t = s.t.vw n v := rfl
@[simp] theorem State.pw_t (s : State) (n : Pg) (v : PReg) : (s.pw n v).t = s.t.pw n v := rfl
@[simp] theorem State.hw_t (s : State) (n : HIdx) (v : HReg) : (s.hw n v).t = s.t.hw n v := rfl
@[simp] theorem State.bw_t (s : State) (n : HIdx) (v : BArr) : (s.bw n v).t = s.t.bw n v := rfl
@[simp] theorem State.at_sched (s : State) (d : Nat) (e : Event) : (s.at_ d e).sched = insertDue (s.now + d) e s.sched := rfl
@[simp] theorem State.bump_stamp (s : State) : s.bump.stamp = s.stamp + 1 := rfl
@[simp] theorem State.core_setCore (s : State) (c : Nat) (k : Core) : (s.setCore c k).core c = k := NMap.getD_put_same ..
theorem State.core_setCore_ne (s : State) {c d : Nat} (k : Core) (h : d ≠ c) : (s.setCore c k).core d = s.core d := NMap.getD_put_ne _ _ _ h
@[simp] theorem State.cluster_setCluster (s : State) (c : Nat) (k : Cluster) : (s.setCluster c k).cluster c = k := NMap.getD_put_same ..
theorem State.cluster_setCluster_ne (s : State) {c d : Nat} (k : Cluster) (h : d ≠ c) : (s.setCluster c k).cluster d = s.cluster d := NMap.getD_put_ne _ _ _ h
@[simp] theorem State.part_setPart (s : State) (c : Nat) (k : Part) : (s.setPart c k).part c = k := NMap.getD_put_same ..
theorem State.part_setPart_ne (s : State) {c d : Nat} (k : Part) (h : d ≠ c) : (s.setPart c k).part d = s.part d := NMap.getD_put_ne _ _ _ h
@[simp] theorem State.die_setDie (s : State) (c : Nat) (k : Die) : (s.setDie c k).die c = k := NMap.getD_put_same ..
theorem State.die_setDie_ne (s : State) {c d : Nat} (k : Die) (h : d ≠ c) : (s.setDie c k).die d = s.die d := NMap.getD_put_ne _ _ _ h
@[simp] theorem State.unit_setUnit (s : State) (c i : Nat) (k : TestUnit) : (s.setUnit c i k).unit c i = k := NMap.getD_put_same ..
/-- An event that is scheduled is among those due. -/
theorem mem_insertDue (d : Nat) (e : Event) (l : List (Nat × Event)) : (d, e) ∈ insertDue d e l := by
  induction l with
  | nil => simp [insertDue]
  | cons c r ih => simp only [insertDue]; split <;> simp [ih]

/-! ## The task's own updates -/

@[simp] theorem Task.xw_tid (t : Task) (n : Reg) (v : W64) : (t.xw n v).tid = t.tid := by unfold Task.xw; split <;> rfl
@[simp] theorem Task.xw_part (t : Task) (n : Reg) (v : W64) : (t.xw n v).part = t.part := by unfold Task.xw; split <;> rfl
@[simp] theorem Task.xw_core (t : Task) (n : Reg) (v : W64) : (t.xw n v).core = t.core := by unfold Task.xw; split <;> rfl
@[simp] theorem Task.xw_launch (t : Task) (n : Reg) (v : W64) : (t.xw n v).launch = t.launch := by unfold Task.xw; split <;> rfl
@[simp] theorem Task.xw_prio (t : Task) (n : Reg) (v : W64) : (t.xw n v).prio = t.prio := by unfold Task.xw; split <;> rfl
@[simp] theorem Task.xw_run (t : Task) (n : Reg) (v : W64) : (t.xw n v).run = t.run := by unfold Task.xw; split <;> rfl
@[simp] theorem Task.xw_hatbox (t : Task) (n : Reg) (v : W64) : (t.xw n v).hatbox = t.hatbox := by unfold Task.xw; split <;> rfl
@[simp] theorem Task.xw_wake (t : Task) (n : Reg) (v : W64) : (t.xw n v).wake = t.wake := by unfold Task.xw; split <;> rfl
@[simp] theorem Task.xw_since (t : Task) (n : Reg) (v : W64) : (t.xw n v).since = t.since := by unfold Task.xw; split <;> rfl
@[simp] theorem Task.xw_pc (t : Task) (n : Reg) (v : W64) : (t.xw n v).pc = t.pc := by unfold Task.xw; split <;> rfl
@[simp] theorem Task.xw_xfer (t : Task) (n : Reg) (v : W64) : (t.xw n v).xfer = t.xfer := by unfold Task.xw; split <;> rfl
@[simp] theorem Task.xw_slot (t : Task) (n : Reg) (v : W64) : (t.xw n v).slot = t.slot := by unfold Task.xw; split <;> rfl
@[simp] theorem Task.xw_len (t : Task) (n : Reg) (v : W64) : (t.xw n v).len = t.len := by unfold Task.xw; split <;> rfl
@[simp] theorem Task.xw_word (t : Task) (n : Reg) (v : W64) : (t.xw n v).word = t.word := by unfold Task.xw; split <;> rfl
@[simp] theorem Task.xw_inA (t : Task) (n : Reg) (v : W64) : (t.xw n v).inA = t.inA := by unfold Task.xw; split <;> rfl
@[simp] theorem Task.xw_last (t : Task) (n : Reg) (v : W64) : (t.xw n v).last = t.last := by unfold Task.xw; split <;> rfl
@[simp] theorem Task.xw_trapWait (t : Task) (n : Reg) (v : W64) : (t.xw n v).trapWait = t.trapWait := by unfold Task.xw; split <;> rfl
@[simp] theorem Task.xw_v (t : Task) (n : Reg) (v : W64) : (t.xw n v).v = t.v := by unfold Task.xw; split <;> rfl
@[simp] theorem Task.xw_p (t : Task) (n : Reg) (v : W64) : (t.xw n v).p = t.p := by unfold Task.xw; split <;> rfl
@[simp] theorem Task.xw_h (t : Task) (n : Reg) (v : W64) : (t.xw n v).h = t.h := by unfold Task.xw; split <;> rfl
@[simp] theorem Task.xw_b (t : Task) (n : Reg) (v : W64) : (t.xw n v).b = t.b := by unfold Task.xw; split <;> rfl
@[simp] theorem Task.xw_hvDecl (t : Task) (n : Reg) (v : W64) : (t.xw n v).hvDecl = t.hvDecl := by unfold Task.xw; split <;> rfl
@[simp] theorem Task.xw_hvMade (t : Task) (n : Reg) (v : W64) : (t.xw n v).hvMade = t.hvMade := by unfold Task.xw; split <;> rfl
@[simp] theorem Task.xw_st (t : Task) (n : Reg) (v : W64) : (t.xw n v).st = t.st := by unfold Task.xw; split <;> rfl
@[simp] theorem Task.xw_cause (t : Task) (n : Reg) (v : W64) : (t.xw n v).cause = t.cause := by unfold Task.xw; split <;> rfl
@[simp] theorem Task.xw_epc (t : Task) (n : Reg) (v : W64) : (t.xw n v).epc = t.epc := by unfold Task.xw; split <;> rfl
@[simp] theorem Task.xw_tval (t : Task) (n : Reg) (v : W64) : (t.xw n v).tval = t.tval := by unfold Task.xw; split <;> rfl
@[simp] theorem Task.xw_btgt (t : Task) (n : Reg) (v : W64) : (t.xw n v).btgt = t.btgt := by unfold Task.xw; split <;> rfl
@[simp] theorem Task.xw_iter (t : Task) (n : Reg) (v : W64) : (t.xw n v).iter = t.iter := by unfold Task.xw; split <;> rfl
@[simp] theorem Task.xw_tilex (t : Task) (n : Reg) (v : W64) : (t.xw n v).tilex = t.tilex := by unfold Task.xw; split <;> rfl
@[simp] theorem Task.xw_tiley (t : Task) (n : Reg) (v : W64) : (t.xw n v).tiley = t.tiley := by unfold Task.xw; split <;> rfl
@[simp] theorem Task.xw_tilez (t : Task) (n : Reg) (v : W64) : (t.xw n v).tilez = t.tilez := by unfold Task.xw; split <;> rfl
@[simp] theorem Task.xw_allotn (t : Task) (n : Reg) (v : W64) : (t.xw n v).allotn = t.allotn := by unfold Task.xw; split <;> rfl
@[simp] theorem Task.xw_livem (t : Task) (n : Reg) (v : W64) : (t.xw n v).livem = t.livem := by unfold Task.xw; split <;> rfl
@[simp] theorem Task.xw_ntmo (t : Task) (n : Reg) (v : W64) : (t.xw n v).ntmo = t.ntmo := by unfold Task.xw; split <;> rfl
@[simp] theorem Task.xw_uivec (t : Task) (n : Reg) (v : W64) : (t.xw n v).uivec = t.uivec := by unfold Task.xw; split <;> rfl
@[simp] theorem Task.xw_uiepc (t : Task) (n : Reg) (v : W64) : (t.xw n v).uiepc = t.uiepc := by unfold Task.xw; split <;> rfl
@[simp] theorem Task.xw_hvtie (t : Task) (n : Reg) (v : W64) : (t.xw n v).hvtie = t.hvtie := by unfold Task.xw; split <;> rfl
@[simp] theorem Task.xw_hvcw (t : Task) (n : Reg) (v : W64) : (t.xw n v).hvcw = t.hvcw := by unfold Task.xw; split <;> rfl
@[simp] theorem Task.xw_seqaddr (t : Task) (n : Reg) (v : W64) : (t.xw n v).seqaddr = t.seqaddr := by unfold Task.xw; split <;> rfl
@[simp] theorem Task.xw_trapSave (t : Task) (n : Reg) (v : W64) : (t.xw n v).trapSave = t.trapSave := by unfold Task.xw; split <;> rfl
@[simp] theorem Task.xw_uiShadow (t : Task) (n : Reg) (v : W64) : (t.xw n v).uiShadow = t.uiShadow := by unfold Task.xw; split <;> rfl
@[simp] theorem Task.xw_uiMask (t : Task) (n : Reg) (v : W64) : (t.xw n v).uiMask = t.uiMask := by unfold Task.xw; split <;> rfl
@[simp] theorem Task.xw_seq (t : Task) (n : Reg) (v : W64) : (t.xw n v).seq = t.seq := by unfold Task.xw; split <;> rfl
@[simp] theorem Task.xw_replay (t : Task) (n : Reg) (v : W64) : (t.xw n v).replay = t.replay := by unfold Task.xw; split <;> rfl
@[simp] theorem Task.xw_streams (t : Task) (n : Reg) (v : W64) : (t.xw n v).streams = t.streams := by unfold Task.xw; split <;> rfl
@[simp] theorem Task.xw_loads (t : Task) (n : Reg) (v : W64) : (t.xw n v).loads = t.loads := by unfold Task.xw; split <;> rfl
@[simp] theorem Task.xw_answers (t : Task) (n : Reg) (v : W64) : (t.xw n v).answers = t.answers := by unfold Task.xw; split <;> rfl
@[simp] theorem Task.xw_nfRec (t : Task) (n : Reg) (v : W64) : (t.xw n v).nfRec = t.nfRec := by unfold Task.xw; split <;> rfl
@[simp] theorem Task.xw_failCount (t : Task) (n : Reg) (v : W64) : (t.xw n v).failCount = t.failCount := by unfold Task.xw; split <;> rfl
@[simp] theorem Task.xw_failRefused (t : Task) (n : Reg) (v : W64) : (t.xw n v).failRefused = t.failRefused := by unfold Task.xw; split <;> rfl
@[simp] theorem Task.xw_failDead (t : Task) (n : Reg) (v : W64) : (t.xw n v).failDead = t.failDead := by unfold Task.xw; split <;> rfl
@[simp] theorem Task.xw_handleReport (t : Task) (n : Reg) (v : W64) : (t.xw n v).handleReport = t.handleReport := by unfold Task.xw; split <;> rfl
@[simp] theorem Task.xw_reportAt (t : Task) (n : Reg) (v : W64) : (t.xw n v).reportAt = t.reportAt := by unfold Task.xw; split <;> rfl
@[simp] theorem Task.xw_handleOps (t : Task) (n : Reg) (v : W64) : (t.xw n v).handleOps = t.handleOps := by unfold Task.xw; split <;> rfl
@[simp] theorem Task.xw_matrixReport (t : Task) (n : Reg) (v : W64) : (t.xw n v).matrixReport = t.matrixReport := by unfold Task.xw; split <;> rfl
@[simp] theorem Task.xw_demand (t : Task) (n : Reg) (v : W64) : (t.xw n v).demand = t.demand := by unfold Task.xw; split <;> rfl
@[simp] theorem Task.xw_waitLink (t : Task) (n : Reg) (v : W64) : (t.xw n v).waitLink = t.waitLink := by unfold Task.xw; split <;> rfl
@[simp] theorem Task.xw_waitOn (t : Task) (n : Reg) (v : W64) : (t.xw n v).waitOn = t.waitOn := by unfold Task.xw; split <;> rfl
@[simp] theorem Task.xw_hold (t : Task) (n : Reg) (v : W64) : (t.xw n v).hold = t.hold := by unfold Task.xw; split <;> rfl
@[simp] theorem Task.xw_reloadErr (t : Task) (n : Reg) (v : W64) : (t.xw n v).reloadErr = t.reloadErr := by unfold Task.xw; split <;> rfl
@[simp] theorem Task.xw_evalOf (t : Task) (n : Reg) (v : W64) : (t.xw n v).evalOf = t.evalOf := by unfold Task.xw; split <;> rfl
@[simp] theorem Task.xw_lock (t : Task) (n : Reg) (v : W64) : (t.xw n v).lock = t.lock := by unfold Task.xw; split <;> rfl
@[simp] theorem Task.xw_xphase (t : Task) (n : Reg) (v : W64) : (t.xw n v).xphase = t.xphase := by unfold Task.xw; split <;> rfl
@[simp] theorem Task.xw_xhold (t : Task) (n : Reg) (v : W64) : (t.xw n v).xhold = t.xhold := by unfold Task.xw; split <;> rfl
@[simp] theorem Task.xw_xsend (t : Task) (n : Reg) (v : W64) : (t.xw n v).xsend = t.xsend := by unfold Task.xw; split <;> rfl
@[simp] theorem Task.xw_rowWrites (t : Task) (n : Reg) (v : W64) : (t.xw n v).rowWrites = t.rowWrites := by unfold Task.xw; split <;> rfl
@[simp] theorem Task.xw_rowWait (t : Task) (n : Reg) (v : W64) : (t.xw n v).rowWait = t.rowWait := by unfold Task.xw; split <;> rfl
@[simp] theorem Task.xw_lockWait (t : Task) (n : Reg) (v : W64) : (t.xw n v).lockWait = t.lockWait := by unfold Task.xw; split <;> rfl
@[simp] theorem Task.xw_searching (t : Task) (n : Reg) (v : W64) : (t.xw n v).searching = t.searching := by unfold Task.xw; split <;> rfl
@[simp] theorem Task.xw_near (t : Task) (n : Reg) (v : W64) : (t.xw n v).near = t.near := by unfold Task.xw; split <;> rfl
@[simp] theorem Task.xw_follow (t : Task) (n : Reg) (v : W64) : (t.xw n v).follow = t.follow := by unfold Task.xw; split <;> rfl
@[simp] theorem Task.xw_doneA (t : Task) (n : Reg) (v : W64) : (t.xw n v).doneA = t.doneA := by unfold Task.xw; split <;> rfl
@[simp] theorem Task.xw_treeRound (t : Task) (n : Reg) (v : W64) : (t.xw n v).treeRound = t.treeRound := by unfold Task.xw; split <;> rfl

@[simp] theorem Task.pw_tid (t : Task) (n : Pg) (v : PReg) : (t.pw n v).tid = t.tid := by unfold Task.pw; split <;> rfl
@[simp] theorem Task.pw_part (t : Task) (n : Pg) (v : PReg) : (t.pw n v).part = t.part := by unfold Task.pw; split <;> rfl
@[simp] theorem Task.pw_core (t : Task) (n : Pg) (v : PReg) : (t.pw n v).core = t.core := by unfold Task.pw; split <;> rfl
@[simp] theorem Task.pw_launch (t : Task) (n : Pg) (v : PReg) : (t.pw n v).launch = t.launch := by unfold Task.pw; split <;> rfl
@[simp] theorem Task.pw_prio (t : Task) (n : Pg) (v : PReg) : (t.pw n v).prio = t.prio := by unfold Task.pw; split <;> rfl
@[simp] theorem Task.pw_run (t : Task) (n : Pg) (v : PReg) : (t.pw n v).run = t.run := by unfold Task.pw; split <;> rfl
@[simp] theorem Task.pw_hatbox (t : Task) (n : Pg) (v : PReg) : (t.pw n v).hatbox = t.hatbox := by unfold Task.pw; split <;> rfl
@[simp] theorem Task.pw_wake (t : Task) (n : Pg) (v : PReg) : (t.pw n v).wake = t.wake := by unfold Task.pw; split <;> rfl
@[simp] theorem Task.pw_since (t : Task) (n : Pg) (v : PReg) : (t.pw n v).since = t.since := by unfold Task.pw; split <;> rfl
@[simp] theorem Task.pw_pc (t : Task) (n : Pg) (v : PReg) : (t.pw n v).pc = t.pc := by unfold Task.pw; split <;> rfl
@[simp] theorem Task.pw_xfer (t : Task) (n : Pg) (v : PReg) : (t.pw n v).xfer = t.xfer := by unfold Task.pw; split <;> rfl
@[simp] theorem Task.pw_slot (t : Task) (n : Pg) (v : PReg) : (t.pw n v).slot = t.slot := by unfold Task.pw; split <;> rfl
@[simp] theorem Task.pw_len (t : Task) (n : Pg) (v : PReg) : (t.pw n v).len = t.len := by unfold Task.pw; split <;> rfl
@[simp] theorem Task.pw_word (t : Task) (n : Pg) (v : PReg) : (t.pw n v).word = t.word := by unfold Task.pw; split <;> rfl
@[simp] theorem Task.pw_inA (t : Task) (n : Pg) (v : PReg) : (t.pw n v).inA = t.inA := by unfold Task.pw; split <;> rfl
@[simp] theorem Task.pw_last (t : Task) (n : Pg) (v : PReg) : (t.pw n v).last = t.last := by unfold Task.pw; split <;> rfl
@[simp] theorem Task.pw_trapWait (t : Task) (n : Pg) (v : PReg) : (t.pw n v).trapWait = t.trapWait := by unfold Task.pw; split <;> rfl
@[simp] theorem Task.pw_x (t : Task) (n : Pg) (v : PReg) : (t.pw n v).x = t.x := by unfold Task.pw; split <;> rfl
@[simp] theorem Task.pw_v (t : Task) (n : Pg) (v : PReg) : (t.pw n v).v = t.v := by unfold Task.pw; split <;> rfl
@[simp] theorem Task.pw_h (t : Task) (n : Pg) (v : PReg) : (t.pw n v).h = t.h := by unfold Task.pw; split <;> rfl
@[simp] theorem Task.pw_b (t : Task) (n : Pg) (v : PReg) : (t.pw n v).b = t.b := by unfold Task.pw; split <;> rfl
@[simp] theorem Task.pw_hvDecl (t : Task) (n : Pg) (v : PReg) : (t.pw n v).hvDecl = t.hvDecl := by unfold Task.pw; split <;> rfl
@[simp] theorem Task.pw_hvMade (t : Task) (n : Pg) (v : PReg) : (t.pw n v).hvMade = t.hvMade := by unfold Task.pw; split <;> rfl
@[simp] theorem Task.pw_st (t : Task) (n : Pg) (v : PReg) : (t.pw n v).st = t.st := by unfold Task.pw; split <;> rfl
@[simp] theorem Task.pw_cause (t : Task) (n : Pg) (v : PReg) : (t.pw n v).cause = t.cause := by unfold Task.pw; split <;> rfl
@[simp] theorem Task.pw_epc (t : Task) (n : Pg) (v : PReg) : (t.pw n v).epc = t.epc := by unfold Task.pw; split <;> rfl
@[simp] theorem Task.pw_tval (t : Task) (n : Pg) (v : PReg) : (t.pw n v).tval = t.tval := by unfold Task.pw; split <;> rfl
@[simp] theorem Task.pw_btgt (t : Task) (n : Pg) (v : PReg) : (t.pw n v).btgt = t.btgt := by unfold Task.pw; split <;> rfl
@[simp] theorem Task.pw_iter (t : Task) (n : Pg) (v : PReg) : (t.pw n v).iter = t.iter := by unfold Task.pw; split <;> rfl
@[simp] theorem Task.pw_tilex (t : Task) (n : Pg) (v : PReg) : (t.pw n v).tilex = t.tilex := by unfold Task.pw; split <;> rfl
@[simp] theorem Task.pw_tiley (t : Task) (n : Pg) (v : PReg) : (t.pw n v).tiley = t.tiley := by unfold Task.pw; split <;> rfl
@[simp] theorem Task.pw_tilez (t : Task) (n : Pg) (v : PReg) : (t.pw n v).tilez = t.tilez := by unfold Task.pw; split <;> rfl
@[simp] theorem Task.pw_allotn (t : Task) (n : Pg) (v : PReg) : (t.pw n v).allotn = t.allotn := by unfold Task.pw; split <;> rfl
@[simp] theorem Task.pw_livem (t : Task) (n : Pg) (v : PReg) : (t.pw n v).livem = t.livem := by unfold Task.pw; split <;> rfl
@[simp] theorem Task.pw_ntmo (t : Task) (n : Pg) (v : PReg) : (t.pw n v).ntmo = t.ntmo := by unfold Task.pw; split <;> rfl
@[simp] theorem Task.pw_uivec (t : Task) (n : Pg) (v : PReg) : (t.pw n v).uivec = t.uivec := by unfold Task.pw; split <;> rfl
@[simp] theorem Task.pw_uiepc (t : Task) (n : Pg) (v : PReg) : (t.pw n v).uiepc = t.uiepc := by unfold Task.pw; split <;> rfl
@[simp] theorem Task.pw_hvtie (t : Task) (n : Pg) (v : PReg) : (t.pw n v).hvtie = t.hvtie := by unfold Task.pw; split <;> rfl
@[simp] theorem Task.pw_hvcw (t : Task) (n : Pg) (v : PReg) : (t.pw n v).hvcw = t.hvcw := by unfold Task.pw; split <;> rfl
@[simp] theorem Task.pw_seqaddr (t : Task) (n : Pg) (v : PReg) : (t.pw n v).seqaddr = t.seqaddr := by unfold Task.pw; split <;> rfl
@[simp] theorem Task.pw_trapSave (t : Task) (n : Pg) (v : PReg) : (t.pw n v).trapSave = t.trapSave := by unfold Task.pw; split <;> rfl
@[simp] theorem Task.pw_uiShadow (t : Task) (n : Pg) (v : PReg) : (t.pw n v).uiShadow = t.uiShadow := by unfold Task.pw; split <;> rfl
@[simp] theorem Task.pw_uiMask (t : Task) (n : Pg) (v : PReg) : (t.pw n v).uiMask = t.uiMask := by unfold Task.pw; split <;> rfl
@[simp] theorem Task.pw_seq (t : Task) (n : Pg) (v : PReg) : (t.pw n v).seq = t.seq := by unfold Task.pw; split <;> rfl
@[simp] theorem Task.pw_replay (t : Task) (n : Pg) (v : PReg) : (t.pw n v).replay = t.replay := by unfold Task.pw; split <;> rfl
@[simp] theorem Task.pw_streams (t : Task) (n : Pg) (v : PReg) : (t.pw n v).streams = t.streams := by unfold Task.pw; split <;> rfl
@[simp] theorem Task.pw_loads (t : Task) (n : Pg) (v : PReg) : (t.pw n v).loads = t.loads := by unfold Task.pw; split <;> rfl
@[simp] theorem Task.pw_answers (t : Task) (n : Pg) (v : PReg) : (t.pw n v).answers = t.answers := by unfold Task.pw; split <;> rfl
@[simp] theorem Task.pw_nfRec (t : Task) (n : Pg) (v : PReg) : (t.pw n v).nfRec = t.nfRec := by unfold Task.pw; split <;> rfl
@[simp] theorem Task.pw_failCount (t : Task) (n : Pg) (v : PReg) : (t.pw n v).failCount = t.failCount := by unfold Task.pw; split <;> rfl
@[simp] theorem Task.pw_failRefused (t : Task) (n : Pg) (v : PReg) : (t.pw n v).failRefused = t.failRefused := by unfold Task.pw; split <;> rfl
@[simp] theorem Task.pw_failDead (t : Task) (n : Pg) (v : PReg) : (t.pw n v).failDead = t.failDead := by unfold Task.pw; split <;> rfl
@[simp] theorem Task.pw_handleReport (t : Task) (n : Pg) (v : PReg) : (t.pw n v).handleReport = t.handleReport := by unfold Task.pw; split <;> rfl
@[simp] theorem Task.pw_reportAt (t : Task) (n : Pg) (v : PReg) : (t.pw n v).reportAt = t.reportAt := by unfold Task.pw; split <;> rfl
@[simp] theorem Task.pw_handleOps (t : Task) (n : Pg) (v : PReg) : (t.pw n v).handleOps = t.handleOps := by unfold Task.pw; split <;> rfl
@[simp] theorem Task.pw_matrixReport (t : Task) (n : Pg) (v : PReg) : (t.pw n v).matrixReport = t.matrixReport := by unfold Task.pw; split <;> rfl
@[simp] theorem Task.pw_demand (t : Task) (n : Pg) (v : PReg) : (t.pw n v).demand = t.demand := by unfold Task.pw; split <;> rfl
@[simp] theorem Task.pw_waitLink (t : Task) (n : Pg) (v : PReg) : (t.pw n v).waitLink = t.waitLink := by unfold Task.pw; split <;> rfl
@[simp] theorem Task.pw_waitOn (t : Task) (n : Pg) (v : PReg) : (t.pw n v).waitOn = t.waitOn := by unfold Task.pw; split <;> rfl
@[simp] theorem Task.pw_hold (t : Task) (n : Pg) (v : PReg) : (t.pw n v).hold = t.hold := by unfold Task.pw; split <;> rfl
@[simp] theorem Task.pw_reloadErr (t : Task) (n : Pg) (v : PReg) : (t.pw n v).reloadErr = t.reloadErr := by unfold Task.pw; split <;> rfl
@[simp] theorem Task.pw_evalOf (t : Task) (n : Pg) (v : PReg) : (t.pw n v).evalOf = t.evalOf := by unfold Task.pw; split <;> rfl
@[simp] theorem Task.pw_lock (t : Task) (n : Pg) (v : PReg) : (t.pw n v).lock = t.lock := by unfold Task.pw; split <;> rfl
@[simp] theorem Task.pw_xphase (t : Task) (n : Pg) (v : PReg) : (t.pw n v).xphase = t.xphase := by unfold Task.pw; split <;> rfl
@[simp] theorem Task.pw_xhold (t : Task) (n : Pg) (v : PReg) : (t.pw n v).xhold = t.xhold := by unfold Task.pw; split <;> rfl
@[simp] theorem Task.pw_xsend (t : Task) (n : Pg) (v : PReg) : (t.pw n v).xsend = t.xsend := by unfold Task.pw; split <;> rfl
@[simp] theorem Task.pw_rowWrites (t : Task) (n : Pg) (v : PReg) : (t.pw n v).rowWrites = t.rowWrites := by unfold Task.pw; split <;> rfl
@[simp] theorem Task.pw_rowWait (t : Task) (n : Pg) (v : PReg) : (t.pw n v).rowWait = t.rowWait := by unfold Task.pw; split <;> rfl
@[simp] theorem Task.pw_lockWait (t : Task) (n : Pg) (v : PReg) : (t.pw n v).lockWait = t.lockWait := by unfold Task.pw; split <;> rfl
@[simp] theorem Task.pw_searching (t : Task) (n : Pg) (v : PReg) : (t.pw n v).searching = t.searching := by unfold Task.pw; split <;> rfl
@[simp] theorem Task.pw_near (t : Task) (n : Pg) (v : PReg) : (t.pw n v).near = t.near := by unfold Task.pw; split <;> rfl
@[simp] theorem Task.pw_follow (t : Task) (n : Pg) (v : PReg) : (t.pw n v).follow = t.follow := by unfold Task.pw; split <;> rfl
@[simp] theorem Task.pw_doneA (t : Task) (n : Pg) (v : PReg) : (t.pw n v).doneA = t.doneA := by unfold Task.pw; split <;> rfl
@[simp] theorem Task.pw_treeRound (t : Task) (n : Pg) (v : PReg) : (t.pw n v).treeRound = t.treeRound := by unfold Task.pw; split <;> rfl

@[simp] theorem Task.vw_tid (t : Task) (n : Reg) (v : VReg) : (t.vw n v).tid = t.tid := rfl
@[simp] theorem Task.vw_part (t : Task) (n : Reg) (v : VReg) : (t.vw n v).part = t.part := rfl
@[simp] theorem Task.vw_core (t : Task) (n : Reg) (v : VReg) : (t.vw n v).core = t.core := rfl
@[simp] theorem Task.vw_launch (t : Task) (n : Reg) (v : VReg) : (t.vw n v).launch = t.launch := rfl
@[simp] theorem Task.vw_prio (t : Task) (n : Reg) (v : VReg) : (t.vw n v).prio = t.prio := rfl
@[simp] theorem Task.vw_run (t : Task) (n : Reg) (v : VReg) : (t.vw n v).run = t.run := rfl
@[simp] theorem Task.vw_hatbox (t : Task) (n : Reg) (v : VReg) : (t.vw n v).hatbox = t.hatbox := rfl
@[simp] theorem Task.vw_wake (t : Task) (n : Reg) (v : VReg) : (t.vw n v).wake = t.wake := rfl
@[simp] theorem Task.vw_since (t : Task) (n : Reg) (v : VReg) : (t.vw n v).since = t.since := rfl
@[simp] theorem Task.vw_pc (t : Task) (n : Reg) (v : VReg) : (t.vw n v).pc = t.pc := rfl
@[simp] theorem Task.vw_xfer (t : Task) (n : Reg) (v : VReg) : (t.vw n v).xfer = t.xfer := rfl
@[simp] theorem Task.vw_slot (t : Task) (n : Reg) (v : VReg) : (t.vw n v).slot = t.slot := rfl
@[simp] theorem Task.vw_len (t : Task) (n : Reg) (v : VReg) : (t.vw n v).len = t.len := rfl
@[simp] theorem Task.vw_word (t : Task) (n : Reg) (v : VReg) : (t.vw n v).word = t.word := rfl
@[simp] theorem Task.vw_inA (t : Task) (n : Reg) (v : VReg) : (t.vw n v).inA = t.inA := rfl
@[simp] theorem Task.vw_last (t : Task) (n : Reg) (v : VReg) : (t.vw n v).last = t.last := rfl
@[simp] theorem Task.vw_trapWait (t : Task) (n : Reg) (v : VReg) : (t.vw n v).trapWait = t.trapWait := rfl
@[simp] theorem Task.vw_x (t : Task) (n : Reg) (v : VReg) : (t.vw n v).x = t.x := rfl
@[simp] theorem Task.vw_p (t : Task) (n : Reg) (v : VReg) : (t.vw n v).p = t.p := rfl
@[simp] theorem Task.vw_h (t : Task) (n : Reg) (v : VReg) : (t.vw n v).h = t.h := rfl
@[simp] theorem Task.vw_b (t : Task) (n : Reg) (v : VReg) : (t.vw n v).b = t.b := rfl
@[simp] theorem Task.vw_hvDecl (t : Task) (n : Reg) (v : VReg) : (t.vw n v).hvDecl = t.hvDecl := rfl
@[simp] theorem Task.vw_hvMade (t : Task) (n : Reg) (v : VReg) : (t.vw n v).hvMade = t.hvMade := rfl
@[simp] theorem Task.vw_st (t : Task) (n : Reg) (v : VReg) : (t.vw n v).st = t.st := rfl
@[simp] theorem Task.vw_cause (t : Task) (n : Reg) (v : VReg) : (t.vw n v).cause = t.cause := rfl
@[simp] theorem Task.vw_epc (t : Task) (n : Reg) (v : VReg) : (t.vw n v).epc = t.epc := rfl
@[simp] theorem Task.vw_tval (t : Task) (n : Reg) (v : VReg) : (t.vw n v).tval = t.tval := rfl
@[simp] theorem Task.vw_btgt (t : Task) (n : Reg) (v : VReg) : (t.vw n v).btgt = t.btgt := rfl
@[simp] theorem Task.vw_iter (t : Task) (n : Reg) (v : VReg) : (t.vw n v).iter = t.iter := rfl
@[simp] theorem Task.vw_tilex (t : Task) (n : Reg) (v : VReg) : (t.vw n v).tilex = t.tilex := rfl
@[simp] theorem Task.vw_tiley (t : Task) (n : Reg) (v : VReg) : (t.vw n v).tiley = t.tiley := rfl
@[simp] theorem Task.vw_tilez (t : Task) (n : Reg) (v : VReg) : (t.vw n v).tilez = t.tilez := rfl
@[simp] theorem Task.vw_allotn (t : Task) (n : Reg) (v : VReg) : (t.vw n v).allotn = t.allotn := rfl
@[simp] theorem Task.vw_ntmo (t : Task) (n : Reg) (v : VReg) : (t.vw n v).ntmo = t.ntmo := rfl
@[simp] theorem Task.vw_uivec (t : Task) (n : Reg) (v : VReg) : (t.vw n v).uivec = t.uivec := rfl
@[simp] theorem Task.vw_uiepc (t : Task) (n : Reg) (v : VReg) : (t.vw n v).uiepc = t.uiepc := rfl
@[simp] theorem Task.vw_hvtie (t : Task) (n : Reg) (v : VReg) : (t.vw n v).hvtie = t.hvtie := rfl
@[simp] theorem Task.vw_hvcw (t : Task) (n : Reg) (v : VReg) : (t.vw n v).hvcw = t.hvcw := rfl
@[simp] theorem Task.vw_seqaddr (t : Task) (n : Reg) (v : VReg) : (t.vw n v).seqaddr = t.seqaddr := rfl
@[simp] theorem Task.vw_trapSave (t : Task) (n : Reg) (v : VReg) : (t.vw n v).trapSave = t.trapSave := rfl
@[simp] theorem Task.vw_uiShadow (t : Task) (n : Reg) (v : VReg) : (t.vw n v).uiShadow = t.uiShadow := rfl
@[simp] theorem Task.vw_uiMask (t : Task) (n : Reg) (v : VReg) : (t.vw n v).uiMask = t.uiMask := rfl
@[simp] theorem Task.vw_seq (t : Task) (n : Reg) (v : VReg) : (t.vw n v).seq = t.seq := rfl
@[simp] theorem Task.vw_replay (t : Task) (n : Reg) (v : VReg) : (t.vw n v).replay = t.replay := rfl
@[simp] theorem Task.vw_streams (t : Task) (n : Reg) (v : VReg) : (t.vw n v).streams = t.streams := rfl
@[simp] theorem Task.vw_loads (t : Task) (n : Reg) (v : VReg) : (t.vw n v).loads = t.loads := rfl
@[simp] theorem Task.vw_answers (t : Task) (n : Reg) (v : VReg) : (t.vw n v).answers = t.answers := rfl
@[simp] theorem Task.vw_nfRec (t : Task) (n : Reg) (v : VReg) : (t.vw n v).nfRec = t.nfRec := rfl
@[simp] theorem Task.vw_failCount (t : Task) (n : Reg) (v : VReg) : (t.vw n v).failCount = t.failCount := rfl
@[simp] theorem Task.vw_failRefused (t : Task) (n : Reg) (v : VReg) : (t.vw n v).failRefused = t.failRefused := rfl
@[simp] theorem Task.vw_failDead (t : Task) (n : Reg) (v : VReg) : (t.vw n v).failDead = t.failDead := rfl
@[simp] theorem Task.vw_handleReport (t : Task) (n : Reg) (v : VReg) : (t.vw n v).handleReport = t.handleReport := rfl
@[simp] theorem Task.vw_reportAt (t : Task) (n : Reg) (v : VReg) : (t.vw n v).reportAt = t.reportAt := rfl
@[simp] theorem Task.vw_handleOps (t : Task) (n : Reg) (v : VReg) : (t.vw n v).handleOps = t.handleOps := rfl
@[simp] theorem Task.vw_matrixReport (t : Task) (n : Reg) (v : VReg) : (t.vw n v).matrixReport = t.matrixReport := rfl
@[simp] theorem Task.vw_demand (t : Task) (n : Reg) (v : VReg) : (t.vw n v).demand = t.demand := rfl
@[simp] theorem Task.vw_waitLink (t : Task) (n : Reg) (v : VReg) : (t.vw n v).waitLink = t.waitLink := rfl
@[simp] theorem Task.vw_waitOn (t : Task) (n : Reg) (v : VReg) : (t.vw n v).waitOn = t.waitOn := rfl
@[simp] theorem Task.vw_hold (t : Task) (n : Reg) (v : VReg) : (t.vw n v).hold = t.hold := rfl
@[simp] theorem Task.vw_reloadErr (t : Task) (n : Reg) (v : VReg) : (t.vw n v).reloadErr = t.reloadErr := rfl
@[simp] theorem Task.vw_evalOf (t : Task) (n : Reg) (v : VReg) : (t.vw n v).evalOf = t.evalOf := rfl
@[simp] theorem Task.vw_lock (t : Task) (n : Reg) (v : VReg) : (t.vw n v).lock = t.lock := rfl
@[simp] theorem Task.vw_xphase (t : Task) (n : Reg) (v : VReg) : (t.vw n v).xphase = t.xphase := rfl
@[simp] theorem Task.vw_xhold (t : Task) (n : Reg) (v : VReg) : (t.vw n v).xhold = t.xhold := rfl
@[simp] theorem Task.vw_xsend (t : Task) (n : Reg) (v : VReg) : (t.vw n v).xsend = t.xsend := rfl
@[simp] theorem Task.vw_rowWrites (t : Task) (n : Reg) (v : VReg) : (t.vw n v).rowWrites = t.rowWrites := rfl
@[simp] theorem Task.vw_rowWait (t : Task) (n : Reg) (v : VReg) : (t.vw n v).rowWait = t.rowWait := rfl
@[simp] theorem Task.vw_lockWait (t : Task) (n : Reg) (v : VReg) : (t.vw n v).lockWait = t.lockWait := rfl
@[simp] theorem Task.vw_searching (t : Task) (n : Reg) (v : VReg) : (t.vw n v).searching = t.searching := rfl
@[simp] theorem Task.vw_near (t : Task) (n : Reg) (v : VReg) : (t.vw n v).near = t.near := rfl
@[simp] theorem Task.vw_follow (t : Task) (n : Reg) (v : VReg) : (t.vw n v).follow = t.follow := rfl
@[simp] theorem Task.vw_doneA (t : Task) (n : Reg) (v : VReg) : (t.vw n v).doneA = t.doneA := rfl
@[simp] theorem Task.vw_treeRound (t : Task) (n : Reg) (v : VReg) : (t.vw n v).treeRound = t.treeRound := rfl

@[simp] theorem Task.hw_tid (t : Task) (n : HIdx) (v : HReg) : (t.hw n v).tid = t.tid := rfl
@[simp] theorem Task.hw_part (t : Task) (n : HIdx) (v : HReg) : (t.hw n v).part = t.part := rfl
@[simp] theorem Task.hw_core (t : Task) (n : HIdx) (v : HReg) : (t.hw n v).core = t.core := rfl
@[simp] theorem Task.hw_launch (t : Task) (n : HIdx) (v : HReg) : (t.hw n v).launch = t.launch := rfl
@[simp] theorem Task.hw_prio (t : Task) (n : HIdx) (v : HReg) : (t.hw n v).prio = t.prio := rfl
@[simp] theorem Task.hw_run (t : Task) (n : HIdx) (v : HReg) : (t.hw n v).run = t.run := rfl
@[simp] theorem Task.hw_hatbox (t : Task) (n : HIdx) (v : HReg) : (t.hw n v).hatbox = t.hatbox := rfl
@[simp] theorem Task.hw_wake (t : Task) (n : HIdx) (v : HReg) : (t.hw n v).wake = t.wake := rfl
@[simp] theorem Task.hw_since (t : Task) (n : HIdx) (v : HReg) : (t.hw n v).since = t.since := rfl
@[simp] theorem Task.hw_pc (t : Task) (n : HIdx) (v : HReg) : (t.hw n v).pc = t.pc := rfl
@[simp] theorem Task.hw_xfer (t : Task) (n : HIdx) (v : HReg) : (t.hw n v).xfer = t.xfer := rfl
@[simp] theorem Task.hw_slot (t : Task) (n : HIdx) (v : HReg) : (t.hw n v).slot = t.slot := rfl
@[simp] theorem Task.hw_len (t : Task) (n : HIdx) (v : HReg) : (t.hw n v).len = t.len := rfl
@[simp] theorem Task.hw_word (t : Task) (n : HIdx) (v : HReg) : (t.hw n v).word = t.word := rfl
@[simp] theorem Task.hw_inA (t : Task) (n : HIdx) (v : HReg) : (t.hw n v).inA = t.inA := rfl
@[simp] theorem Task.hw_last (t : Task) (n : HIdx) (v : HReg) : (t.hw n v).last = t.last := rfl
@[simp] theorem Task.hw_trapWait (t : Task) (n : HIdx) (v : HReg) : (t.hw n v).trapWait = t.trapWait := rfl
@[simp] theorem Task.hw_x (t : Task) (n : HIdx) (v : HReg) : (t.hw n v).x = t.x := rfl
@[simp] theorem Task.hw_v (t : Task) (n : HIdx) (v : HReg) : (t.hw n v).v = t.v := rfl
@[simp] theorem Task.hw_p (t : Task) (n : HIdx) (v : HReg) : (t.hw n v).p = t.p := rfl
@[simp] theorem Task.hw_b (t : Task) (n : HIdx) (v : HReg) : (t.hw n v).b = t.b := rfl
@[simp] theorem Task.hw_hvDecl (t : Task) (n : HIdx) (v : HReg) : (t.hw n v).hvDecl = t.hvDecl := rfl
@[simp] theorem Task.hw_hvMade (t : Task) (n : HIdx) (v : HReg) : (t.hw n v).hvMade = t.hvMade := rfl
@[simp] theorem Task.hw_st (t : Task) (n : HIdx) (v : HReg) : (t.hw n v).st = t.st := rfl
@[simp] theorem Task.hw_cause (t : Task) (n : HIdx) (v : HReg) : (t.hw n v).cause = t.cause := rfl
@[simp] theorem Task.hw_epc (t : Task) (n : HIdx) (v : HReg) : (t.hw n v).epc = t.epc := rfl
@[simp] theorem Task.hw_tval (t : Task) (n : HIdx) (v : HReg) : (t.hw n v).tval = t.tval := rfl
@[simp] theorem Task.hw_btgt (t : Task) (n : HIdx) (v : HReg) : (t.hw n v).btgt = t.btgt := rfl
@[simp] theorem Task.hw_iter (t : Task) (n : HIdx) (v : HReg) : (t.hw n v).iter = t.iter := rfl
@[simp] theorem Task.hw_tilex (t : Task) (n : HIdx) (v : HReg) : (t.hw n v).tilex = t.tilex := rfl
@[simp] theorem Task.hw_tiley (t : Task) (n : HIdx) (v : HReg) : (t.hw n v).tiley = t.tiley := rfl
@[simp] theorem Task.hw_tilez (t : Task) (n : HIdx) (v : HReg) : (t.hw n v).tilez = t.tilez := rfl
@[simp] theorem Task.hw_allotn (t : Task) (n : HIdx) (v : HReg) : (t.hw n v).allotn = t.allotn := rfl
@[simp] theorem Task.hw_livem (t : Task) (n : HIdx) (v : HReg) : (t.hw n v).livem = t.livem := rfl
@[simp] theorem Task.hw_ntmo (t : Task) (n : HIdx) (v : HReg) : (t.hw n v).ntmo = t.ntmo := rfl
@[simp] theorem Task.hw_uivec (t : Task) (n : HIdx) (v : HReg) : (t.hw n v).uivec = t.uivec := rfl
@[simp] theorem Task.hw_uiepc (t : Task) (n : HIdx) (v : HReg) : (t.hw n v).uiepc = t.uiepc := rfl
@[simp] theorem Task.hw_hvtie (t : Task) (n : HIdx) (v : HReg) : (t.hw n v).hvtie = t.hvtie := rfl
@[simp] theorem Task.hw_hvcw (t : Task) (n : HIdx) (v : HReg) : (t.hw n v).hvcw = t.hvcw := rfl
@[simp] theorem Task.hw_seqaddr (t : Task) (n : HIdx) (v : HReg) : (t.hw n v).seqaddr = t.seqaddr := rfl
@[simp] theorem Task.hw_trapSave (t : Task) (n : HIdx) (v : HReg) : (t.hw n v).trapSave = t.trapSave := rfl
@[simp] theorem Task.hw_uiShadow (t : Task) (n : HIdx) (v : HReg) : (t.hw n v).uiShadow = t.uiShadow := rfl
@[simp] theorem Task.hw_uiMask (t : Task) (n : HIdx) (v : HReg) : (t.hw n v).uiMask = t.uiMask := rfl
@[simp] theorem Task.hw_seq (t : Task) (n : HIdx) (v : HReg) : (t.hw n v).seq = t.seq := rfl
@[simp] theorem Task.hw_replay (t : Task) (n : HIdx) (v : HReg) : (t.hw n v).replay = t.replay := rfl
@[simp] theorem Task.hw_streams (t : Task) (n : HIdx) (v : HReg) : (t.hw n v).streams = t.streams := rfl
@[simp] theorem Task.hw_loads (t : Task) (n : HIdx) (v : HReg) : (t.hw n v).loads = t.loads := rfl
@[simp] theorem Task.hw_answers (t : Task) (n : HIdx) (v : HReg) : (t.hw n v).answers = t.answers := rfl
@[simp] theorem Task.hw_nfRec (t : Task) (n : HIdx) (v : HReg) : (t.hw n v).nfRec = t.nfRec := rfl
@[simp] theorem Task.hw_failCount (t : Task) (n : HIdx) (v : HReg) : (t.hw n v).failCount = t.failCount := rfl
@[simp] theorem Task.hw_failRefused (t : Task) (n : HIdx) (v : HReg) : (t.hw n v).failRefused = t.failRefused := rfl
@[simp] theorem Task.hw_failDead (t : Task) (n : HIdx) (v : HReg) : (t.hw n v).failDead = t.failDead := rfl
@[simp] theorem Task.hw_handleReport (t : Task) (n : HIdx) (v : HReg) : (t.hw n v).handleReport = t.handleReport := rfl
@[simp] theorem Task.hw_reportAt (t : Task) (n : HIdx) (v : HReg) : (t.hw n v).reportAt = t.reportAt := rfl
@[simp] theorem Task.hw_handleOps (t : Task) (n : HIdx) (v : HReg) : (t.hw n v).handleOps = t.handleOps := rfl
@[simp] theorem Task.hw_matrixReport (t : Task) (n : HIdx) (v : HReg) : (t.hw n v).matrixReport = t.matrixReport := rfl
@[simp] theorem Task.hw_demand (t : Task) (n : HIdx) (v : HReg) : (t.hw n v).demand = t.demand := rfl
@[simp] theorem Task.hw_waitLink (t : Task) (n : HIdx) (v : HReg) : (t.hw n v).waitLink = t.waitLink := rfl
@[simp] theorem Task.hw_waitOn (t : Task) (n : HIdx) (v : HReg) : (t.hw n v).waitOn = t.waitOn := rfl
@[simp] theorem Task.hw_hold (t : Task) (n : HIdx) (v : HReg) : (t.hw n v).hold = t.hold := rfl
@[simp] theorem Task.hw_reloadErr (t : Task) (n : HIdx) (v : HReg) : (t.hw n v).reloadErr = t.reloadErr := rfl
@[simp] theorem Task.hw_evalOf (t : Task) (n : HIdx) (v : HReg) : (t.hw n v).evalOf = t.evalOf := rfl
@[simp] theorem Task.hw_lock (t : Task) (n : HIdx) (v : HReg) : (t.hw n v).lock = t.lock := rfl
@[simp] theorem Task.hw_xphase (t : Task) (n : HIdx) (v : HReg) : (t.hw n v).xphase = t.xphase := rfl
@[simp] theorem Task.hw_xhold (t : Task) (n : HIdx) (v : HReg) : (t.hw n v).xhold = t.xhold := rfl
@[simp] theorem Task.hw_xsend (t : Task) (n : HIdx) (v : HReg) : (t.hw n v).xsend = t.xsend := rfl
@[simp] theorem Task.hw_rowWrites (t : Task) (n : HIdx) (v : HReg) : (t.hw n v).rowWrites = t.rowWrites := rfl
@[simp] theorem Task.hw_rowWait (t : Task) (n : HIdx) (v : HReg) : (t.hw n v).rowWait = t.rowWait := rfl
@[simp] theorem Task.hw_lockWait (t : Task) (n : HIdx) (v : HReg) : (t.hw n v).lockWait = t.lockWait := rfl
@[simp] theorem Task.hw_searching (t : Task) (n : HIdx) (v : HReg) : (t.hw n v).searching = t.searching := rfl
@[simp] theorem Task.hw_near (t : Task) (n : HIdx) (v : HReg) : (t.hw n v).near = t.near := rfl
@[simp] theorem Task.hw_follow (t : Task) (n : HIdx) (v : HReg) : (t.hw n v).follow = t.follow := rfl
@[simp] theorem Task.hw_doneA (t : Task) (n : HIdx) (v : HReg) : (t.hw n v).doneA = t.doneA := rfl
@[simp] theorem Task.hw_treeRound (t : Task) (n : HIdx) (v : HReg) : (t.hw n v).treeRound = t.treeRound := rfl

@[simp] theorem Task.bw_tid (t : Task) (n : HIdx) (v : BArr) : (t.bw n v).tid = t.tid := rfl
@[simp] theorem Task.bw_part (t : Task) (n : HIdx) (v : BArr) : (t.bw n v).part = t.part := rfl
@[simp] theorem Task.bw_core (t : Task) (n : HIdx) (v : BArr) : (t.bw n v).core = t.core := rfl
@[simp] theorem Task.bw_launch (t : Task) (n : HIdx) (v : BArr) : (t.bw n v).launch = t.launch := rfl
@[simp] theorem Task.bw_prio (t : Task) (n : HIdx) (v : BArr) : (t.bw n v).prio = t.prio := rfl
@[simp] theorem Task.bw_run (t : Task) (n : HIdx) (v : BArr) : (t.bw n v).run = t.run := rfl
@[simp] theorem Task.bw_hatbox (t : Task) (n : HIdx) (v : BArr) : (t.bw n v).hatbox = t.hatbox := rfl
@[simp] theorem Task.bw_wake (t : Task) (n : HIdx) (v : BArr) : (t.bw n v).wake = t.wake := rfl
@[simp] theorem Task.bw_since (t : Task) (n : HIdx) (v : BArr) : (t.bw n v).since = t.since := rfl
@[simp] theorem Task.bw_pc (t : Task) (n : HIdx) (v : BArr) : (t.bw n v).pc = t.pc := rfl
@[simp] theorem Task.bw_xfer (t : Task) (n : HIdx) (v : BArr) : (t.bw n v).xfer = t.xfer := rfl
@[simp] theorem Task.bw_slot (t : Task) (n : HIdx) (v : BArr) : (t.bw n v).slot = t.slot := rfl
@[simp] theorem Task.bw_len (t : Task) (n : HIdx) (v : BArr) : (t.bw n v).len = t.len := rfl
@[simp] theorem Task.bw_word (t : Task) (n : HIdx) (v : BArr) : (t.bw n v).word = t.word := rfl
@[simp] theorem Task.bw_inA (t : Task) (n : HIdx) (v : BArr) : (t.bw n v).inA = t.inA := rfl
@[simp] theorem Task.bw_last (t : Task) (n : HIdx) (v : BArr) : (t.bw n v).last = t.last := rfl
@[simp] theorem Task.bw_trapWait (t : Task) (n : HIdx) (v : BArr) : (t.bw n v).trapWait = t.trapWait := rfl
@[simp] theorem Task.bw_x (t : Task) (n : HIdx) (v : BArr) : (t.bw n v).x = t.x := rfl
@[simp] theorem Task.bw_v (t : Task) (n : HIdx) (v : BArr) : (t.bw n v).v = t.v := rfl
@[simp] theorem Task.bw_p (t : Task) (n : HIdx) (v : BArr) : (t.bw n v).p = t.p := rfl
@[simp] theorem Task.bw_h (t : Task) (n : HIdx) (v : BArr) : (t.bw n v).h = t.h := rfl
@[simp] theorem Task.bw_hvDecl (t : Task) (n : HIdx) (v : BArr) : (t.bw n v).hvDecl = t.hvDecl := rfl
@[simp] theorem Task.bw_hvMade (t : Task) (n : HIdx) (v : BArr) : (t.bw n v).hvMade = t.hvMade := rfl
@[simp] theorem Task.bw_st (t : Task) (n : HIdx) (v : BArr) : (t.bw n v).st = t.st := rfl
@[simp] theorem Task.bw_cause (t : Task) (n : HIdx) (v : BArr) : (t.bw n v).cause = t.cause := rfl
@[simp] theorem Task.bw_epc (t : Task) (n : HIdx) (v : BArr) : (t.bw n v).epc = t.epc := rfl
@[simp] theorem Task.bw_tval (t : Task) (n : HIdx) (v : BArr) : (t.bw n v).tval = t.tval := rfl
@[simp] theorem Task.bw_btgt (t : Task) (n : HIdx) (v : BArr) : (t.bw n v).btgt = t.btgt := rfl
@[simp] theorem Task.bw_iter (t : Task) (n : HIdx) (v : BArr) : (t.bw n v).iter = t.iter := rfl
@[simp] theorem Task.bw_tilex (t : Task) (n : HIdx) (v : BArr) : (t.bw n v).tilex = t.tilex := rfl
@[simp] theorem Task.bw_tiley (t : Task) (n : HIdx) (v : BArr) : (t.bw n v).tiley = t.tiley := rfl
@[simp] theorem Task.bw_tilez (t : Task) (n : HIdx) (v : BArr) : (t.bw n v).tilez = t.tilez := rfl
@[simp] theorem Task.bw_allotn (t : Task) (n : HIdx) (v : BArr) : (t.bw n v).allotn = t.allotn := rfl
@[simp] theorem Task.bw_livem (t : Task) (n : HIdx) (v : BArr) : (t.bw n v).livem = t.livem := rfl
@[simp] theorem Task.bw_ntmo (t : Task) (n : HIdx) (v : BArr) : (t.bw n v).ntmo = t.ntmo := rfl
@[simp] theorem Task.bw_uivec (t : Task) (n : HIdx) (v : BArr) : (t.bw n v).uivec = t.uivec := rfl
@[simp] theorem Task.bw_uiepc (t : Task) (n : HIdx) (v : BArr) : (t.bw n v).uiepc = t.uiepc := rfl
@[simp] theorem Task.bw_hvtie (t : Task) (n : HIdx) (v : BArr) : (t.bw n v).hvtie = t.hvtie := rfl
@[simp] theorem Task.bw_hvcw (t : Task) (n : HIdx) (v : BArr) : (t.bw n v).hvcw = t.hvcw := rfl
@[simp] theorem Task.bw_seqaddr (t : Task) (n : HIdx) (v : BArr) : (t.bw n v).seqaddr = t.seqaddr := rfl
@[simp] theorem Task.bw_trapSave (t : Task) (n : HIdx) (v : BArr) : (t.bw n v).trapSave = t.trapSave := rfl
@[simp] theorem Task.bw_uiShadow (t : Task) (n : HIdx) (v : BArr) : (t.bw n v).uiShadow = t.uiShadow := rfl
@[simp] theorem Task.bw_uiMask (t : Task) (n : HIdx) (v : BArr) : (t.bw n v).uiMask = t.uiMask := rfl
@[simp] theorem Task.bw_seq (t : Task) (n : HIdx) (v : BArr) : (t.bw n v).seq = t.seq := rfl
@[simp] theorem Task.bw_replay (t : Task) (n : HIdx) (v : BArr) : (t.bw n v).replay = t.replay := rfl
@[simp] theorem Task.bw_streams (t : Task) (n : HIdx) (v : BArr) : (t.bw n v).streams = t.streams := rfl
@[simp] theorem Task.bw_loads (t : Task) (n : HIdx) (v : BArr) : (t.bw n v).loads = t.loads := rfl
@[simp] theorem Task.bw_answers (t : Task) (n : HIdx) (v : BArr) : (t.bw n v).answers = t.answers := rfl
@[simp] theorem Task.bw_nfRec (t : Task) (n : HIdx) (v : BArr) : (t.bw n v).nfRec = t.nfRec := rfl
@[simp] theorem Task.bw_failCount (t : Task) (n : HIdx) (v : BArr) : (t.bw n v).failCount = t.failCount := rfl
@[simp] theorem Task.bw_failRefused (t : Task) (n : HIdx) (v : BArr) : (t.bw n v).failRefused = t.failRefused := rfl
@[simp] theorem Task.bw_failDead (t : Task) (n : HIdx) (v : BArr) : (t.bw n v).failDead = t.failDead := rfl
@[simp] theorem Task.bw_handleReport (t : Task) (n : HIdx) (v : BArr) : (t.bw n v).handleReport = t.handleReport := rfl
@[simp] theorem Task.bw_reportAt (t : Task) (n : HIdx) (v : BArr) : (t.bw n v).reportAt = t.reportAt := rfl
@[simp] theorem Task.bw_handleOps (t : Task) (n : HIdx) (v : BArr) : (t.bw n v).handleOps = t.handleOps := rfl
@[simp] theorem Task.bw_matrixReport (t : Task) (n : HIdx) (v : BArr) : (t.bw n v).matrixReport = t.matrixReport := rfl
@[simp] theorem Task.bw_demand (t : Task) (n : HIdx) (v : BArr) : (t.bw n v).demand = t.demand := rfl
@[simp] theorem Task.bw_waitLink (t : Task) (n : HIdx) (v : BArr) : (t.bw n v).waitLink = t.waitLink := rfl
@[simp] theorem Task.bw_waitOn (t : Task) (n : HIdx) (v : BArr) : (t.bw n v).waitOn = t.waitOn := rfl
@[simp] theorem Task.bw_hold (t : Task) (n : HIdx) (v : BArr) : (t.bw n v).hold = t.hold := rfl
@[simp] theorem Task.bw_reloadErr (t : Task) (n : HIdx) (v : BArr) : (t.bw n v).reloadErr = t.reloadErr := rfl
@[simp] theorem Task.bw_evalOf (t : Task) (n : HIdx) (v : BArr) : (t.bw n v).evalOf = t.evalOf := rfl
@[simp] theorem Task.bw_lock (t : Task) (n : HIdx) (v : BArr) : (t.bw n v).lock = t.lock := rfl
@[simp] theorem Task.bw_xphase (t : Task) (n : HIdx) (v : BArr) : (t.bw n v).xphase = t.xphase := rfl
@[simp] theorem Task.bw_xhold (t : Task) (n : HIdx) (v : BArr) : (t.bw n v).xhold = t.xhold := rfl
@[simp] theorem Task.bw_xsend (t : Task) (n : HIdx) (v : BArr) : (t.bw n v).xsend = t.xsend := rfl
@[simp] theorem Task.bw_rowWrites (t : Task) (n : HIdx) (v : BArr) : (t.bw n v).rowWrites = t.rowWrites := rfl
@[simp] theorem Task.bw_rowWait (t : Task) (n : HIdx) (v : BArr) : (t.bw n v).rowWait = t.rowWait := rfl
@[simp] theorem Task.bw_lockWait (t : Task) (n : HIdx) (v : BArr) : (t.bw n v).lockWait = t.lockWait := rfl
@[simp] theorem Task.bw_searching (t : Task) (n : HIdx) (v : BArr) : (t.bw n v).searching = t.searching := rfl
@[simp] theorem Task.bw_near (t : Task) (n : HIdx) (v : BArr) : (t.bw n v).near = t.near := rfl
@[simp] theorem Task.bw_follow (t : Task) (n : HIdx) (v : BArr) : (t.bw n v).follow = t.follow := rfl
@[simp] theorem Task.bw_doneA (t : Task) (n : HIdx) (v : BArr) : (t.bw n v).doneA = t.doneA := rfl
@[simp] theorem Task.bw_treeRound (t : Task) (n : HIdx) (v : BArr) : (t.bw n v).treeRound = t.treeRound := rfl

end Machine

end Sys2Proof
end

