-- ==== Sys2Proof/Tests/Slice0.lean ====
section
/-! SUPPORT. Tests of the model: ill-formed terms that are refused, the decoding of every row, the hypotheses of the statements met
by small states, and one step of some instructions. Expected values come from the manual. -/

namespace Sys2Proof.Tests

set_option Elab.async false

open Sys2Proof Sys2Proof.Machine

/-! ## Small states -/

/-- A leaf in a translation cache: partition 0, the attributes of R284 in the low bits, mapped to its own address. -/
def leaf (base size attr : Nat) : TlbEntry := ⟨0, base, size, BitVec.ofNat 64 (base + attr)⟩
/-- A task that runs on core 0 of partition 0 with its pc in translated memory. -/
def task : Task := { tid := 1, run := .running, pc := 0x01001000, allotn := 32, hvDecl := true, hvMade := true, livem := 0xFFFFFFFF, hatbox := 0xF00000700000 }
/-- The machine with that task in focus: cluster 0 and optimiser core 0 in partition 0; addresses 0 to 2^35 readable, writable and executable;
from 2^35 on one 2^21 page of each kind. -/
def base : State :=
  { t := task, nextTid := 2
    parts := [(0, { clusters := [0], opts := [0], supcore := 7, hbn := 16, hboff := 96, hcBase := 0x40000000, lqtab := 0x2800000, report := 0x3000000,
                    gqtab := 0x4000000, kvdesc := 0x5000000, fring := 0x6000000, vpool := 0x7000000, hpool := 0x8000000, vcount := 4, hcount := 4, kvn := 8 })]
    clusters := [(0, { tlb := [leaf 0 (2 ^ 35) 0x1D, leaf (2 ^ 35) (2 ^ 21) 0x2D, leaf (2 ^ 35 + 2 ^ 21) (2 ^ 21) 0x4D, leaf (2 ^ 35 + 2 * 2 ^ 21) (2 ^ 21) 0x8D,
                              leaf (2 ^ 35 + 3 * 2 ^ 21) (2 ^ 21) 0x10D, leaf (2 ^ 35 + 4 * 2 ^ 21) (2 ^ 21) 0x20D, leaf (2 ^ 35 + 5 * 2 ^ 21) (2 ^ 21) 0x40D] })]
    pkg := { booted := true } }
/-- The same with scalar registers set. -/
def st (l : List (Reg × W64)) : State := { base with t := l.foldl (fun t p => t.xw p.1 p.2) base.t }
/-- Vector registers set to one value in every element of w bytes. -/
def sv (w : Nat) (l : List (Reg × Nat)) (s : State := base) : State :=
  { s with t := l.foldl (fun t p => t.vw p.1 (BitVec.ofNat 2048 ((List.range (256 / w)).foldl (fun n _ => n * 256 ^ w + p.2) 0))) s.t }
/-- The unit that serves an address is under test. -/
def under (s : State) (pa : Nat) : State := { s with pkg := { s.pkg with units := [((placeUnit pa).getD 0, { testing := true })] } }
/-- The state that an access leaves, with the translation cached. -/
def landed_ {ε α : Type} (s : State) (r : Except ε (α × State)) : State := match r with | .ok q => q.2 | .error _ => s

/-! ## The hypotheses of the statements are met

`hyp_<statement>` shows a state and operands that meet the hypotheses of a statement of that name; each clause's at a boundary where
there is one. -/

/-- What an access that was located answers. -/
theorem located_ok {α : Type} {s : State} {r : Except Miss (α × State)} {a : α} (h : r.toOption.map (·.1) = some a) : r = .ok (a, landed_ s r) := by
  cases r with
  | error e => simp [Except.toOption] at h
  | ok q => simp only [Except.toOption, Option.map_some, Option.some.injEq] at h; simp [landed_, ← h]

/-- The state with the translation of an access cached. -/
def after_ (s : State) (a : W64) (n : Nat) (need : Need) : State := landed_ s (s.locate a n need)

theorem reaches_ {s : State} {a : W64} {n pa : Nat} {need : Need} {k : PageKind} (h1 : highAddr a = false) (h2 : a.toNat % n = 0)
    (h3 : ¬ (0x800000 ≤ a.toNat ∧ a.toNat < 0x01000000)) (h : (s.locate a n need).toOption.map (·.1) = some ⟨.at pa, k⟩) :
    Reaches s a n need pa k (after_ s a n need) := ⟨h1, h2, h3, located_ok h⟩

/-- A package in which no unit is off or retired serves every address. -/
theorem served_ (s : State) (h1 : s.pkg.dies = []) (h2 : s.pkg.units = []) (h3 : s.pkg.clusterPower = []) (h4 : s.pkg.optPower = []) (a : Nat) :
    s.served a = true := by
  have d (k : Nat) : (s.die k).power = .run := by unfold State.die; rw [h1]; rfl
  have u (k : Nat) : (s.unit 4 k).retired = false := by unfold State.unit; rw [h2]; rfl
  have c (k : Nat) : (s.clusterPower k).depth = 0 := by unfold State.clusterPower; rw [d, h3]; rfl
  have o (k : Nat) : (s.optPower k).depth = 0 := by unfold State.optPower; rw [d, h4]; rfl
  unfold State.served
  rw [d, u, c, o]
  split
  · rfl
  · split
    · rfl
    · split <;> rfl
theorem sound_ (s : State) (pa n : Nat) (h : (s.mem.wf && s.bad.isEmpty && s.pkg.dies.isEmpty && s.pkg.units.isEmpty && s.pkg.clusterPower.isEmpty
    && s.pkg.optPower.isEmpty) = true) : s.sound pa n ∧ s.healthy := by
  simp only [Bool.and_eq_true, List.isEmpty_iff] at h
  obtain ⟨⟨⟨⟨⟨h1, h2⟩, h3⟩, h4⟩, h5⟩, h6⟩ := h
  exact ⟨⟨h1, h2, fun k _ => served_ s h3 h4 h5 h6 _⟩, h1, h2, served_ s h3 h4 h5 h6⟩

theorem numbered_ (s : State) (h : s.tasks = []) : s.numbered := by
  intro n t q
  unfold State.task at q
  rw [h] at q
  by_cases a : n = 0
  · simp [a] at q
  · by_cases b : s.t.tid = n
    · rw [if_neg a, if_pos b] at q; cases q; exact b
    · rw [if_neg a, if_neg b] at q; cases q

theorem quiet_ {s : State} (h : s.t.seq.items = [] ∧ s.rd.seq.items = [] ∧ s.t.seq.busy = false ∧ s.rd.seq.busy = false ∧ s.t.seq.cap = none ∧ s.t.seq.loads = []
    ∧ s.t.loads = []) : s.quiet := h
theorem calm_ {s : State} (h : s.t.seq.items = [] ∧ s.rd.seq.items = [] ∧ s.t.seq.busy = false ∧ s.rd.seq.busy = false ∧ s.t.handleOps = []
    ∧ (∀ f ∈ s.sends, f.tid ≠ s.t.tid) ∧ s.t.answers = [] ∧ s.t.streams = [] ∧ s.t.seq.cap = none ∧ s.t.seq.loads = [] ∧ s.posted = [] ∧ s.t.wake = none
    ∧ s.t.st.ph ≠ .c ∧ s.rd.st.ph ≠ .c ∧ s.t.lock = none) : s.calm := h
theorem ready_ {s : State} {i : Instr} (h : check i s = none)
    (q : (s.t.seq.items = [] ∧ s.rd.seq.items = [] ∧ s.t.seq.busy = false ∧ s.rd.seq.busy = false ∧ s.t.seq.cap = none ∧ s.t.seq.loads = [] ∧ s.t.loads = [])
      ∧ s.t.streams = [] ∧ s.t.answers = []) : s.vectorReady i := ⟨h, q⟩
theorem handle_ {s : State} {i : Instr} (h : check i s = none ∧ s.t.st.ph ≠ .c ∧ s.rd.st.ph ≠ .c ∧ s.t.handleOps = [] ∧ s.t.handleReport = none
    ∧ s.t.wake = none ∧ s.t.acquires = false ∧ s.bad = [] ∧ s.pkg.units = []) : s.handleReady i := h
theorem begin_ {s : State} {i : Instr} (h : s.t.seq.begin s.tissued i ≤ s.tissued) : s.mayBegin i := h

/-- The state with fields of the task changed. -/
def on (s : State) (f : Machine.Task → Machine.Task) : State := { s with t := f s.t }
/-- The task at S level. -/
def sup : State := on base fun t => { t with st := { t.st with s := true, ps := true } }

theorem hyp_AluRegisterForms : base.noCapture := rfl
theorem hyp_Division : let s := st [(1, 0x8000000000000000), (2, -1)]; s.noCapture ∧ (s.xr 1).toInt = -(2 ^ 63) ∧ (s.xr 2).toInt = -1 := ⟨rfl, by decide +kernel⟩
theorem hyp_ImmediateForms : base.noCapture := rfl
theorem hyp_Transfers : base.noCapture ∧ base.t.slot = none ∧ ((st [(1, 4)]).xr 1).toNat % 4 = 0 ∧ ((st [(1, 3)]).xr 1).toNat % 4 ≠ 0
    ∧ (∃ w s1, base.fetch base.t.nextUnit = .ok (w, s1)) ∧ (-1 : Int) < 0 ∧ (0 : Int) ≤ 0 := ⟨rfl, rfl, by decide +kernel, by decide +kernel, ⟨_, _, rfl⟩, by decide, by decide⟩
theorem hyp_DelaySlotTransfer : (on base fun t => { t with slot := some 0x2000 }).t.slot ≠ none := by decide +kernel
theorem hyp_SupervisorOnly : base.t.st.s = false ∧ base.noCapture := ⟨rfl, rfl⟩
theorem hyp_TrapEntry : base.quiet ∧ base.t.answers = [] ∧ base.t.st.s = false := ⟨quiet_ (by decide +kernel), rfl, rfl⟩
theorem hyp_TrapEntry_sequencer : let s := on base fun t => { t with seq := { items := [.unit {}] } }; s.noCapture ∧ s.t.seq.items ≠ [] := ⟨rfl, by decide +kernel⟩
/-- A VRRD past its window stands in the sequencer; a delay slot, and what the unit at issue waits for. -/
def trapping (slot : Option W64) (waits : Bool) (cap : Option Capture := none) : State :=
  on base fun t => { t with slot := slot, trapWait := waits, seq := { items := [.unit { c := some ⟨.vrrd 1 2 3 0 7, 0x01000FFC, 0, 8, 8, false, false, false⟩ }], cap := cap } }
theorem hyp_TrapEntry_vector (slot : Option W64) (cap : Option Capture) (w : Bool)
    (h : (slot, w, cap) ∈ [(none, false, none), (some 0x2000, true, none), (none, true, some ⟨2, 16, [], 0x01000FF8⟩)]) : let s := trapping slot w cap
    s.t.run = .running ∧ s.t.seq.busy = false ∧ s.t.hold ≤ s.tclock ∧ s.userPending = false ∧ s.t.loads = [] ∧ s.t.wake = none
    ∧ (match s.seqStep with | .traps a c v r _ e => a == 0x01000FFC && c == .window && v == 8 && r.isNone && e.isNone | _ => false) = true
    ∧ (s.t.trapWait = true ∨ s.t.slot = none ∧ s.t.seq.cap = none) ∧ s.t.seq.wait = none ∧ s.t.doneA = false ∧ s.t.matrixReport = none ∧ s.t.answers = []
    ∧ s.t.seq.loads = [] ∧ s.t.st.s = false := by
  simp only [List.mem_cons, Prod.mk.injEq, List.not_mem_nil, or_false] at h
  rcases h with ⟨rfl, rfl, rfl⟩ | ⟨rfl, rfl, rfl⟩ | ⟨rfl, rfl, rfl⟩ <;> decide +kernel
theorem hyp_DoubleTrap : sup.quiet ∧ sup.t.st.s = true := ⟨quiet_ (by decide +kernel), rfl⟩
theorem hyp_ReturnFromTrap : base.quiet ∧ base.t.slot = none ∧ base.t.st.s = false ∧ sup.quiet ∧ sup.t.slot = none ∧ sup.t.st.s = true :=
  ⟨quiet_ (by decide +kernel), rfl, rfl, quiet_ (by decide +kernel), rfl, rfl⟩
theorem hyp_HaltUretResume : sup.noCapture ∧ sup.t.slot = none ∧ sup.t.wake = none ∧ (base.wokenWith 0).t.wake ≠ none ∧ sup.t.st.uia = false
    ∧ (on base fun t => { t with st := { t.st with uia := true } }).t.st.uia = true ∧ sup.t.st.s = true ∧ sup.t.st.ph ≠ .c
    ∧ sup.inPart sup.t.part 0 = true ∧ sup.inPart sup.t.part 7 = true ∧ sup.inPart sup.t.part 8 = false ∧ sup.inPart sup.t.part 0x1000 = true :=
  ⟨rfl, rfl, rfl, by decide +kernel⟩
theorem hyp_SystemRegisters : base.noCapture ∧ base.t.st.s = false ∧ sup.noCapture ∧ sup.t.st.s = true ∧ ((st [(1, 3)]).xr 1).toNat % 4 = 3
    ∧ ((st [(1, 2)]).xr 1).toNat % 4 ≠ 3 ∧ (on (st []) fun t => { t with hvDecl := false }).t.hvDecl = false := ⟨rfl, rfl, rfl, by decide +kernel⟩
theorem hyp_LiveMask : base.quiet := quiet_ (by decide +kernel)
theorem hyp_Allotment : base.quiet ∧ 32 < ((st [(1, 33)]).xr 1).toNat ∧ ((st [(1, 32)]).xr 1).toNat ≤ 32
    ∧ (on base fun t => { t with hvMade := false }).t.hvMade = false ∧ isOpt base.t.core = false ∧ base.t.hvMade = true :=
  ⟨quiet_ (by decide +kernel), by decide +kernel⟩

theorem hyp_Loads (sz : Sz) : let s := st [(1, 0x200000 - BitVec.ofNat 64 sz.bytes)]; let a := s.xr 1 + BitVec.ofInt 64 (0 * sz.bytes)
    s.calm ∧ Reaches s a sz.bytes { r := true } (0xF00000200000 - sz.bytes) .plain (after_ s a sz.bytes { r := true }) ∧ (after_ s a sz.bytes { r := true }).bad = [] := by
  cases sz <;> exact ⟨calm_ (by decide +kernel), reaches_ (by decide +kernel) (by decide +kernel) (by decide +kernel) (by decide +kernel), by decide +kernel⟩
/-- A compute phase. -/
def computing (s : State) : State := on s fun t => { t with st := { t.st with ph := .c } }
theorem hyp_Loads_compute (sz : Sz) : let s := computing (st [(1, 0x200000 - BitVec.ofNat 64 sz.bytes)]); let a := s.xr 1 + BitVec.ofInt 64 (0 * sz.bytes)
    s.t.st.ph = .c ∧ State.calm { s with t := { s.t with st := { s.t.st with ph := .n } } } ∧ a.toNat + sz.bytes ≤ 0x800000
    ∧ Reaches s a sz.bytes { r := true } (0xF00000200000 - sz.bytes) .plain (after_ s a sz.bytes { r := true }) ∧ after_ s a sz.bytes { r := true } = s ∧ s.bad = [] := by
  cases sz <;> exact ⟨rfl, calm_ (by decide +kernel), by decide +kernel, reaches_ (by decide +kernel) (by decide +kernel) (by decide +kernel) (by decide +kernel), by decide +kernel, rfl⟩
theorem hyp_Loads_phase (a : W64) (h : a ∈ [0x7FFFF8, 0x800000]) : let s := computing (st [(1, a)])
    highAddr (s.xr 1) = false ∧ (s.xr 1).toNat % 8 = 0 ∧ (Sc.dev ≠ Sc.plain) ∧ (a = 0x800000 → 0x800000 < (s.xr 1).toNat + 8) := by
  simp only [List.mem_cons, List.not_mem_nil, or_false] at h
  rcases h with rfl | rfl <;> decide +kernel
theorem hyp_Stores (sz : Sz) : let s := st [(1, 0x01000000)]; let a := s.xr 1 + BitVec.ofInt 64 (0 * sz.bytes)
    let s1 := after_ s a sz.bytes { w := true }
    s.calm ∧ Reaches s a sz.bytes { w := true } 0x01000000 .plain s1 ∧ s1.sound 0x01000000 sz.bytes := by
  cases sz <;> exact ⟨calm_ (by decide +kernel), reaches_ (by decide +kernel) (by decide +kernel) (by decide +kernel) (by decide +kernel), (sound_ _ _ _ (by decide +kernel)).1⟩
theorem hyp_Stores_view : let s := st [(1, 0x800200000)]; let a := s.xr 1 + BitVec.ofInt 64 (0 * (4 : Nat)); let s1 := after_ s a 4 { w := true }
    s.calm ∧ Reaches s a 4 { w := true } 0x800200000 .view s1 ∧ s1.sound 0x800200000 4 :=
  ⟨calm_ (by decide +kernel), reaches_ (by decide +kernel) (by decide +kernel) (by decide +kernel) (by decide +kernel), (sound_ _ _ _ (by decide +kernel)).1⟩
/-- Place, page kind and answer of an access of 8 bytes. -/
def finds_ (s : State) (need : Need) (p : Place) (k : PageKind) : Bool := (s.locate (s.xr 1) 8 need).toOption.any fun q => decide (q.1 = ⟨p, k⟩)
theorem finds_of {s : State} {need : Need} {p : Place} {k : PageKind} (h1 : highAddr (s.xr 1) = false) (h2 : (s.xr 1).toNat % 8 = 0)
    (h3 : ¬ (0x800000 ≤ (s.xr 1).toNat ∧ (s.xr 1).toNat < 0x01000000)) (h : finds_ s need p k = true) : ∃ s1, Finds s (s.xr 1) 8 need p k s1 := by
  unfold finds_ at h
  cases e : s.locate (s.xr 1) 8 need with
  | error m => simp [e, Except.toOption] at h
  | ok q =>
    simp only [e, Except.toOption, Option.any_some, decide_eq_true_eq] at h
    exact ⟨q.2, h1, h2, h3, by rw [e, ← h]⟩
theorem hyp_TrapSave : let s := on (st [(1, 0x800040)]) fun t => { t with st := { t.st with s := true } }; s.calm ∧ s.xr 1 + BitVec.ofInt 64 (0 * Sz.d.bytes) = 0x800040 + 8 * BitVec.ofNat 64 (0 : Fin 8).val
    ∧ s.t.st.s = true ∧ (st [(1, 0x800040)]).t.st.s = false := ⟨calm_ (by decide +kernel), by decide +kernel⟩
theorem hyp_Stores_read : let s := st [(1, 0x1FFFF8)]; s.calm ∧ s.old = none ∧ (∀ u ∈ s.allTasks, u.saved = false) ∧ (s.xr 1).toNat + 8 ≤ 0x200000
    ∧ (s.xr 1).toNat % 8 = 0 ∧ s.evals = [] ∧ s.pkg.units = []
    ∧ s.parts.vals.all (fun p => decide (p.hcCapacity * 64 + 64 + p.hcBase ≤ 0xF00000000000 ∧ p.kvdesc + 32 * p.kvn ≤ 0xF00000000000)) = true
    ∧ assigned (windowPa s.t.core (s.xr 1).toNat + 7) = true ∧ s.sound (windowPa s.t.core (s.xr 1).toNat) 8 :=
  ⟨calm_ (by decide +kernel), by decide +kernel, by decide +kernel, by decide +kernel, by decide +kernel, by decide +kernel, by decide +kernel, by decide +kernel, by decide +kernel,
    (sound_ _ _ _ (by decide +kernel)).1⟩
theorem hyp_Atomics : let s := st [(1, 0x01000008)]; let s1 := after_ s (s.xr 1) 8 { r := true, w := true }
    s.calm ∧ Reaches s (s.xr 1) 8 { r := true, w := true } 0x01000008 .plain s1 ∧ PageKind.plain ∉ [.view, .versioned, .kv] ∧ 0x01000008 < 0xFC0000000000
    ∧ s1.sound 0x01000008 8 ∧ s1.lockGrant (lockKey 0x01000008) s.t.tid = true :=
  ⟨calm_ (by decide +kernel), reaches_ (by decide +kernel) (by decide +kernel) (by decide +kernel) (by decide +kernel), by decide +kernel, by decide +kernel,
    (sound_ _ _ _ (by decide +kernel)).1, by decide +kernel⟩
theorem hyp_Atomics_word : let s := st [(1, 0x800000004)]; let s1 := after_ s (s.xr 1) 4 { r := true, w := true }
    s.calm ∧ Reaches s (s.xr 1) 4 { r := true, w := true } 0x800000004 .master s1 ∧ s1.sound 0x800000004 4 ∧ s1.lockGrant (lockKey 0x800000004) s.t.tid = true :=
  ⟨calm_ (by decide +kernel), reaches_ (by decide +kernel) (by decide +kernel) (by decide +kernel) (by decide +kernel), (sound_ _ _ _ (by decide +kernel)).1, by decide +kernel⟩
/-- The task holds the lock of the word at 0x01000008, or (none) no lock. -/
def locking (l : Option (W64 × Nat × Nat)) : State := on (st [(1, 0x01000008)]) fun t => { t with lock := l }
theorem hyp_Locks (l : Option (W64 × Nat × Nat)) (h : l = none ∨ l = some (0x01000008, 8, 0x01000008)) :
    let s := locking l; let s1 := after_ s (s.xr 1) 8 { r := true, w := true }
    s.t.seq.items = [] ∧ s.t.seq.cap = none ∧ s.posted = [] ∧ s.t.st.ph ≠ .c ∧ Reaches s (s.xr 1) 8 { r := true, w := true } 0x01000008 .plain s1
    ∧ s1.sound 0x01000008 8 ∧ (s.t.lock = none ∨ s.t.lock = some (s.xr 1, 8, 0x01000008)) ∧ s1.lockGrant (lockKey 0x01000008) s.t.tid = true := by
  rcases h with rfl | rfl <;>
    exact ⟨by decide +kernel, by decide +kernel, by decide +kernel, by decide +kernel, reaches_ (by decide +kernel) (by decide +kernel) (by decide +kernel) (by decide +kernel),
      (sound_ _ _ _ (by decide +kernel)).1, by decide +kernel, by decide +kernel⟩
/-- The cells of words at an address, the blank ones left out. -/
def nz (a : Nat) (ws : List Nat) : List Host.Cell := (wordCells a ws).filter fun c => c.2 != Memory.blank
/-- A versioned word with floor 1 and last version l. -/
def ver (l : W16) (v : W64) : State := { (st [(1, 0x800400000), (2, v)]) with versions := [(0x800400000, ⟨1, l, List.replicate (l.toNat) 7⟩)] }
theorem hyp_Versioned : let s := ver 4 0; let s1 := after_ s (s.xr 1) 8 { r := true }; let s2 := after_ s (s.xr 1) 8 { w := true }
    s.numbered ∧ s.calm ∧ Reaches s (s.xr 1) 8 { r := true } 0x800400000 .versioned s1 ∧ Reaches s (s.xr 1) 8 { w := true } 0x800400000 .versioned s2
    ∧ 0x01000000 ≤ (s.xr 1).toNat ∧ s1.bad = [] ∧ (s2.verOf 0x800400000) = ⟨1, 4, List.replicate 4 7⟩ :=
  ⟨numbered_ _ rfl, calm_ (by decide +kernel), reaches_ (by decide +kernel) (by decide +kernel) (by decide +kernel) (by decide +kernel),
    reaches_ (by decide +kernel) (by decide +kernel) (by decide +kernel) (by decide +kernel), by decide +kernel⟩
theorem hyp_Places (need : Need) (h : need ∈ [({ r := true } : Need), { w := true }]) :
    (let s := { (st [(1, 0x800800000)]) with mem := ⟨nz 0x800800040 [1], []⟩ }; s.calm ∧ ∃ s1, Finds s (s.xr 1) 8 need (.absent 0x800800000 0x800800040) .remap s1)
    ∧ (let s := { (st [(1, 0x800A00000)]) with mem := ⟨nz 0x5000000 [2, 0x7000000, 2 ^ 32, 0] ++ nz 0x800A00000 [64] ++ nz 0x800A00040 [2 ^ 63], []⟩ }; s.calm ∧ ∃ s1, Finds s (s.xr 1) 8 need .evicted .kv s1)
    ∧ (let s := ver 4 0; s.calm ∧ ∃ s1, Reaches s (s.xr 1) 8 need 0x800400000 .versioned s1) := by
  simp only [List.mem_cons, List.not_mem_nil, or_false] at h
  rcases h with rfl | rfl <;> refine ⟨⟨calm_ (by decide +kernel), finds_of ?_ ?_ ?_ ?_⟩, ⟨calm_ (by decide +kernel), finds_of ?_ ?_ ?_ ?_⟩, calm_ (by decide +kernel), finds_of ?_ ?_ ?_ ?_⟩ <;> decide +kernel
theorem hyp_Versioned_clauses : (ahead 4 4 = false ∧ ahead 1 4 = false) ∧ ahead 5 4 = true ∧ (ahead 0 4 = false ∧ ahead 1 0 = true) ∧ (4 - 1 : W16).toNat = 3
    ∧ (3 - 1 : W16).toNat ≠ 3 := by decide
/-- A full-empty word whose bit is b. -/
def feWord (b : Bool) : State := { (st [(1, 0x800600000)]) with fullBits := [(0x800600000, b)] }
theorem hyp_FullEmpty (b : Bool) : let s := feWord b; let s1 := after_ s (s.xr 1) 8 { r := true }; let s2 := after_ s (s.xr 1) 8 { r := true, w := true }
    let s3 := after_ s (s.xr 1) 8 { w := true }
    s.calm ∧ 0x01000000 ≤ (s.xr 1).toNat ∧ Reaches s (s.xr 1) 8 { r := true } 0x800600000 .fe s1 ∧ Reaches s (s.xr 1) 8 { r := true, w := true } 0x800600000 .fe s2
    ∧ Reaches s (s.xr 1) 8 { w := true } 0x800600000 .fe s3 ∧ s1.bad = [] ∧ s2.bad = [] ∧ s3.sound 0x800600000 8 ∧ s1.isFull 0x800600000 = b
    ∧ s2.isFull 0x800600000 = b ∧ ∀ u ∈ s3.allTasks, u.run = .running := by
  cases b <;> exact ⟨calm_ (by decide +kernel), by decide +kernel, reaches_ (by decide +kernel) (by decide +kernel) (by decide +kernel) (by decide +kernel),
    reaches_ (by decide +kernel) (by decide +kernel) (by decide +kernel) (by decide +kernel), reaches_ (by decide +kernel) (by decide +kernel) (by decide +kernel) (by decide +kernel),
    by decide +kernel, by decide +kernel, (sound_ _ _ _ (by decide +kernel)).1, by decide +kernel, by decide +kernel, by decide +kernel⟩
theorem hyp_Fence : base.quiet ∧ base.t.st.ph ≠ .c ∧ base.t.handleReport = none ∧ base.settled = true ∧ base.t.rowWrites.all base.published = true
    ∧ ({ base with posted := [⟨1, []⟩] } : State).settled = false ∧ base.rd.st.ph ≠ .c := ⟨quiet_ (by decide +kernel), by decide +kernel⟩
/-- Page tables that map everything below 2^35 to itself, and the cells above them. -/
def paged (s : State) (l : List Host.Cell) : State :=
  { s with mem := ⟨[(0x02000000, 1), (0x02000002, 1), (0x02000003, 2), (0x02010000, 0x1F)] ++ l, []⟩, parts := s.parts.put 0 { s.part 0 with root := probeRoot } }

/-- What an access answers. -/
def got {α : Type} [Inhabited α] (r : Except Miss (α × State)) : α := match r with | .ok q => q.1 | .error _ => default
theorem got_ok {α : Type} [Inhabited α] {s : State} {r : Except Miss (α × State)} (h : r.toOption.isSome = true) : r = .ok (got r, landed_ s r) := by
  cases r with
  | error e => simp [Except.toOption] at h
  | ok q => rfl

/-- x1 at 64 below the end of the local window, x2 a small integer, x3 negative, with task tables at hand. -/
def vs : State := st [(1, 0x1FFF00), (2, 0), (3, 32), (4, 300)]
theorem hyp_VectorArithmetic : vs.vectorReady (.vadd 1 2 3 0 .fp32) ∧ vs.vectorReady (.vaddX 1 2 3 7 .int8) :=
  ⟨ready_ (by decide +kernel) (by decide +kernel), ready_ (by decide +kernel) (by decide +kernel)⟩
theorem first_ {ft : Ft} {on : Nat → Bool} {n : Nat} {y : Nat → Nat} (e : Nat) (h1 : e < n ∧ on e = true ∧ (decodeEl ft (y e)).nonFinite = true)
    (h2 : (List.range e).all (fun k => !on k || !(decodeEl ft (y k)).nonFinite) = true) : FirstNonFinite ft on n y e :=
  ⟨h1.1, h1.2.1, h1.2.2, fun k hk h => by
    have q := List.all_eq_true.mp h2 k (List.mem_range.mpr hk)
    simpa [h] using q⟩
theorem finite_ {ft : Ft} {on : Nat → Bool} {n : Nat} {y : Nat → Nat} (h : (List.range n).all (fun k => !on k || !(decodeEl ft (y k)).nonFinite) = true) (e : Nat) :
    ¬ FirstNonFinite ft on n y e := fun q => by
  have p := List.all_eq_true.mp h e (List.mem_range.mpr q.1)
  simp [q.2.1, q.2.2.1] at p
/-- With NFT set, v2 and v3 full of the largest fp32, of +inf and of 1. -/
def nft (n : Nat) : State := sv 4 [(2, n), (3, n)] (on vs fun t => { t with st := { t.st with nft := true } })
theorem hyp_VectorArithmetic_begins : vs.mayBegin (.vadd 1 2 3 0 .fp32) ∧ vs.mayBegin (.vfmaX 31 30 29 7 .bf16) := ⟨begin_ (by decide +kernel), begin_ (by decide +kernel)⟩
theorem hyp_VectorArithmetic_nonfinite : let s := nft 0x7F7FFFFF
    let sum (e : Nat) := roundNE .fp32 (FV.add (decodeEl .fp32 (elemAt 4 (s.vr 2) e)) (decodeEl .fp32 (elemAt 4 (s.vr 3) e)))
    let difference (e : Nat) := roundNE .fp32 (FV.sub (decodeEl .fp32 (elemAt 4 (s.vr 2) e)) (decodeEl .fp32 (elemAt 4 (s.vr 3) e)))
    s.vectorReady (.vadd 1 2 3 0 .fp32) ∧ s.mayBegin (.vadd 1 2 3 0 .fp32) ∧ s.rd.st.nft = true ∧ s.t.inA = s.old.isSome ∧ s.t.rowWait = []
    ∧ FirstNonFinite .fp32 (fun e => (s.pr 0).getLsbD (4 * e)) 64 sum 0 ∧ ∀ e, ¬ FirstNonFinite .fp32 (fun e => (s.pr 0).getLsbD (4 * e)) 64 difference e :=
  ⟨ready_ (by decide +kernel) (by decide +kernel), begin_ (by decide +kernel), rfl, rfl, rfl, first_ 0 (by decide +kernel) (by decide +kernel), finite_ (by decide +kernel)⟩
theorem hyp_VectorLogicAndCompares : vs.vectorReady (.vand 1 2 3 0 .int8) ∧ Ft.int8.isFloat = false ∧ vs.vectorReady (.vceq 1 2 3 0 .fp16) :=
  ⟨ready_ (by decide +kernel) (by decide +kernel), rfl, ready_ (by decide +kernel) (by decide +kernel)⟩
theorem hyp_MovesAndPredicates : vs.vectorReady (.vadd 1 2 3 0 .fp32) := ready_ (by decide +kernel) (by decide +kernel)
theorem hyp_PermutesAndLanes : vs.vectorReady (.vadd 1 2 3 0 .fp32) ∧ vs.vectorReady (.vadd 1 24 24 0 .fp32) ∧ 24 + 7 < vs.rd.allotn ∧ (24 : Reg).val + 7 < 32 :=
  ⟨ready_ (by decide +kernel) (by decide +kernel), ready_ (by decide +kernel) (by decide +kernel), by decide +kernel⟩
theorem hyp_PermutesAndLanes_window : let s := on vs fun t => t.xw 3 8; s.vectorReady (.vadd 1 2 2 0 .int8) ∧ s.mayBegin (.vrrd 1 24 3 0 7) ∧ s.mayBegin (.vrwr 24 1 3 0 7)
    ∧ (7 : Fin 8).val < (s.xr 3).toNat ∧ (24 : Reg).val + (7 : Fin 8).val < s.rd.allotn ∧ (24 : Reg).val + (7 : Fin 8).val < 32 ∧ s.t.inA = s.old.isSome ∧ s.t.rowWait = [] :=
  ⟨ready_ (by decide +kernel) (by decide +kernel), begin_ (by decide +kernel), begin_ (by decide +kernel), by decide +kernel⟩
theorem hyp_ConvertAndFunctions : vs.vectorReady (.vadd 1 2 2 0 .bf16) ∧ vs.rd.st.nft = false := ⟨ready_ (by decide +kernel) (by decide +kernel), by decide +kernel⟩
theorem hyp_ConvertAndFunctions_nonfinite : let s := nft 0
    let rcp := lanes 4 (fun _ a _ _ => SF.rcp.eval .fp32 true false a (decodeEl .fp32 a)) (s.pr 0) (s.vr 2) 0 (s.vr 1)
    s.vectorReady (.vadd 1 2 2 0 .fp32) ∧ s.mayBegin (.vrcp 1 2 0 .fp32) ∧ s.rd.st.nft = true ∧ FirstNonFinite .fp32 (fun e => (s.pr 0).getLsbD (4 * e)) 64 (elemAt 4 rcp) 0
    ∧ FirstNonFinite .e5m2 (fun e => (s.pr 0).getLsbD e) 256 (fun e => if 64 ≤ e then 0 else convertEl .fp32 .e5m2 false (elemAt 4 ((nft 0x7F800000).vr 2) e)) 0 :=
  ⟨ready_ (by decide +kernel) (by decide +kernel), begin_ (by decide +kernel), rfl, first_ 0 (by decide +kernel) (by decide +kernel), first_ 0 (by decide +kernel) (by decide +kernel)⟩
theorem hyp_Reductions : vs.vectorReady (.vadd 2 2 2 0 .int32) ∧ (vs.rd.st.nft = false ∨ Ft.int32.isFloat = false) := ⟨ready_ (by decide +kernel) (by decide +kernel), by decide +kernel⟩
theorem hyp_Reductions_nonfinite : let s := nft 0x7F800000; s.vectorReady (.vadd 2 2 2 0 .fp32) ∧ s.mayBegin (.vrsum 1 2 0 .fp32) ∧ s.rd.st.nft = true
    ∧ (Red.sum.float .fp32 (s.pr 0) (s.vr 2)).nonFinite = true ∧ (Red.sum.float .fp32 (s.pr 0) ((nft 0x3F800000).vr 2)).nonFinite = false :=
  ⟨ready_ (by decide +kernel) (by decide +kernel), begin_ (by decide +kernel), rfl, by decide +kernel⟩

/-- The pieces of an access of n bytes a piece, all lanes active. -/
def vpieces (n : Nat) (need : Need) (addr : Nat → W64) : Except Miss (List (Nat × Piece) × State) :=
  vecPieces true n need .plain (activePieces n (vs.pr 0) addr) vs
theorem hyp_VectorLoads : let r := vpieces 64 { r := true } fun j => vs.xr 1 + vs.xr 2 + BitVec.ofNat 64 (64 * j); let s1 := landed_ vs r
    vs.vectorReady (.vld 1 1 2 0 .plain) ∧ vs.posted = [] ∧ vs.t.st.ph ≠ .c ∧ r = .ok (got r, s1) ∧ s1.bad = []
    ∧ ∀ q ∈ got r, q.2.place = .at (0xF000001FFF00 + 64 * q.1) :=
  ⟨ready_ (by decide +kernel) (by decide +kernel), by decide +kernel, by decide +kernel, got_ok (by decide +kernel), by decide +kernel, by decide +kernel⟩
theorem hyp_VectorLoads_strided : let r := vpieces 32 { r := true } fun j => vs.xr 1 + BitVec.ofNat 64 j * vs.xr 3; let s1 := landed_ vs r
    r = .ok (got r, s1) ∧ s1.bad = [] ∧ ∀ q ∈ got r, q.2.place = .at (0xF000001FFF00 + 32 * q.1) := ⟨got_ok (by decide +kernel), by decide +kernel, by decide +kernel⟩
theorem hyp_VectorLoads_indexed : let r := vpieces 32 { r := true } fun j => vs.xr 1 + BitVec.ofNat 64 (32 * ((vs.xr 2).toNat / 256 ^ j % 256)); let s1 := landed_ vs r
    r = .ok (got r, s1) ∧ s1.bad = [] ∧ ∀ q ∈ got r, q.2.place = .at 0xF000001FFF00 := ⟨got_ok (by decide +kernel), by decide +kernel, by decide +kernel⟩
theorem hyp_VectorLoads_compute : let s := computing vs; let r := vecPieces true 64 { r := true } .plain (activePieces 64 (s.pr 0) fun j => s.xr 1 + s.xr 2 + BitVec.ofNat 64 (64 * j)) s
    s.vectorReady (.vld 1 1 2 0 .plain) ∧ s.mayBegin (.vld 1 1 2 0 .plain) ∧ s.t.st.ph = .c ∧ r = .ok (got r, landed_ s r) ∧ (landed_ s r).bad = []
    ∧ ∀ q ∈ got r, q.2.place = .at (0xF000001FFF00 + 64 * q.1) :=
  ⟨ready_ (by decide +kernel) (by decide +kernel), begin_ (by decide +kernel), rfl, got_ok (by decide +kernel), by decide +kernel, by decide +kernel⟩
theorem hyp_VectorLoads_phase : let s := computing (on vs fun t => t.xw 1 0x800000)
    ∃ q rest, activePieces 64 (s.pr 0) (fun j => s.xr 1 + s.xr 2 + BitVec.ofNat 64 (64 * j)) = q :: rest ∧ highAddr q.2 = false ∧ q.2.toNat % 64 = 0 ∧ 0x800000 < q.2.toNat + 64 := ⟨_, _, rfl, by decide +kernel⟩
theorem hyp_VectorStores : let r := vpieces 64 { w := true } fun j => vs.xr 1 + vs.xr 2 + BitVec.ofNat 64 (64 * j); let s1 := landed_ vs r
    let pa (j : Nat) := 0xF000001FFF00 + 64 * j
    vs.vectorReady (.vst 1 1 2 0 .plain) ∧ vs.posted = [] ∧ r = .ok (got r, s1) ∧ s1.healthy ∧ (∀ q ∈ got r, q.2.place = .at (pa q.1))
    ∧ ∀ j l, j < 256 / 64 → l < 256 / 64 → j ≠ l → pa j + 64 ≤ pa l ∨ pa l + 64 ≤ pa j :=
  ⟨ready_ (by decide +kernel) (by decide +kernel), by decide +kernel, got_ok (by decide +kernel), (sound_ _ 0 0 (by decide +kernel)).2, by decide +kernel, by intro j l; dsimp only; omega⟩
theorem hyp_VectorStores_begins : vs.mayBegin (.vst 1 1 2 0 .plain) ∧ vs.mayBegin (.vstx 1 1 2 0 .plain) := ⟨begin_ (by decide +kernel), begin_ (by decide +kernel)⟩
theorem hyp_Statistics : vs.vectorReady (.vsmx 1 2 3 0 .fp32) ∧ vs.rd.st.nft = false := ⟨ready_ (by decide +kernel) (by decide +kernel), by decide +kernel⟩
theorem hyp_Statistics_nonfinite : let s := nft 0x7F800000; s.vectorReady (.vsmx 1 2 3 0 .fp32) ∧ s.mayBegin (.vlse 1 2) ∧ s.rd.st.nft = true ∧ (s.stat 0).empty = true
    ∧ (f32 (((s.stat 0).gather .fp32 (s.pr 0) (s.vr 2)).finish 0 true false).mean).nonFinite = true := 
  ⟨ready_ (by decide +kernel) (by decide +kernel), begin_ (by decide +kernel), rfl, by decide +kernel⟩
theorem hyp_SequencerControl : base.noCapture ∧ base.t.inA = false ∧ base.t.slot = none ∧ base.t.seq.occ + 16 ≤ 16 ∧ base.quiet ∧ base.old = none ∧ base.t.seq.occ < 64 :=
  ⟨rfl, rfl, rfl, by decide +kernel, quiet_ (by decide +kernel), by decide +kernel⟩
/-- n words in the sequencer, the unit still taken, a capture. -/
def holding (n : Nat) (busy : Bool) (cap : Option Capture := none) : State := on base fun t => { t with seq := { t.seq with items := List.replicate n (.unit { c := some ⟨.vadd 1 2 3 0 .fp32, 0, 0, 0, 0, false, false, false⟩ }), busy := busy, cap := cap } }
theorem hyp_SequencerControl_words : isVector (.vadd 4 5 6 0 .fp32) = true ∧ check (.vadd 4 5 6 0 .fp32) (holding 16 false) = none
    ∧ ((holding 15 false).t.seq.items ≠ [] ∧ (holding 15 false).t.seq.occ < 16) ∧ ((holding 16 false).t.seq.items ≠ [] ∧ 16 ≤ (holding 16 false).t.seq.occ)
    ∧ (holding 0 true).begins (.vadd 4 5 6 0 .fp32) {} = false ∧ (holding 0 true).rd.seq.busy = true ∧ 16 < (holding 1 false).t.seq.occ + 16
    ∧ ∀ c ∈ [(⟨3, 1, [], 0⟩ : Capture), ⟨0, 1, [], 0⟩, ⟨3, 2, [], 0⟩], (holding 0 false (some c)).t.seq.cap = some c ∧ check (.vadd 4 5 6 0 .fp32) (holding 0 false (some c)) = none := by decide +kernel
/-- A task that waits to read from a neighbour of core c. -/
def vnrdTask (n c : Nat) (k : Dir) : Machine.Task :=
  { task with tid := n, core := c, seq := { wait := some { since := 0 }, items := [.unit { c := some ⟨.vnrd 1 2 3 0 k, 0x01001000, 0, 0, 0, false, false, false⟩ }] } }
def reading : State := { base with t := vnrdTask 1 0 .east, tasks := [(2, vnrdTask 2 1 .west)], now := 2000 }
theorem hyp_NeighbourReads_timeout : (vnrdTask 1 0 .east).seq.wait.any (fun w => decide (w.last < reading.clock (dieOf 0))) = true
    ∧ ({ reading with now := 0 } : State).clock (dieOf 0) ≤ 0 := by decide +kernel
theorem hyp_NeighbourReads : base.vectorReady (.vnrd 1 2 3 0 .west) ∧ neighbour base.t.core .west = none ∧ neighbour base.t.core .east ≠ none ∧ base.t.seq.wait = none :=
  ⟨ready_ (by decide +kernel) (by decide +kernel), by decide +kernel⟩
theorem hyp_NeighbourReads_match : let s := reading; let t := vnrdTask 1 0 .east; let u := vnrdTask 2 1 .west
    s.task t.tid = some t ∧ s.task u.tid = some u ∧ t.tid ≠ u.tid ∧ t.vnrdNow = some (1, 2, 3, 0, .east) ∧ u.vnrdNow = some (1, 2, 3, 0, Dir.east.opp)
    ∧ neighbour t.core .east = some u.core ∧ t.streams = [] ∧ u.streams = [] ∧ (3 : Pg) ≠ 0 ∧ (0 : Nat) + t.ntmo.toNat < s.now := by decide +kernel

/-- A stream descriptor at address 0x01000000: the base, counts of one. -/
def strm_ (b : Nat) : State := { (st [(1, 0x01000000)]) with mem := Memory.setBytes {} (leCells 0x01000000 8 b ++ leCells (0x01000000 + 32) 8 (2 ^ 32 + 1) ++ leCells (0x01000000 + 40) 8 1) }
theorem hyp_StreamBindings (b : Nat) (h : b = 0x01001000 ∨ b = 0x01001001) : let s := strm_ b
    let r := s.locatePieces 64 64 { r := true } .plain [s.xr 1]; let s1 := landed_ s r
    r = .ok (got r, s1) ∧ s.quiet ∧ (31 : Reg).val < s.t.allotn ∧ s.t.st.ph ≠ .c ∧ s.posted = [] ∧ s1.bad = [] ∧ (s.xr 1).toNat % 64 = 0
    ∧ absents ((got r).map (·.place)) = [] ∧ streamOk (s1.piecesValue 64 (got r)) = decide (b = 0x01001000) := by
  rcases h with rfl | rfl <;> exact ⟨got_ok (by decide +kernel), quiet_ (by decide +kernel), by decide +kernel⟩

theorem hyp_HypervectorArithmetic (w : W64) (h : w ∈ [0, 1, 127, 128]) : check (.hvbind 1 2 3) base = none ∧ check (.hvbund 1 2 1 false) (st [(1, w)]) = none
    ∧ ((w.toNat = 0 ∨ 127 < w.toNat) ∨ 1 ≤ w.toNat ∧ w.toNat ≤ 127) := by
  simp only [List.mem_cons, List.not_mem_nil, or_false] at h
  rcases h with rfl | rfl | rfl | rfl <;> decide +kernel
theorem hyp_HypervectorMemory (n : Nat) (need : Need) (h : (n, need) ∈ [(16, ({ r := true } : Need)), (16, { w := true }), (256, { r := true })]) : let s := st [(1, 64)]
    let r := s.locatePieces 64 64 need .plain (granuleVas (s.xr 1) n); let s1 := landed_ s r
    let pa (j : Nat) := 0xF00000000040 + 64 * j
    r = .ok (got r, s1) ∧ s1.healthy ∧ s.calm ∧ Pieced (got r) pa ∧ (∀ i j, i < n → j < n → i ≠ j → pa i + 64 ≤ pa j ∨ pa j + 64 ≤ pa i)
    ∧ check (.hvldB 1 1 .plain) s = none ∧ (got r).length = n ∧ (s.xr 1).toNat % 64 = 0 := by
  simp only [List.mem_cons, Prod.mk.injEq, List.not_mem_nil, or_false] at h
  rcases h with ⟨rfl, rfl⟩ | ⟨rfl, rfl⟩ | ⟨rfl, rfl⟩ <;>
    exact ⟨got_ok (by decide +kernel), (sound_ _ 0 0 (by decide +kernel)).2, calm_ (by decide +kernel), by unfold Pieced; decide +kernel, by intro i j; dsimp only; omega, by decide +kernel⟩
/-- An item memory of 8 items. -/
def items_ (q : W64) : State := { (st [(1, q)]) with clusters := [(0, { imctl := 8, tlb := base.cluster 0 |>.tlb })] }
theorem hyp_ItemMemory (q : W64) (h : q ∈ [7, 8, 0x80000, 0x10007]) : let s := items_ q
    s.calm ∧ s.sound (vaultBase 0 + 1024 * 7) 1024 ∧ check (.hvnear 1 1) s = none ∧ s.bad = [] ∧ s.t.near = none ∧ s.t.searching = false ∧ (s.cluster 0).searches = [] ∧ (s.cluster 0).searchEnd ≤ s.now
    ∧ (s.cluster 0).imctl.toNat % 4096 = 8 ∧ (s.xr 1).toNat < 2 ^ 28 ∧ (s.xr 1).toNat / 2 ^ 11 % 32 = 0
    ∧ (q.toNat < 8 ∨ q.toNat % 2048 + q.toNat / 2 ^ 16 % 4096 ≤ 8) := by
  simp only [List.mem_cons, List.not_mem_nil, or_false] at h
  rcases h with rfl | rfl | rfl | rfl <;>
    exact ⟨calm_ (by decide +kernel), (sound_ _ _ _ (by decide +kernel)).1, by decide +kernel⟩

/-- x1 and entry 1 of partition 0 set. -/
def entry_ (x : W64) (e : HEntry) : State := (st [(1, x), (2, 0x01001000)]).hPut 0 1 e
/-- The handle of entry 1, generation 5. -/
def hd : W64 := 0x500000001
theorem hyp_Handles_make : let s := st [(1, 0x01000040), (2, 0x0000000000000000)]
    s.handleReady (.mkval 3 1 2) ∧ (s.xr 1).toNat % 64 = 0 ∧ shapeOk (s.xr 2).toNat false = true ∧ (s.takeFree 0).isSome = true ∧ ((st [(1, 63)]).xr 1).toNat % 64 ≠ 0 :=
  ⟨handle_ (by decide +kernel), by decide +kernel⟩
theorem hyp_HandleInstructions : let s := entry_ hd { gen := 5, state := 1, refcnt := 2 }
    s.handleReady (.mkval 3 1 2) ∧ (s.checkHandle 0 (s.xr 1)).toOption = some 1 ∧ handleShape (s.xr 1) 0 (s.part 0).hcCapacity = true
    ∧ handleShape 1024 0 (s.part 0).hcCapacity = false ∧ s.hLive 0 hd = true ∧ s.task s.t.tid = some s.t ∧ 1 < (s.hGet 0 1).refcnt
    ∧ (s.hGet 0 1).refcnt ≠ 0xFFFFFFFF ∧ s.hLive 0 (hd + 0x100000000) = false := ⟨handle_ (by decide +kernel), by decide +kernel⟩
theorem hyp_HandleInstructions_home (n : Nat) (g : W64) (h : (n, g) ∈ [(1, hd), (2, hd), (0, hd), (1, hd + 0x100000000)]) :
    let s : State := { entry_ hd { gen := 5, state := 1, refcnt := n } with tasks := [(2, { task with tid := 2, handleOps := [(5, g, false)] })] }; let t := { task with tid := 2, handleOps := [(5, g, false)] }
    s.task t.tid = some t ∧ t.handleOps = (5, g, false) :: [] ∧ s.bad = [] ∧ s.pkg.units = [] ∧ hPart g = 0 ∧ hIndex g = 1 ∧ s.hLive 0 g = decide (g = hd) ∧ (s.hGet 0 1).refcnt = n := by
  simp only [List.mem_cons, Prod.mk.injEq, List.not_mem_nil, or_false] at h
  rcases h with ⟨rfl, rfl⟩ | ⟨rfl, rfl⟩ | ⟨rfl, rfl⟩ | ⟨rfl, rfl⟩ <;> decide +kernel
theorem hyp_Force (k : Nat) (h : k ∈ [1, 2, 4]) : let s := entry_ hd { gen := 5, state := k, refcnt := 1, op := 1, narg := 0 }
    s.handleReady (.force 3 1) ∧ (s.checkHandle 0 (s.xr 1)).toOption = some 1 ∧ (s.hGet 0 1).state = k ∧ s.chainLength 33 s.t.tid < 32
    ∧ (k = 2 → (s.startEval 0 1 s.t.core s.t.prio (some s.t.tid)).any (fun s2 => s2.t.tid == s.t.tid) = true) := by
  simp only [List.mem_cons, List.not_mem_nil, or_false] at h
  rcases h with rfl | rfl | rfl <;> exact ⟨handle_ (by decide +kernel), by decide +kernel⟩
theorem hyp_Handles_order : let s := on base fun t => { t with handleOps := [(5, hd, false)] }; let o := on base fun t => { t with handleReport := some hd }
    s.rd.st.ph ≠ .c ∧ check (.mkval 3 1 2) s = none ∧ s.t.handleOps ≠ [] ∧ o.t.handleOps = [] ∧ o.t.seq.items = [] ∧ o.t.handleReport = some hd ∧ s.task s.t.tid = some s.t
    ∧ ((entry_ hd { gen := 5, state := 1, refcnt := 1 }).hGet 0 1).refcnt = 1 := by decide +kernel
/-- A descriptor of CVT over entry 1, a value of one fp32 element, at 0x01002000. -/
def susp_ : State := let s := entry_ 0x01002000 { gen := 5, state := 1, refcnt := 1 }; { s with mem := s.mem.setBytes (wordCells 0x01002000 [hd.toNat, 0, 0, 0, 0, 0, 0, 0]) }
theorem hyp_Susp : let s := susp_; let r := s.locatePieces 64 64 { r := true } .plain [s.xr 1]; let s1 := landed_ s r; let d := words64 (s1.piecesValue 64 (got r))
    let hs := (d.take (suspArgs .cvt (d.getD 3 0))).map (BitVec.ofNat 64)
    s.handleReady (.susp 3 1 2 .cvt) ∧ s.calm ∧ s1.bad = [] ∧ (s.xr 1).toNat % 64 = 0 ∧ (s.xr 2).toNat % 64 = 0 ∧ r = .ok (got r, s1)
    ∧ absents ((got r).map (·.place)) = [] ∧ suspOk .cvt d = true ∧ checkHandles 0 s1 hs = none
    ∧ shapesAgree .cvt { HEntry.shaped (d.getD 3 0) with op := SuspOp.cvt.code } (hs.map fun h => s1.hGet 0 (hIndex h)) = true
    ∧ (s1.part 0).hcTotal + 128 ≤ (s1.part 0).hcBound.toNat ∧ (s1.takeFree 0).isSome = true :=
  ⟨handle_ (by decide +kernel), calm_ (by decide +kernel), by decide +kernel, by decide +kernel, by decide +kernel, got_ok (by decide +kernel), by decide +kernel⟩

/-- A row of 8,192 bytes (log 5), its last segment. -/
def row_ : State := st [(1, 0x01002000), (2, 0x141F)]
theorem hyp_RowsAndQueues (need : Need) (h : need ∈ [{ r := true, w := true }, { r := true }, ({ w := true } : Need)]) : let s := row_; let a := s.xr 1; let c := RowCtl.of (s.xr 2)
    let s1 := after_ s a 64 need; let g := rowGranules s1 a need ((List.range (4 * c.n)).map (4 * c.first + ·))
    s.calm ∧ firstOver s.rd.allotn ((List.range c.n).map ((31 : Reg).val + ·)) = none ∧ highAddr a = false ∧ a.toNat % c.len = 0
    ∧ s.locate a 64 need = .ok (⟨.at 0x01002000, .plain⟩, s1) ∧ (g.toOption.any fun q => q.1.all fun p => match p with | .at x => decide (x < 0xFC0000000000) | _ => false) = true
    ∧ s1.healthy ∧ s1.lockGrant (lockKey 0x01002000) s.t.tid = true ∧ rowOk (s.xr 2) 31 false = true ∧ rowOk (s.xr 2) 31 true = true := by
  simp only [List.mem_cons, List.not_mem_nil, or_false] at h
  rcases h with rfl | rfl | rfl <;> exact ⟨calm_ (by decide +kernel), by decide +kernel, by decide +kernel, by decide +kernel, located_ok (by decide +kernel), by decide +kernel,
    (sound_ _ 0 0 (by decide +kernel)).2, by decide +kernel⟩
/-- Queue 63 valid on optimiser core 0, fp32, 16 slots, groups 0 to 9, with an occupancy and a window. -/
def queue_ (occ win : Byte) (core : Nat) : State :=
  paged (on (st [(1, 63), (2, 0x0009000000000001)]) fun t => { t with core := core })
    ([(0x4000FC2, 9), (0x4000FC5, 0x10), (0x4000FC7, 0x80), (0x4000FCB, 3), (0x4000FD0, 16)] ++ (if win = 0 then [] else [(0x4000FD8, win)])
      ++ (if occ = 0 then [] else [(0x4000FDC, occ)]))
theorem hyp_Queues (core : Nat) (occ win : Byte) (h : (core, occ, win) ∈ [(0, 15, 1), (0, 0, 0), (0x1000, 16, 0), (0x1000, 0, 16)]) : let s := queue_ occ win core
    let g := s.gq 0 63; let h := s.xr 2
    s.calm ∧ (s.xr 1).toNat ≤ 63 ∧ g.valid = true ∧ g.occ = occ.toNat ∧ g.w = win.toNat ∧ isOpt g.recv = true ∧ s.inPart 0 g.recv = true ∧ g.lo ≤ h.toNat / 2 ^ 48
    ∧ h.toNat / 2 ^ 48 ≤ g.hi ∧ h.toNat % 65536 = 1 ∧ (31 : Reg).val + 1 ≤ s.rd.allotn ∧ s.rd.st.nft = false ∧ (core = 0x1000 → s.t.core = g.recv)
    ∧ (28 : Reg).val + 4 ≤ s.rd.allotn ∧ s.tasks = [] := by
  simp only [List.mem_cons, Prod.mk.injEq, List.not_mem_nil, or_false] at h
  rcases h with ⟨rfl, rfl, rfl⟩ | ⟨rfl, rfl, rfl⟩ | ⟨rfl, rfl, rfl⟩ | ⟨rfl, rfl, rfl⟩ <;> exact ⟨calm_ (by decide +kernel), by decide +kernel⟩
theorem ok_of {ε α : Type} {r : Except ε α} (h : r.toOption.isSome = true) : ∃ a, r = .ok a := by
  cases r with
  | error e => simp [Except.toOption] at h
  | ok q => exact ⟨q, rfl⟩
theorem hyp_Queues_push : ∃ s1, (queue_ 15 1 0).pushStep 0 63 (queue_ 15 1 0).t 0x0009000000000001 1 = .ok s1 := by
  obtain ⟨⟨ps, u⟩, h⟩ := ok_of (r := (queue_ 15 1 0).slotPieces 0 ((queue_ 15 1 0).gq 0 63) 15) (by decide +kernel)
  have e : (((queue_ 15 1 0).gq 0 63).head + ((queue_ 15 1 0).gq 0 63).occ) % ((queue_ 15 1 0).gq 0 63).slots = 15 := by decide +kernel
  unfold State.pushStep
  dsimp only
  rw [e, h]
  exact ⟨_, rfl⟩
/-- The task's v31 full of +inf, NFT set. -/
theorem hyp_Queues_nonfinite : let s := on (queue_ 15 1 0) fun t => { t.vw 31 (BitVec.ofNat 2048 0x7F800000) with st := { t.st with nft := true } }; let g := s.gq 0 63
    s.rd.st.nft = true ∧ (Ft.ofCode g.fmt).isFloat = true ∧ firstBadEl (Ft.ofCode g.fmt) (runValue s 31 1 % 256 ^ 4) 0 1 = some (0, .inf false)
    ∧ firstBadEl (Ft.ofCode g.fmt) (runValue (queue_ 15 1 0) 31 1 % 256 ^ 4) 0 1 = none := by decide +kernel
theorem hyp_Queues_invalid : 63 < ((st [(1, 64)]).xr 1).toNat ∧ (base.gq 0 0).valid = false := by decide +kernel

/-- A descriptor at 0x01000000 that x1 names. -/
def desc_ (ws : List Nat) : State := { (st [(1, 0x01000000)]) with mem := ⟨nz 0x01000000 ws, []⟩ }
theorem described_ {s : State} {n : Nat} {a : W64} (h1 : a.toNat % n = 0) (h : (s.locatePieces n n { r := true } .plain [a]).toOption.isSome = true)
    (h2 : (landed_ s (s.locatePieces n n { r := true } .plain [a])).bad = [])
    (h3 : absents ((got (s.locatePieces n n { r := true } .plain [a])).map (·.place)) = []) :
    let r := s.locatePieces n n { r := true } .plain [a]; Described s a n ((landed_ s r).piecesValue n (got r)) (landed_ s r) :=
  ⟨h1, h2, _, got_ok h, h3, rfl⟩
/-- That descriptor in a partition with a bound, a mode and a total. -/
def suspIn (bound : W64) (mode total : Nat) : State := susp_.setPart 0 { susp_.part 0 with hcBound := bound, hcMode := mode, hcTotal := total }
theorem hyp_Susp_beyond (m : Nat) (b : W64) (h : (m, b) ∈ [(0, 0), (1, 0), (2, 1), (2, 0)]) : let s := suspIn b m 1; let r := s.locatePieces 64 64 { r := true } .plain [s.xr 1]; let s1 := landed_ s r
    let d := words64 (s1.piecesValue 64 (got r)); let hs := (d.take (suspArgs .cvt (d.getD 3 0))).map (BitVec.ofNat 64)
    s.handleReady (.susp 3 1 2 .cvt) ∧ s.calm ∧ Described s (s.xr 1) 64 (s1.piecesValue 64 (got r)) s1 ∧ s1.pkg.units = [] ∧ suspOk .cvt d = true ∧ checkHandles 0 s1 hs = none
    ∧ (s1.part 0).hcMode = m ∧ ¬ (s1.part 0).hcTotal + 128 ≤ (s1.part 0).hcBound.toNat ∧ s1.chainLength 33 s1.t.tid < 32
    ∧ (m = 2 → b = 1 → (s1.part 0).hcTotal ≤ (s1.part 0).hcBound.toNat ∧ ((s1.sparkRoot 0 0).takeFree 0).isSome = true) ∧ (m = 2 → b = 0 → (s1.part 0).hcBound.toNat < (s1.part 0).hcTotal)
    ∧ ((s1.takeFree 0).any fun q => (keepArgs 0 hs q.2).toOption.isSome) = true := by
  simp only [List.mem_cons, Prod.mk.injEq, List.not_mem_nil, or_false] at h
  rcases h with ⟨rfl, rfl⟩ | ⟨rfl, rfl⟩ | ⟨rfl, rfl⟩ | ⟨rfl, rfl⟩ <;> exact ⟨handle_ (by decide +kernel), calm_ (by decide +kernel), described_ (by decide +kernel) (by decide +kernel) (by decide +kernel) (by decide +kernel), by decide +kernel⟩

/-- A copy of one row of 64 bytes. -/
def copyWords : List Nat := [0x01002000, 0x01003000, 2 ^ 32 + 64, 64, 64, 0, 0, 0]
theorem hyp_CopyEngine : let s := desc_ copyWords; let r := s.locatePieces 64 64 { r := true } .plain [s.xr 1]; let n := (landed_ s r).piecesValue 64 (got r)
    s.calm ∧ Described s (s.xr 1) 64 n (landed_ s r) ∧ copyOk (CopyCmd.of 1 .last n 0 1) n = true ∧ ((landed_ s r).core s.t.core).copies.length < 8 :=
  ⟨calm_ (by decide +kernel), described_ (by decide +kernel) (by decide +kernel) (by decide +kernel) (by decide +kernel), by decide +kernel⟩
theorem hyp_CopyEngine_bad : let s := desc_ [0]; let r := s.locatePieces 64 64 { r := true } .plain [s.xr 1]; let n := (landed_ s r).piecesValue 64 (got r)
    s.calm ∧ Described s (s.xr 1) 64 n (landed_ s r) ∧ copyOk (CopyCmd.of 1 .last n 0 1) n = false :=
  ⟨calm_ (by decide +kernel), described_ (by decide +kernel) (by decide +kernel) (by decide +kernel) (by decide +kernel), by decide +kernel⟩
/-- That copy, of one row, in core 0's engine, in a state and with rows done. -/
def copying (state done : Nat) (f : CopyCmd → CopyCmd := id) : State :=
  { (paged (st [(1, 65535)]) []) with cores := [(0, { copies := [(65535, f { kind := 1, mode := .last, src := 0x01002000, dst := 0x01003000, rows := 1, rowBytes := 64, spitch := 64, dpitch := 64, iw := 0, efmt := .fp32, idx := 0, sig := false, msg := false, sigAddr := 0, sigVal := 0, part := 0, task := 1, done := done, state := state, idxs := some [] })], tagLog := [(65535, state, done)] })] }
theorem hyp_CopyEngine_moves : let s := copying 2 0; ∃ c, (s.core 0).copies.find 65535 = some c ∧ c.state = 2 ∧ c.idxs ≠ none ∧ c.done < c.rows ∧ ∃ s1 held err, c.moveRow 0 65535 c.done s = .done s1 held err :=
  ⟨_, rfl, by decide +kernel, by decide +kernel, by decide +kernel, _, _, _, rfl⟩
theorem hyp_CopyEngine_others : (∃ c, ((copying 1 0).core 0).copies.find 65535 = some c ∧ c.kind = 1 ∧ c.state = 1)
    ∧ (∃ c, ((copying 2 1).core 0).copies.find 65535 = some c ∧ c.state = 2 ∧ c.rows ≤ c.done ∧ c.sig = false ∧ c.msg = false)
    ∧ (∃ c, ((copying 3 0).core 0).copies.find 65535 = some c ∧ c.state = 3 ∧ c.fault = none ∧ ((copying 3 0).part c.part).freeSlot = some 0)
    ∧ ((copying 1 0).core 0).tagLog.find? (fun e => e.1 == 65535) = some (65535, 1, 0) ∧ (base.core 0).tagLog.find? (fun e => e.1 == 0) = none :=
  ⟨⟨_, rfl, by decide +kernel⟩, ⟨_, rfl, by decide +kernel⟩, ⟨_, rfl, by decide +kernel⟩, by decide +kernel, by decide +kernel⟩
theorem hyp_CopyEngine_index : let s := copying 1 0 fun c => { c with kind := 2, iw := 1, idx := 0x01004000 }; let r := s.engPieces 0 { r := true } (runsOf (bytesFrom 0x01004000 4))
    (∃ c, (s.core 0).copies.find 65535 = some c ∧ c.kind ≠ 1 ∧ c.state = 1 ∧ 2 * 2 ^ c.iw * c.rows = 4
      ∧ (match ({ s with bad := [0x01004000] } : State) with | u => match c.loadIdx u with | .ok (_, true, _) => true | _ => false) = true
      ∧ (match c.loadIdx (under s 0x01004000) with | .error f => f.cause.isNone | _ => false) = true)
    ∧ (match r with | .ok (ps, s1) => s1.bad.isEmpty && (engAbsents ps).isEmpty && ps.all (·.place.isSome) | .error _ => false) = true := ⟨⟨_, rfl, by decide +kernel⟩, by decide +kernel⟩
theorem hyp_CopyEngine_signal : let s := copying 2 1 fun c => { c with sig := true, msg := true, sigAddr := 0x01005000, sigVal := 7 }; let m := dieMsg 0 1 65535
    (∃ c, (s.core 0).copies.find 65535 = some c ∧ c.state = 2 ∧ c.rows ≤ c.done ∧ c.sig = true ∧ c.signalled = false
      ∧ (match s.engSignal c.task c.part c.sigAddr c.sigVal with | .ok (some _) => true | _ => false) = true
      ∧ (match (under s 0x01005000).engSignal c.task c.part c.sigAddr c.sigVal with | .ok none => true | .error f => f.cause.isNone | _ => false) = true)
    ∧ s.holds 0 m = false ∧ ({ s with cores := [(0, { held := [m] })] } : State).holds 0 m = true := ⟨⟨_, rfl, by decide +kernel⟩, by decide +kernel⟩

/-- Ring 0 of partition 0: two packages, this one first, ports 0 and 1 of die 0; the other's posting, and this one's. -/
def ring_ (phase : Nat) (plan : Nat) (p : List Peer) (f : CEDesc → CEDesc := id) : State :=
  let s := desc_ [1, 0x01002000, 1, 0, 0, 0, 0, 0]
  { s with pkg := { s.pkg with plan := [(0, plan)], peers := p }, engines := [(0, { list := [(7, f { d := [1, 0x01002000, 8, 0, 0, 0, 0, 0], ring := 0, part := 0, task := 1, core := 0, phase := phase, data := List.replicate 8 0 })], nextTag := 8 })] }
def plan_ : Nat := 2 ^ 63 + 2 ^ 24 + 1
theorem hyp_CollectiveEngine : let s := ring_ 0 plan_ []; let r := s.locatePieces 64 64 { r := true } .plain [s.xr 1]; let n := (landed_ s r).piecesValue 64 (got r)
    s.calm ∧ Described s (s.xr 1) 64 n (landed_ s r) ∧ ceOk (words64 n) = true ∧ ringValid ((landed_ s r).ring 0) = true ∧ ((landed_ s r).engine 0).list.length < 64
    ∧ 4096 ≤ (4096 : W64).toNat ∧ (4095 : W64).toNat < 4096 ∧ ringValid (base.ring 0) = false :=
  ⟨calm_ (by decide +kernel), described_ (by decide +kernel) (by decide +kernel) (by decide +kernel) (by decide +kernel), by decide +kernel⟩
theorem hyp_CollectiveEngine_head : (∃ t d, ((ring_ 0 plan_ []).engine 0).head 0 false = some (t, d) ∧ d.fault = none ∧ d.phase = 0 ∧ ringDead ((ring_ 0 plan_ []).ring 0) = false
      ∧ (ring_ 0 plan_ []).partners d = none ∧ ringDead ((ring_ 0 (plan_ + 2 ^ 61) []).ring 0) = true)
    ∧ (∃ t d, ((ring_ 2 plan_ []).engine 0).head 0 false = some (t, d) ∧ d.phase = 2 ∧ d.write = none ∧ d.op ≤ 2 ∧ d.step + 2 < 3)
    ∧ (∃ t d, ((ring_ 3 plan_ []).engine 0).head 0 false = some (t, d) ∧ d.phase = 3 ∧ d.sig = false ∧ d.msg = false) :=
  ⟨⟨_, _, rfl, by decide +kernel⟩, ⟨_, _, rfl, by decide +kernel⟩, ⟨_, _, rfl, by decide +kernel⟩⟩
/-- What the ring of package 0 finds at its head in phase p, as f makes it. -/
def headOf (s : State) (P : CEDesc → Bool) : Bool := match (s.engine 0).head 0 false with | some (_, d) => P d | none => false
theorem hyp_CollectiveEngine_threshold (v : Nat) (h : v ∈ [3, 5]) : let s := { paged (ring_ 1 plan_ [] fun d => { d with d := [1, 0x01002000, 8, 0x03000000, 5, 0, 0, 0] }) (nz 0x03000000 [v]) with clusters := [] }
    headOf s (fun d => d.fault.isNone && d.phase == 1 && d.rsig != 0 && !d.met && !(d.ends == 1 || d.ends == 4)) = true ∧ ringDead (s.ring 0) = false
    ∧ (match s.engPieces 0 { r := true } [(0x03000000, 8)] with
      | .ok (ps, s1) => s1.bad.isEmpty && (engAbsents ps).isEmpty && ps == [⟨0x03000000, 8, some (.at 0x03000000, .plain)⟩] && ofBytes ((s1.engRead ps).map fun b => b.2.getD 0) == v
      | .error _ => false) = true := by
  simp only [List.mem_cons, List.not_mem_nil, or_false] at h
  rcases h with rfl | rfl <;> decide +kernel
theorem hyp_CollectiveEngine_ends : headOf (ring_ 2 plan_ [] fun d => { d with ends := 1, endAt := 0 }) (fun d => d.phase == 2 && d.ends == 1 && decide (d.endAt ≤ 0)) = true
    ∧ (∃ d ps, ((ring_ 0 plan_ [⟨0, false, 1, 0, 0, 0, 8, 0, 4⟩]).engine 0).head 0 false = some (7, d) ∧ (ring_ 0 plan_ [⟨0, false, 1, 0, 0, 0, 8, 0, 4⟩]).partners d = some ps ∧ endOf ps = 4) := ⟨by decide +kernel, _, _, rfl, rfl, by decide +kernel⟩
theorem hyp_CollectiveEngine_signal : let s := { paged (ring_ 3 plan_ [] fun d => { d with d := [1, 0x01002000, 8, 0, 0, 2 ^ 62, 0x01005000, 7] }) [] with clusters := [] }
    headOf s (fun d => d.phase == 3 && d.sig && !d.signalled && (match s.engSignal 1 0 0x01005000 7 with | .ok (some _) => true | _ => false)) = true := by decide +kernel

/-- The master at 2^36 on a MASTER page, its view's storage from 2^35 on a VIEW page. -/
def viewing (l : List Nat) (views : NMap View) : State :=
  let s := paged (st [(1, 0x01000000), (2, 0)]) (nz 0x01000000 l ++ nz 0x02010008 [2 ^ 35 + 0x4F, 2 ^ 36 + 0x2F])
  { s with mem := ⟨nz 0x01000000 l ++ [(0x02000000, 1), (0x02000002, 1), (0x02000003, 2), (0x02010000, 0x1F)] ++ nz 0x02010008 [2 ^ 35 + 0x4F, 2 ^ 36 + 0x2F], []⟩,
           clusters := [], masterInit := [(2 ^ 36, 2 ^ 35)], parts := [(0, { s.part 0 with views := views })] }
/-- One row of 32 fp32 elements, its view in bf16, one shard; and the shard table. -/
def viewWords : List Nat := [2 ^ 36, 2 ^ 32 + 32, 128, 2 ^ 58 + 32 * 2 ^ 48, 0, 0x01000040, 0, 0, 1, 2 ^ 35, 2 ^ 35 + 0x1000, 0]
def view_ : View := { mbase := 2 ^ 36, rows := 1, cols := 32, mpitch := 128, mf := .fp32, vf := 1, layout := 0, dpol := 0, shards := [⟨0, 1, 2 ^ 35, 2 ^ 35 + 0x1000⟩], cb := [], core := 0, master := [(2 ^ 36, 128, 2 ^ 36)] }
def viewR : Except Miss (List Piece × State) := (viewing viewWords []).locatePieces 64 64 { r := true } .plain [0x01000000]
def viewQ : Except Miss (List Piece × State) := (landed_ (viewing viewWords []) viewR).locatePieces 32 32 { r := true } .plain ((List.range 1).map fun j => BitVec.ofNat 64 (0x01000040 + 32 * j))
def viewS2 : State := landed_ (landed_ (viewing viewWords []) viewR) viewQ
def viewM : Except Miss (List (Nat × Nat × Nat) × State) := masterPieces view_.masterRanges viewS2
theorem hyp_Views : let s := viewing viewWords []; let n := (landed_ s viewR).piecesValue 64 (got viewR); let t := viewS2.piecesValue 32 (got viewQ)
    s.calm ∧ Described s 0x01000000 64 n (landed_ s viewR) ∧ descWord n 5 = 0x01000040 ∧ descWord n 3 / 2 ^ 58 % 16 ≠ 8 ∧ viewQ = .ok (got viewQ, viewS2)
    ∧ absents ((got viewQ).map (·.place)) = [] ∧ viewS2.bad = [] ∧ viewOk n t (View.of n t [] 0) = true ∧ { View.of n t [] 0 with master := view_.master } = view_
    ∧ viewM = .ok (got viewM, landed_ viewS2 viewM) :=
  ⟨calm_ (by decide +kernel), described_ (by decide +kernel) (by decide +kernel) (by decide +kernel) (by decide +kernel), by decide +kernel, by decide +kernel, got_ok (by decide +kernel),
    by decide +kernel, by decide +kernel, by decide +kernel, by decide +kernel, got_ok (by decide +kernel)⟩
theorem hyp_Views_storage : let u := landed_ viewS2 viewM; (viewPages view_.storageRanges u).toOption.isSome = true ∧ ((List.range 256).find? fun i => ((u.part 0).views.find i).isNone) = some 0
    ∧ View.tooMany { view_ with master := got viewM, pending := view_.blocks.map fun b => (b.1, b.2, u.stamp) } u = false := by decide +kernel
theorem hyp_Views_test : let u := landed_ viewS2 viewM; (view_.statePlaces 0 u).any (fun pa => u.underTest pa 16) = false
    ∧ (view_.statePlaces 0 (under u (2 ^ 35 + 0x1000))).any (fun pa => (under u (2 ^ 35 + 0x1000)).underTest pa 16) = true := by decide +kernel
theorem hyp_Views_use : let s := viewing [] [(255, view_)]; let d := viewing [] [(0, { view_ with pending := [(0, 0, 3)] })]
    s.calm ∧ (s.part 0).views.find 255 = some view_ ∧ s.viewRead 0 255 = false ∧ s.quiet ∧ (s.part 0).views.find 254 = none ∧ (511 : Nat) < 512 ∧ (259 : Nat) / 4 % 64 = 0
    ∧ d.nextPending (view_.die 0 0) = some (0, 0, (0, 0, 3)) ∧ d.ferryLoad (view_.die 0 0) < 64 ∧ (d.part 0).held = false := ⟨calm_ (by decide +kernel), by decide +kernel, by decide +kernel, quiet_ (by decide +kernel), by decide +kernel⟩
/-- Block (0, 0) in derivation. -/
def viewD : State := viewing [] [(0, { view_ with deriving_ := [(0, 0, 5)] })]
theorem hyp_Views_publication : shardOf 0 view_.shards = some ⟨0, 1, 2 ^ 35, 2 ^ 35 + 0x1000⟩ ∧ (viewD.ferryAt 0 (2 ^ 35 + 0x1000)).toOption.map (·.1) = some (2 ^ 35 + 0x1000)
    ∧ (match (landed_ viewD (viewD.ferryAt 0 (2 ^ 35 + 0x1000))).masterBytes 0 view_ 0 0 with
      | .ok (some b, s0) => b == 0 && (match view_.deriveBytes (some b) with
        | .ok _ c => (match view_.writeBlock 0 ⟨0, 1, 2 ^ 35, 2 ^ 35 + 0x1000⟩ 1 0 0 c s0 with | .ok (_, b) => !b | .error _ => false)
        | _ => false)
      | _ => false) = true ∧ (match view_.deriveBytes (some 0x7F800000) with | .fault => true | _ => false) = true := by decide +kernel
/-- Its master's word fails. -/
theorem hyp_Views_failed : let s : State := { viewD with bad := [2 ^ 36] }; (match s.ferryAt 0 (2 ^ 35 + 0x1000) with
    | .ok (pa, sa) => (match sa.masterBytes 0 view_ 0 0 with
      | .ok (none, s0) => s0.mem.wf && (badIn s0.bad pa 16).isNone && (List.range 16).all fun k => s0.served (pa + k)
      | _ => false)
    | .error _ => false) = true := by decide +kernel
theorem hyp_Views_load : let s := viewing [] [(0, view_)]; let s0 := on s fun t => { t with x := t.x.set 1 0 }
    s0.vectorReady (.vldv 4 1 2 0 .plain .mst) ∧ s0.t.st.ph ≠ .c ∧ s0.t.seq.wait = none ∧ view_.closed = false ∧ view_.nb = 4
    ∧ (match view_.readAll .mst (s0.pr 0) 0 0 [0, 1, 2, 3] [0, 0, 0, 0] s0 with | .ok _ => true | .error _ => false) = true :=
  ⟨ready_ (by decide +kernel) (by decide +kernel), by decide +kernel⟩
theorem hyp_Views_begins : let s0 := on (viewing [] [(0, view_)]) fun t => { t with x := t.x.set 1 0 }
    s0.mayBegin (.vldv 4 1 2 0 .plain .mst) ∧ s0.rd.st.ph ≠ .c ∧ (s0.xr 1).toNat ≤ 255 ∧ (s0.part 0).views.find (s0.xr 1).toNat = some view_ := ⟨begin_ (by decide +kernel), by decide +kernel⟩

/-- The page operand of a KV instruction: its leaf. -/
theorem page_ {s : State} {a : W64} {k : PageKind} {e : TlbEntry} (h1 : highAddr a = false) (h2 : a.toNat % 8 = 0) (h3 : 0x01000000 ≤ a.toNat)
    (h : (s.xlate a.toNat).toOption.map (·.1) = some e) (h4 : e.allows { r := true, w := true } = true) (h5 : e.kind = k) :
    ∃ s1, PageAt s a k e s1 := by
  cases g : s.xlate a.toNat with
  | error c => rw [g] at h; simp [Except.toOption] at h
  | ok q => rw [g] at h; simp only [Except.toOption, Option.map_some, Option.some.injEq] at h; exact ⟨q.2, h1, h2, h3, by rw [← h, g], h4, h5⟩
theorem hyp_Remap : let s := st [(1, 0x800800000), (2, 0x01000000)]; (∃ s1, PageAt s (s.xr 1) .remap (leaf (2 ^ 35 + 4 * 2 ^ 21) (2 ^ 21) 0x20D) s1) ∧ s.calm
    ∧ (∃ d s2, s.xlate 0x01000000 = .ok (d, s2)) ∧ (leaf 0 (2 ^ 35) 0x1D).kind = .plain ∧ (leaf 0 (2 ^ 35) 0x1D).allows { r := true, w := true } = true
    ∧ 0x01000000 + (leaf (2 ^ 35 + 4 * 2 ^ 21) (2 ^ 21) 0x20D).rowSize ≤ 2 ^ 35 :=
  ⟨page_ (by decide +kernel) (by decide +kernel) (by decide +kernel) (by decide +kernel) (by decide +kernel) (by decide +kernel), calm_ (by decide +kernel), ⟨_, _, rfl⟩, by decide +kernel⟩
theorem hyp_Remap_test : (match (st []).xlate 0x800800000 with
    | .ok (e, s1) => !s1.underTest (e.frame + 64) 8 && s1.mem.wf && s1.bad.isEmpty && s1.pkg.units.isEmpty
    | .error _ => false) = true := by decide +kernel
/-- A sequence of `len` positions with 64-byte slots whose blocks 0 and 1 have descriptors 0 and 1 in place r, referred to n times. -/
def kv_ (len r n : Nat) : State :=
  { (st [(1, 0x800A00000), (2, 1)]) with mem := ⟨nz 0x5000000 [1, r * 2 ^ 62 + 0x7000000, n * 2 ^ 32, 0, 1, r * 2 ^ 62 + 0x7001000, n * 2 ^ 32, 0] ++ nz 0x800A00000 [len] ++ nz 0x800A00040 [2 ^ 63, 2 ^ 63 + 1], []⟩, parts := [(0, { base.part 0 with kvFresh := 2 })] }
def kvLeaf : TlbEntry := leaf (2 ^ 35 + 5 * 2 ^ 21) (2 ^ 21) 0x40D
theorem hyp_KeyValue (len r n : Nat) (h : (len, r, n) ∈ [(64, 0, 1), (65, 0, 1), (65, 2, 1), (127, 1, 1)]) : let s := kv_ len r n; let q := s.kvSeq kvLeaf
    s.calm ∧ isOpt s.t.core = false ∧ (∃ s1, PageAt s (s.xr 1) .kv kvLeaf s1) ∧ s.mem.wf = true ∧ s.bad = [] ∧ q.len = len ∧ 64 * q.ss ≤ (s.part 0).regSize
    ∧ (s.kvGet 0 (s.kvMap q (len / 64 % 2))).res = r ∧ (s.kvGet 0 (s.kvMap q 1)).refcnt = n ∧ (s.kvTake 0).isSome = true ∧ 1 ≤ 64 - len % 64 ∧ s.xr 3 = 0 ∧ (s.xr 2).toNat ≤ q.len := by
  simp only [List.mem_cons, Prod.mk.injEq, List.not_mem_nil, or_false] at h
  rcases h with ⟨rfl, rfl, rfl⟩ | ⟨rfl, rfl, rfl⟩ | ⟨rfl, rfl, rfl⟩ | ⟨rfl, rfl, rfl⟩ <;>
    exact ⟨calm_ (by decide +kernel), by decide +kernel, page_ (by decide +kernel) (by decide +kernel) (by decide +kernel) (by decide +kernel) (by decide +kernel) (by decide +kernel), by decide +kernel⟩
theorem hyp_KeyValue_room : let s := kv_ 64 0 1; ((s.kvTake 0).bind fun q => q.2.anyRegion 0).isSome = true ∧ s.mem.wf = true
    ∧ ({ s with parts := [(0, { s.part 0 with kvFresh := 8 })] }.kvTake 0).isNone = true := by decide +kernel

/-- A command of four leading words in core 0's queue, the unit serving it, and the int8 context. -/
def mq_ (w : List Nat) (f : MCmd → MCmd := id) : State :=
  { base with cores := [(0, { mq := [f { w := w ++ List.replicate (16 - w.length) 0, task := 1, part := 0 }], fmt := { afmt := 7, bfmt := 7 } })], clusters := [(0, { mbusy := some 0 })] }
theorem hyp_MatrixUnit_issue : let s := st [(1, 0x800000), (2, 3)]; let c : MCmd := { w := words32 0, task := 1, part := 0 }
    s.vectorReady (.vstq 4 1 2) ∧ s.t.st.ph ≠ .c ∧ s.posted = [] ∧ s.t.matrixReport = none ∧ s.xr 1 = 0x800000 ∧ (s.xr 2).toNat ≤ 3 ∧ (s.core 0).mq.length < 8
    ∧ ((s.core 0).accept c 1 false).isSome = true := ⟨ready_ (by decide +kernel) (by decide +kernel), by decide +kernel⟩
theorem hyp_MatrixUnit : ∀ q ∈ [(1, 1), (2, 1), (3, 127 * 2 ^ 24 + 127 * 2 ^ 16), (4, 0), (5, 5), (6, 0x311), (7, 0), (8, 0), (9, 1), (10, 0)],
    let s := mq_ [q.1, q.2]; let c : MCmd := { w := [q.1, q.2] ++ List.replicate 14 0, task := 1, part := 0 }
    (s.core 0).mq = [c] ∧ c.started = false ∧ c.op = q.1 ∧ (s.cluster (clusterOf 0)).mbusy = some (0 % 8) ∧ c.refusal (s.core 0).fmt = none ∧ c.sig = false ∧ s.bad = []
    ∧ (q.1 = 5 → c.stats = false ∧ c.field 6 = 0) ∧ (q.1 = 6 → c.af ≠ 8 ∧ c.bf ≠ 8) ∧ (s.core 0).fmt.ints = true := by decide +kernel
theorem hyp_MatrixUnit_reads : (match (mq_ [1, 1]).mRead 0 0 [(0, 32), (0, 32)] [] with | .ok (d, ab, _) => !d.any anyBad && ab.isEmpty | .error _ => false) = true
    ∧ (match (mq_ [8]).mRead 0 0 [(0, 64)] [] with | .ok ([d], ab, _) => !anyBad d && ab.isEmpty | _ => false) = true
    ∧ (match mProduct 0 ((mq_ [2, 1]).core 0).fmt { w := [2, 1] ++ List.replicate 14 0, task := 1, part := 0 } [0] 1 0 false [] (mq_ [2, 1]) with | .done _ _ _ _ => true | _ => false) = true
    ∧ (match (mq_ [5]).mPieces 0 0 { w := true } (runsOf (bytesFrom 0 4)) with | .ok _ => true | .error _ => false) = true := by decide +kernel
/-- An MXPOSE at the head of all eight queues of cluster 0, from panels at 0x1000·j to panels at 0x10000 + 0x1000·j. -/
def xpose_ : State :=
  { base with cores := (List.range 8).map fun j => (j, { mq := [{ w := [9, 1, 0x1000 * j, 0, 0x10000 + 0x1000 * j, 0, 0, 0, 0, 0, 64, 64, 0, 0, 0, 0], task := 1, part := 0 }] }), clusters := [(0, { mbusy := some 0 })] }
theorem hyp_MatrixUnit_xpose : xpose_.bad = [] ∧ xpose_.pkg.units = [] ∧ (xpose_.mHeads 0).length = 8
    ∧ (∀ h ∈ xpose_.mHeads 0, xpose_.xposeMiss h.1 h.2 = none ∧ h.2.kb = 1) ∧ (∃ c, (xpose_.core 0).mq = [c] ∧ c.op = 9 ∧ c.refusal (xpose_.core 0).fmt = none)
    ∧ xpose_.mem.wf = true ∧ (∀ a, xpose_.served a = true) := ⟨rfl, rfl, by decide +kernel, by decide +kernel, ⟨_, rfl, by decide +kernel⟩, rfl, served_ _ rfl rfl rfl rfl⟩
theorem hyp_MatrixUnit_bytes : let mv := (List.range 8).map (xposeMoves (xpose_.cluster 0).mtable ((xpose_.mHeads 0).map (·.2))); let m := (0x1003F + 64 * 7 + 0x7000, 0x1C0 + 0x703F)
    m ∈ mv.flatten ∧ (mv.flatten.map (·.2)).all (· != m.1) = true ∧ (mv.flatten.filter fun x => x.1 == m.1).length = 1 := by decide +kernel
theorem hyp_MatrixUnit_ends : (∃ c, ((mq_ [3, 128 * 2 ^ 24]).core 0).mq = [c] ∧ c.started = false ∧ c.op ≠ 0 ∧ c.op ≤ 8 ∧ (c.refusal ((mq_ [3]).core 0).fmt).isSome = true)
    ∧ (∃ c, ((mq_ [1, 1] fun c => { c with started := true }).core 0).mq = [c] ∧ c.started = true ∧ c.signalled = false ∧ c.refused = none ∧ c.op = 1 ∧ c.sig = false ∧ c.nomsg = false)
    ∧ (∃ c, ((mq_ [3] fun c => { c with started := true }).core 0).mq = [c] ∧ c.started = true ∧ c.op ≠ 1 ∧ c.op ≠ 2 ∧ c.sig = false ∧ c.refused = none ∧ c.nomsg = false
      ∧ c.nf = none ∧ c.memErr = false ∧ c.absent = false)
    ∧ (mq_ [3]).waiter 0 3 = none ∧ (mq_ [3]).waiter 0 4 = none ∧ ((mq_ [3]).core 0).held = [] ∧ ((mq_ [3]).core 0).mailbox.length < 31 :=
  ⟨⟨_, rfl, by decide +kernel⟩, ⟨_, rfl, by decide +kernel⟩, ⟨_, rfl, by decide +kernel⟩, by decide +kernel⟩
/-- An MMA that has started, with a signal word at 0x01005000 that holds 7. -/
def mSig : MCmd := { w := [1 + 2 ^ 8, 1, 0, 0, 0, 0, 0, 0, 0, 0, 0, 0, 0x01005000, 0, 7, 0], task := 1, part := 0, started := true }
theorem hyp_MatrixUnit_signal : let s := paged (mq_ [1, 1] fun _ => mSig) []; (s.core 0).mq = [mSig] ∧ mSig.op = 1 ∧ mSig.sig = true ∧ mSig.signalled = false ∧ mSig.refused = none
    ∧ (s.mSignal 0 mSig).isSome = true ∧ ((under s 0x01005000).mSignal 0 mSig).isNone = true
    ∧ (match s.mPieces 0 0 { w := true } mSig.sigRange with | .ok _ => true | .error _ => false) = true := by decide +kernel
/-- An MSIG that has started, in a core whose mailbox holds n messages. -/
def mEnds (n : Nat) : State := let s := mq_ [10] fun c => { c with started := true }; { s with cores := [(0, { s.core 0 with mailbox := List.replicate n (coreMsg 1 8 5) })] }
theorem hyp_MatrixUnit_held (n : Nat) (h : n ∈ [31, 32]) : ∃ c, ((mEnds n).core 0).mq = c :: [] ∧ c.started = true ∧ c.told = false ∧ c.sig = false
    ∧ (let e := { c with signalled := true }; let u := mTell 0 e (mEnds n); (e.tells u 0).any (fun m => u.holds m.1 m.2) = decide (n = 32)) := by
  simp only [List.mem_cons, List.not_mem_nil, or_false] at h
  rcases h with rfl | rfl <;> exact ⟨_, rfl, by decide +kernel⟩

theorem hyp_TasksAndCounters : let s := desc_ [0x01000100, 0, 0, 0]; let r := s.locatePieces 32 32 { r := true } .plain [s.xr 1]; let d := (landed_ s r).piecesValue 32 (got r)
    s.calm ∧ Described s (s.xr 1) 32 d (landed_ s r) ∧ s.inPart 0 0 = true ∧ taskwOk d 0 = true ∧ freeSlot ((landed_ s r).core 0).table = some 0 :=
  ⟨calm_ (by decide +kernel), described_ (by decide +kernel) (by decide +kernel) (by decide +kernel) (by decide +kernel), by decide +kernel⟩
/-- A waiting entry on counter 15. -/
def entry9 (met : Bool) : WEntry := { entry := 0x01000100, tx := 1, ty := 2, tz := 3, ctr := 15, thr := 5, allot := 8, hv := false, prio := 3, arg := 9, part := 0, met := met }
def waiting (l : NMap WEntry) : State := { (st [(1, 5), (2, 0)]) with cores := [(0, { table := l })] }
theorem hyp_TasksAndCounters_set : let s := waiting [(15, entry9 false)]; (s.core 0).table = [(15, entry9 false)] ∧ (entry9 false).met = false ∧ (entry9 false).thr.toInt ≤ ((s.xr 1).setWidth 32).toInt
    ∧ freeSlot (List.replicate 16 0 |>.zipIdx.map fun q => (q.2, entry9 false)) = none := by decide +kernel
theorem hyp_TasksAndCounters_send : let s := st [(1, 0x01000008), (2, 3), (3, 0x1000)]; s.calm ∧ (s.xr 1).toNat % 8 = 0
    ∧ s.locate (s.xr 1) 8 { w := true } = .ok (⟨.at 0x01000008, .plain⟩, after_ s (s.xr 1) 8 { w := true }) ∧ s.inPart 0 (s.xr 3).toNat = true :=
  ⟨calm_ (by decide +kernel), by decide +kernel, located_ok (by decide +kernel), by decide +kernel⟩
theorem hyp_TasksAndCounters_events : base.task base.t.tid = some base.t ∧ base.posted = [] ∧ base.owned 7 = true ∧ base.owned 8 = false
    ∧ (let s := waiting [(15, entry9 true)]; (s.core 0).table.find (15 : Fin 16).val = some (entry9 true) ∧ (entry9 true).met = true ∧ (s.tasksOn 0).length < 16
      ∧ (s.part 0).held = false ∧ (s.hatboxRoom 0 0 false).isSome = true ∧ s.nextTid ≠ 0 ∧ s.t.tid ≠ s.nextTid) := by decide +kernel
theorem hyp_TasksAndCounters_test : let s : State := { base with posted := [⟨1, leCells 0x01000000 8 5⟩] }
    s.posted = ⟨1, leCells 0x01000000 8 5⟩ :: [] ∧ (∀ c ∈ leCells 0x01000000 8 5, s.underTest c.1 1 = false) ∧ (∃ c ∈ leCells 0x01000000 8 5, (under s 0x01000000).underTest c.1 1 = true)
    ∧ (∀ p ∈ s.posted, s.postedHeld p = false) ∧ s.ownHeld = false ∧ base.ownHeld = false :=
  ⟨rfl, by decide +kernel, ⟨(0x01000000, 5), by decide +kernel, by decide +kernel⟩, by decide +kernel⟩
theorem hyp_TasksAndCounters_done : base.quiet ∧ base.t.handleReport = none ∧ base.t.matrixReport = none ∧ base.t.answers = []
    ∧ base.t.handleOps = [] := ⟨quiet_ (by decide +kernel), by decide +kernel⟩

/-- A message in core 0's mailbox. -/
def mail (l : List W64) : State := { (st [(1, 8190), (2, 7)]) with cores := [(0, { mailbox := l })] }
theorem hyp_Messages : let s := mail [coreMsg 1 8 5]; s.calm ∧ s.inPart 0 7 = true ∧ s.inPart 0 8 = false ∧ s.mailLoad 7 < 32 ∧ (s.xr 1).toNat < 8192 ∧ (s.xr 1).toNat % 2 = 0
    ∧ takeMsg ((s.xr 1).setWidth 16) (s.core 0).mailbox = some (coreMsg 1 8 5, []) ∧ matrixKind (coreMsg 1 8 5) = false ∧ (s.core 0).held = []
    ∧ takeMsg ((s.xr 1).setWidth 16) ((mail []).core 0).mailbox = none ∧ 8192 ≤ (8192 : W64).toNat ∧ (1 : W64).toNat % 2 = 1 := ⟨calm_ (by decide +kernel), by decide +kernel⟩
/-- Task 2 on core 0 parked on p, and a message to core 0 on its way from a task that has ended. -/
def parked_ (p : Park) : State := { base with tasks := [(2, { task with tid := 2, run := .parked p })], sends := [⟨0, some (coreMsg 1 8 5), 3, 0, 0, 0⟩] }
theorem hyp_Messages_user : let s := parked_ (.message 256); s.owned 0 = true ∧ s.task 3 = none ∧ s.waiter 0 (msgKind (coreMsg 1 8 5)) = s.task 2 ∧ (s.task 2).isSome = true
    ∧ (parked_ .halt).waiter 0 (msgKind (coreMsg 1 8 5)) = none ∧ ((parked_ .halt).core 0).mailbox.length < 32 ∧ ((parked_ .halt).core 0).held = [] := by decide +kernel
theorem hyp_Messages_sender : let s : State := { parked_ (.message 256) with cores := [(0, { held := [coreMsg 1 7 4] })] }; s.senderHolds 0 (coreMsg 1 8 5) = true ∧ s.owned 0 = true
    ∧ (parked_ (.message 256)).senderHolds 0 (coreMsg 1 8 5) = false := by decide +kernel
theorem hyp_Messages_flights : let s := parked_ .halt; let f : Flight := ⟨0, some (coreMsg 1 8 5), 3, 0, 0, 0⟩; let e : Flight := { f with msg := some (coreMsg 1 8 4) }
    s.sends = [] ++ f :: [] ∧ s.inPart f.part f.core = true ∧ s.inPart 1 f.core = false ∧ e.core = f.core ∧ e.tid = f.tid ∧ e.msg ≠ none ∧ e.msg ≠ f.msg := by decide +kernel
theorem hyp_Messages_interrupt : let s := on (mail [coreMsg 1 8 5]) fun t => { t with st := { t.st with uie := true }, uiMask := 256 }
    s.t.wake = none ∧ s.t.st.uie = true ∧ s.t.st.uia = false ∧ s.t.st.s = false ∧ s.t.st.ph = .n ∧ s.t.slot = none ∧ s.t.seq.cap = none
    ∧ ∃ m ∈ (s.core s.t.core).mailbox, selects s.t.uiMask (msgKind m) = true := ⟨rfl, rfl, rfl, rfl, rfl, rfl, rfl, _, List.mem_cons_self, by decide +kernel⟩
theorem hyp_Messages_resume : let s := parked_ .halt; let t := { task with tid := 2, run := .parked .halt }
    s.task t.tid = some t ∧ ((s.tasksOn 0).find? fun u => u.tid % 2 ^ 32 == 2) = some t ∧ t.run = .parked .halt ∧ ((parked_ (.handle 0 1 false)).task 2).isSome = true := by decide +kernel
theorem hyp_Messages_hready (dead : Bool) : let s : State := { entry_ hd { gen := 5, state := 1, refcnt := 0, dead := dead } with tasks := [(2, { task with tid := 2, run := .parked (.handle 0 1 false) })] }
    s.task 2 = some { task with tid := 2, run := .parked (.handle 0 1 false) } ∧ s.pkg.units = [] ∧ (s.hGet 0 1).dead = dead ∧ (s.hGet 0 1).gen = 5 ∧ s.readyComing 0 (BitVec.ofNat 48 (5 * 2 ^ 32 + 1)) = false := by
  cases dead <;> decide +kernel

/-- Groups of cluster 0; the task belongs to group 15. -/
def grouped (l : List Nat) : State := { (st [(1, 15), (2, 0x01002000)]) with clusters := [(0, { base.cluster 0 with groups := [(15, { members := l })] })] }
theorem hyp_GroupsAndPhases : let s := grouped [1]; let o : State := { (on (grouped [1, 2]) fun t => { t with core := 1 }) with tasks := [(2, { task with tid := 2 })] }; let e := grouped []
    s.numbered ∧ s.calm ∧ ¬ (∃ m ∈ (e.group 0 15).members, ∃ t, e.task m = some t ∧ t.core = 0) ∧ isOpt s.t.core = false ∧ (s.xr 1).toNat ≤ 15 ∧ 15 < (16 : W64).toNat ∧ s.t.tid ∈ (s.group 0 15).members ∧ s.t.follow = none ∧ (s.xr 2).toNat % 4 = 0 ∧ s.t.slot = none
    ∧ s.t.len = 4 ∧ s.leader 0 15 = some 1 ∧ o.leader 0 15 = some 2 ∧ e.t.tid ∉ (e.group 0 15).members := by
  exact ⟨numbered_ _ rfl, calm_ (by decide +kernel), nofun, by decide +kernel⟩
/-- The task in an exchange phase since cycle 0, at cycle n, with arrivals. -/
def exch (n : Nat) (l : List (Nat × VReg × Nat × Nat)) : State :=
  { (on base fun t => { t with st := { t.st with ph := .x }, xphase := 0 }) with now := n, cores := [(0, { xrecv := l })] }
theorem hyp_GroupsAndPhases_exchange : check (.sendat 1 7 16383) (exch 16383 []) = none ∧ (exch 16383 []).t.st.ph = .x ∧ (exch 16383 []).t.xsend.find 7 = none ∧ (exch 16383 []).now ≤ 0 + 16383
    ∧ 0 + 16383 < (exch 16384 []).now ∧ (0 : Nat) + 5 + 2 ≤ (exch 7 [(7, 9, 5, 7)]).now ∧ landed 7 7 ((exch 7 [(7, 9, 5, 7)]).core 0).xrecv = some (9, 5)
    ∧ landed 7 7 ((exch 7 [(7, 9, 4, 6)]).core 0).xrecv = some (9, 4) := by decide +kernel
theorem hyp_GroupsAndPhases_phase : base.quiet ∧ base.t.answers = [] ∧ base.t.xsend = [] ∧ isOpt base.t.core = false ∧ (on base fun t => { t with core := 0x1000 }).quiet ∧ isOpt 0x1000 = true :=
  ⟨quiet_ (by decide +kernel), by decide +kernel, by decide +kernel, by decide +kernel, quiet_ (by decide +kernel), by decide +kernel⟩
theorem hyp_GroupsAndPhases_waits : (on base fun t => { t with answers := [⟨.die 0, 5, some 1, 9, [], (0, 0)⟩] }).t.answers ≠ [] ∧ (on (exch 5 []) fun t => { t with xsend := [(1, ((5 : VReg), 3))] }).t.xsend ≠ []
    ∧ (exch 5 []).t.st.ph = .x ∧ (exch 5 []).t.xsend = [] := by decide +kernel
theorem hyp_GroupsAndPhases_release : let t := { task with run := .parked (.barrier 0 15) }
    let s : State := { base with t := t, clusters := [(0, { groups := [(15, { members := [1], release := some [1] })] })], now := 64 }
    s.numbered ∧ s.task t.tid = some t ∧ (s.group 0 (15 : Fin 16).val).release = some [1] ∧ (s.group 0 (15 : Fin 16).val).members ≠ [] ∧ s.xclock 0 % 64 = 0 ∧ t.tid ∈ [1] ∧ t.run = .parked (.barrier 0 15) :=
  ⟨numbered_ _ rfl, by decide +kernel⟩
theorem hyp_GroupsAndPhases_boundary : let t := { task with xhold := some 63 }; let s : State := { base with t := t, now := 64 }
    s.numbered ∧ s.task t.tid = some t ∧ s.xclock 0 % 64 = 0 ∧ t ∈ s.allTasks ∧ t.xhold = some 63 ∧ 63 < s.now ∧ isCompute t.core = true ∧ clusterOf t.core = 0 :=
  ⟨numbered_ _ rfl, by decide +kernel⟩
theorem hyp_GroupsAndPhases_transfer : let t := { task with st := { task.st with ph := .x }, xsend := [(1, ((5 : VReg), 3))] }; let s : State := { base with t := t, now := 3 }
    s.numbered ∧ (∀ u ∈ s.allTasks, s.task u.tid = some u) ∧ t ∈ s.allTasks ∧ t.xsend.find (1 : Fin 8).val = some (5, 3) ∧ t.xphase + 3 ≤ s.issued t.core
    ∧ ({ s with now := 2 } : State).issued t.core < t.xphase + 3 := ⟨numbered_ _ rfl, by decide +kernel⟩

/-- A launch of one task, placed, with a tree; the task belongs to it. -/
def launch_ (f : Launch → Launch := id) : Launch := f { part := 0, queue := 0, index := 0, d := [0, 0, 2 ^ 32 + 2 ^ 16 + 1], placed := 1, tids := [1], tree := some 0 }
def launched (t : Machine.Task → Machine.Task := id) (f : Launch → Launch := id) : State :=
  { (on (st [(1, 0x01000000), (2, 0)]) fun u => t { u with launch := 5 }) with launches := [(5, launch_ f)] }
theorem hyp_SuperstepsAndRegions : let s := launched; let r := s.locatePieces 64 64 { r := true, w := true } .plain [s.xr 1]; let s1 := landed_ s r
    s.numbered ∧ s.calm ∧ r = .ok (got r, s1) ∧ s.launches.find s.t.launch = some launch_ ∧ (launch_).tree ≠ none ∧ s.t.st.ph = .n ∧ treeOk .sum (s.xr 2) = true ∧ treeOk .sum 8 = false ∧ highAddr (s.xr 1) = false
    ∧ (s.xr 1).toNat % 64 = 0 ∧ s1.bad = [] ∧ s.t.handleReport = none ∧ base.launches.find base.t.launch = none ∧ (s.part 0).regionOpen = false
    ∧ ((s.setPart 0 { s.part 0 with regionOpen := true }).part 0).regionOpen = true ∧ (exch 0 []).t.st.ph ≠ .n ∧ (63 : W64).toNat % 64 ≠ 0 :=
  ⟨numbered_ _ rfl, calm_ (by decide +kernel), got_ok (by decide +kernel), by decide +kernel⟩
theorem hyp_Supersteps_release : let s := launched (fun t => { t with run := .parked (.syncall true) }); s.numbered ∧ s.syncReady 5 = true ∧ s.task s.t.tid = some s.t := ⟨numbered_ _ rfl, by decide +kernel⟩
theorem hyp_Supersteps_round : let a : Arrival := ⟨1, 0, .sum, 0, 0x01000000, 7⟩; let s := launched (fun t => { t with treeRound := 1, run := .parked (.tree true) }) fun l => { l with arrivals := [a] }
    s.launches.find 5 = some (launch_ fun l => { l with arrivals := [a] }) ∧ s.roundReady 5 0 = true ∧ sortArrivals s [a] = [a]
    ∧ (((s.setLaunch 5 launch_).focus 1).locatePieces 64 64 { w := true } .plain [0x01000000]).toOption.isSome = true := by decide +kernel
theorem hyp_Supersteps_waits : treeWaits launched ⟨1, 0, .sum, 0, 0x01000000, 7⟩ = false := by decide +kernel
theorem hyp_Regions : ({ base with now := 256 } : State).now % 256 = 0 ∧ ({ base with parts := [(0, { base.part 0 with regionOpen := true })] } : State).parts = [(0, { base.part 0 with regionOpen := true })]
    ∧ base.waiter (base.part 0).supcore 10 = none ∧ (base.core (base.part 0).supcore).mailbox.length < 32 ∧ (base.core (base.part 0).supcore).held = [] := by decide +kernel
/-- A deadlock with one record at 0x03000000. -/
def dead_ : Deadlock := ⟨1, 0x03000000, 0, [[1, 2]]⟩
theorem hyp_Regions_records : let s := { paged base [] with clusters := [] }; (s.writeRecords 0 dead_).any (fun q => q.1 == 1) = true ∧ ((under s 0x03000000).writeRecords 0 dead_).isNone = true
    ∧ (match s.mPieces 0 0 { w := true } (runsOf (bytesFrom 0x03000000 16)) with
      | .ok (ps, u) => (u.engWrite 0 ps ((dead_.records.flatMap fun r => r.flatMap fun w => leBytes 8 w).zipIdx.map fun b => (0x03000000 + b.2, b.1))).any fun w => !w.refused && !w.lost
      | .error _ => false) = true := by decide +kernel
/-- A region of partition 0 whose waves have been calm once, with a task parked in QUIET and perhaps another parked. -/
def quiet2 (r : Run) : State :=
  { base with t := { task with run := .parked .quiet }, tasks := [(2, { task with tid := 2, run := r })]
              parts := [(0, { base.part 0 with regionOpen := true, regionBegun := true, regionSums := some (base.totals 0) })] }
theorem hyp_Regions_wave : let s := quiet2 (.parked .quiet); let d := quiet2 (.parked (.barrier 0 1)); let p := s.part 0
    p.regionOpen = true ∧ p.regionBegun = true ∧ (s.totals 0).1 = (s.totals 0).2 ∧ s.busy 0 = false ∧ p.regionSums = some (s.totals 0)
    ∧ (s.allTasks.filter fun t => t.part == 0 && t.isQuiet) ≠ [] ∧ s.parkRecords 0 = [] ∧ d.busy 0 = false ∧ (d.part 0).regionSums = some (d.totals 0) ∧ d.parkRecords 0 ≠ [] ∧ (quiet2 .ready).busy 0 = true := by decide +kernel

/-- The mailbox with command words and its doorbell. -/
def mailbox_ (l : List W64) (s : State := base) : State :=
  { s with pkg := { s.pkg with cmd := l.zipIdx.foldl (fun v q => v.set! q.2 q.1) s.pkg.cmd, doorbell := true } }
theorem commanded_ {s : State} {op : Nat} (h : s.pkg.booted = true ∧ s.pkg.doorbell = true ∧ s.pkg.busy = false ∧ s.cOp = op ∧ s.c0Ok = true) : s.commanded op := h
/-- Power command op for unit u: state k. -/
def power_ (op u k : Nat) : W64 := BitVec.ofNat 64 (k * 2 ^ 48 + 2 ^ 32 + u * 2 ^ 16 + op)
theorem hyp_PowerAndGovernors : (mailbox_ [power_ 1 3 3]).commanded 1 ∧ (mailbox_ [power_ 2 511 2]).commanded 2 ∧ (mailbox_ [power_ 3 95 0]).commanded 3 ∧ (mailbox_ [power_ 2 511 2]).cCount = 1
    ∧ (mailbox_ [power_ 2 511 2]).cFirst = 511 ∧ (mailbox_ [power_ 2 511 2]).unitRetired pCluster 511 = false ∧ (mailbox_ [power_ 2 511 2]).resident pCluster 511 = false
    ∧ (mailbox_ [power_ 2 0 2]).resident pCluster 0 = true ∧ 512 < (mailbox_ [power_ 2 512 2]).cFirst + (mailbox_ [power_ 2 512 2]).cCount ∧ 2 ≤ (Power.ofCode 2).depth ∧ (Power.ofCode 1).depth < 2
    ∧ (base.die 0).holdEnd ≤ base.now := ⟨commanded_ (by decide +kernel), commanded_ (by decide +kernel), commanded_ (by decide +kernel), by decide +kernel⟩
theorem hyp_PowerAndGovernors_exit : ({ base with pkg := { base.pkg with exits := [(unitKey pCluster 511, .run)] } } : State).pkg.exits.find (unitKey pCluster 511) = some .run := by decide +kernel
theorem hyp_PowerAndGovernors_clock : let s : State := { base with pkg := { base.pkg with exits := [(unitKey pDie 3, .run)], dies := [(3, { power := .idle, nextClk := 5 })] } }
    s.pkg.exits.find (unitKey pDie 3) = some .run ∧ (let z := (s.setPkg { s.pkg with exits := s.pkg.exits.del (unitKey pDie 3) }).setUnitPower pDie 3 .run; (z.die 3).nextClk ≠ (z.die 3).clk)
    ∧ s.mem.wf = true := by decide +kernel
/-- Die 3 as f makes it. -/
def die3 (f : Die → Die) (n : Nat := 0) : State := { (base.setDie 3 (f {})) with now := n }
theorem hyp_Governors : ((die3 id).die 3).limit < 1876 ∧ 1875 ≤ ((die3 id).die 3).limit ∧ ((die3 fun d => { d with rate := 8 }).die 3).rate ≠ 1 ∧ ((die3 (fun d => { d with rate := 2 }) 1900).die 3).coolSince + 1900 ≤ 1900
    ∧ ((die3 id).die 3).alert < 106 ∧ ((die3 id).die 3).alertAt = none ∧ (105 : Nat) ≤ ((die3 id).die 3).alert
    ∧ (let d := (die3 (fun d => { d with alertAt := some 0 }) 3800000).die 3; d.alertAt = some 0 ∧ d.thermalHold = false ∧ d.commanded = false) ∧ (0 : Nat) + 3800000 ≤ (die3 id 3800000).now
    ∧ (let d := (die3 fun d => { d with alertAt := some 0, commanded := true }).die 3; d.commanded = true ∧ 100 + 5 ≤ d.alert ∧ d.alert < 101 + 5) ∧ (125 : Nat) < 126 := by decide +kernel
theorem hyp_Governors_end : let a := (die3 fun d => { d with alertAt := some 0 }).die 3; let c := (die3 fun d => { d with thermalHold := true, commanded := true }).die 3
    (100 + 5 ≤ a.alert ∧ a.alertAt ≠ none ∧ a.commanded = false) ∧ (100 + 5 ≤ c.alert ∧ c.thermalHold = true ∧ c.commanded = true) := by decide +kernel

/-- A partition block at 0x01000000: its supervisor core 8 in cluster 1. -/
def blockWords : List Nat := [0x00200000, 10 * 2 ^ 48 + 0x9000000, 0, 0, 0, 0, 12 * 2 ^ 32, 0, 0, 0, 8, 1, 0, 0, 0, 0]
theorem hyp_MailboxCommands : (mailbox_ [0x0000000400000004, 500, 255]).commanded 4 ∧ (mailbox_ [0x0000000400000004, 500, 255]).cFirst + (mailbox_ [0x0000000400000004, 500, 255]).cCount ≤ 4
    ∧ (mailbox_ [0x0000000400000004, 2001, 0]).commanded 4 ∧ (mailbox_ [6, 0x1000, 65536]).commanded 6 ∧ (65536 = 64 * 2 ^ 10) ∧ hostBase + 0x1000 + 32 * 65536 < 2 ^ 48
    ∧ (mailbox_ [5, 0, 0, 0, 0, 0, 0, 0x1000]).commanded 5 ∧ (mailbox_ [5]).pkg.takeLeaf.isSome = true ∧ ({ base.pkg with storeAck := false } : Pkg).takeLeaf.isNone = true
    ∧ (mailbox_ [0x15, 0, 1, 5]).commanded 0x15 ∧ (mailbox_ [0x14, 0]).commanded 0x14 ∧ (mailbox_ [0x14, 0]).holdsWork 0 = true ∧ (mailbox_ [0x10, 0]).commanded 0x10 ∧ ((mailbox_ [0x10, 0]).parts.find 0).isSome = true :=
  ⟨commanded_ (by decide +kernel), by decide +kernel, commanded_ (by decide +kernel), commanded_ (by decide +kernel), by decide +kernel, by decide +kernel, commanded_ (by decide +kernel), by decide +kernel,
    by decide +kernel, commanded_ (by decide +kernel), commanded_ (by decide +kernel), by decide +kernel, commanded_ (by decide +kernel), by decide +kernel⟩
theorem hyp_MailboxCommands_create : let s := mailbox_ [0x0000000100010010, 7, 0x01000000, 0x00010001] { base with mem := ⟨nz 0x01000000 blockWords, []⟩ }
    s.commanded 0x10 ∧ s.parts.find 7 = none ∧ assigned 0x01000000 = true ∧ s.cFirst = 1 ∧ s.cCount = 1 ∧ bitsOf (s.cw 3) 0 16 = 1 ∧ bitsOf (s.cw 3) 16 16 = 1
    ∧ blockOk ((List.range 16).map fun k => s.dw (s.cw 2 + 8 * k)) (s.cRange.flatMap fun k => (List.range 8).map (8 * k + ·)) = true
    ∧ (∀ k ∈ s.cRange, s.clusterTaken k = false ∧ s.clusterPower k = .run) ∧ s.optTaken 1 = false ∧ s.optPower 1 = .run := ⟨commanded_ (by decide +kernel), by decide +kernel⟩
/-- No task in the package. -/
def idle_ : State := { base with t := {} }
theorem hyp_MailboxCommands_rest : let d := mailbox_ [0x14, 0] idle_; let r := mailbox_ [0x0000000200000011, 0, 0x01000000] idle_; let q := mailbox_ [0x0000000100000012, 0] idle_
    d.commanded 0x14 ∧ d.holdsWork 0 = false ∧ r.commanded 0x11 ∧ r.cCount ≠ 0 ∧ assigned 0x01000000 = true
    ∧ r.roomFor 0 { leaving := (r.part 0).computeCores.filter fun c => !r.cRange.contains (clusterOf c), clusters := r.cRange, dest := some (r.cw 2) } = true
    ∧ q.commanded 0x12 ∧ q.cCount = 1 ∧ q.inPart 0 q.cFirst = true ∧ q.roomFor 0 { leaving := [q.cFirst], clusters := [0], dest := none } = true ∧ (q.part 0).resize = none :=
  ⟨commanded_ (by decide +kernel), by decide +kernel, commanded_ (by decide +kernel), by decide +kernel, by decide +kernel, by decide +kernel, commanded_ (by decide +kernel), by decide +kernel⟩
theorem hyp_MailboxCommands_test : let s := mailbox_ [0x0000000100010010, 7, 0x01000000, 0x00010001] { base with mem := ⟨nz 0x01000000 blockWords, []⟩ }
    s.underTest (s.cw 2) 128 = false ∧ (∀ k ∈ s.cRange, s.clusterRetired k = false) ∧ ((mailbox_ [0x15, 0, 1, 5]).parts.find 0).isSome = true
    ∧ base.parts.all (fun q => q.2.resize.isNone) = true ∧ (base.part 0).resize = none := by decide +kernel

theorem hyp_HostAndBoot : State.reset.pkg.booted = false ∧ base.pkg.booted = true ∧ base.bad = [] ∧ base.pkg.units = [] ∧ base.pkg.hostHeld = []
    ∧ assigned 0 = true ∧ base.pkg.doorbell = false ∧ opEvent (mailbox_ [1]).cOp = some .die ∧ opEvent base.cOp = none ∧ (mailbox_ [1]).pkg.doorbell = true := by decide +kernel
theorem hyp_HostAndBoot_status (k : BitVec 384 × BitVec 384) : bootStatusOf k 0 [] = 0 ∧ bootStatusOf k 0 [{ wellFormed := false }] = 4 := ⟨rfl, rfl⟩
theorem hyp_HostAndBoot_test : let s := under base 0x01000000; let h : State := { s with pkg := { s.pkg with aperture := 0 } }
    h.pkg.booted = true ∧ h.pkg.hostHeld.find (0 : Fin 2).val = none ∧ h.underTest (h.pkg.aperture.toNat + 0x01000000) 8 = true ∧ h.bad = [] ∧ assigned 0x01000000 = true
    ∧ h.served 0x01000000 = true ∧ base.underTest 0x01000000 8 = false := by decide +kernel

/-- Queue 15 with a packet of one task for core 0 at its head. -/
def queued (f : QHead → QHead := id) : State :=
  { idle_ with parts := [(0, { base.part 0 with heads := [(15, f { n := 0, d := [0, 0, 2 ^ 32 + 2 ^ 16 + 1, 0, 0, 0, 0, 0], th := 0 })] })] }
theorem hyp_Launches : let s := queued; (s.parts.find 0).isSome = true ∧ s.mem.wf = true ∧ s.bad = [] ∧ (∃ h, (s.part 0).heads.find (15 : Fin 16).val = some h ∧ h.bad = false
      ∧ (s.part 0).candidates = [(15, h)] ∧ s.launches.find h.launch = none ∧ (s.chooseCore 0 h 0).isSome = true ∧ s.nextTid ≠ 0 ∧ s.t.tid ≠ s.nextTid)
    ∧ (∃ h, ((queued fun h => { h with bad := true }).part 0).heads.find (15 : Fin 16).val = some h ∧ h.bad = true) ∧ (s.part 0).held = false :=
  ⟨by decide +kernel, by decide +kernel, by decide +kernel, ⟨_, rfl, by decide +kernel⟩, ⟨_, rfl, by decide +kernel⟩, by decide +kernel⟩
theorem hyp_Launches_resets : let s := { (mailbox_ [0x13, 0]) with parts := [(0, { base.part 0 with wdog := 1 })], now := 1900 }; let p := s.part 0
    s.mem.wf = true ∧ s.commanded 0x13 ∧ s.cw 1 = 0 ∧ p.wdog ≠ 0 ∧ p.wdogPaused = none ∧ s.holdsWork 0 = true ∧ p.wdogBase + p.wdog * 1900 ≤ s.now ∧ (1899 : Nat) < p.wdogBase + p.wdog * 1900 :=
  ⟨by decide +kernel, commanded_ (by decide +kernel), by decide +kernel⟩
theorem hyp_Launches_preempt : let s : State := { base with cores := [(0, { preempt := some 1 })] }; s.numbered ∧ (s.core 0).preempt = some 1 ∧ s.task 1 = some s.t ∧ s.t.run = .running ∧ s.t.atBoundary = true
    ∧ (∀ u ∈ s.allTasks, u.follow = none) ∧ (on base fun t => { t with slot := some 4 }).t.atBoundary = false := ⟨numbered_ _ rfl, by decide +kernel⟩
theorem hyp_Launches_completion : let s : State := { idle_ with launches := [(5, launch_)] }; s.launches.find 5 = some launch_ ∧ (launch_).allPlaced = true ∧ s.launchEmpty 5 = true ∧ s.commandsOf [1] = false
    ∧ s.accessesOf [1] = false ∧ ({ s with posted := [⟨1, []⟩] } : State).accessesOf [1] = true := by decide +kernel
theorem hyp_Launches_test : (base.parts.find 0).isSome = true ∧ (under base (base.part 0).lqtab).queuesHeld 0 = true ∧ base.pkg.units = [] ∧ base.pkg.hostHeld = []
    ∧ base.queuesHeld 0 = false ∧ base.recordHeld (launch_).d = false := by decide +kernel

/-- The unit of class 1 as f makes it. -/
def unit_ (f : TestUnit → TestUnit) : State := base.setUnit 1 0 (f {})
theorem hyp_ErrorsAndTests : unitExists 1 16383 = true ∧ unitExists 1 16384 = false ∧ (base.unit 1 0).testing = false ∧ (base.unit 1 0).retired = false ∧ ((unit_ fun u => { u with testing := true }).unit 1 0).testing = true
    ∧ unitOf 0xF00000000000 = some (1, 0) ∧ assigned 0xF00000000000 = true ∧ isHost 0xF00000000000 = false ∧ (unit_ fun u => { u with used := 7 }).sparesUsed 1 0 < unitSpares 1
    ∧ unitSpares 1 ≤ (unit_ fun u => { u with used := 8 }).sparesUsed 1 0 ∧ ((base.unit 1 0).transients = []) ∧ bitsOf (2 ^ 63 + 11) 63 1 = 1 ∧ bitsOf (2 ^ 63 + 11) 61 1 = 0 ∧ bitsOf (2 ^ 63 + 11) 0 4 = 11
    ∧ bitsOf (2 ^ 63 + 11) 4 4 ≠ 10 := by decide +kernel
theorem hyp_ErrorsAndTests_words : let s := on (st [(1, 2 ^ 56), (2, -1), (3, 0x10000)]) fun t => { t with st := { t.st with s := true } }
    s.calm ∧ check (.selftest 4 1) s = none ∧ bitsOf (s.xr 1).toNat 32 24 = 0 ∧ unitExists (bitsOf (s.xr 1).toNat 56 8) (bitsOf (s.xr 1).toNat 0 32) = true
    ∧ s.unitServes 1 0 0 = true ∧ check (.tlbinv 1 2) s = none ∧ s.xr 2 = BitVec.allOnes 64 ∧ (s.xr 3).toNat % 65536 = 0 ∧ s.xr 3 ≠ 0 ∧ (0x10000 : Nat) + 0x10000 ≤ 2 ^ 56 :=
  ⟨calm_ (by decide +kernel), by decide +kernel⟩

theorem hyp_ErrorsAndTests_leaf : let t := { task with tid := 2, run := .parked (.full 0x800600000 false), waitOn := 0x800600000 }
    t.part = base.t.part ∧ t.holdsLeaf 0x800600000 65536 = true ∧ t.holdsLeaf 0x800000000 65536 = false := by decide +kernel
theorem hyp_CoreEvents : base.t.tid ≠ 0 ∧ ((1, 31) : Nat × Nat) ∈ ({ base with cores := [(0, { phys := [(1, 31)] })] } : State).cores.vals.flatMap (·.phys) ∧ ((1, 31) : Nat × Nat) ∉ (base.core 0).phys ∧ (base.core 0).phys.length < 128
    ∧ (on base fun t => { t with loads := [⟨0, 1, 5, 0, 0, false⟩] }).t.loads = [⟨0, 1, 5, 0, 0, false⟩] ∧ (sup.t.st.s = true ∧ isOpt sup.t.core = false ∧ imctlOk 0 = true)
    ∧ ¬ (base.t.st.s = true ∧ isOpt base.t.core = false ∧ imctlOk 0 = true) ∧ base.task base.t.tid = some base.t ∧ (base.hGet 0 1).state ≠ hEVAL ∧ (base.cluster 0).sparks = [] ∧ base.posted = []
    ∧ (tlbFind 0 (2 ^ 34) (base.cluster (tlbHome 0)).tlb).isSome = true ∧ (tlbFind 0 (2 ^ 34) (base.cluster (tlbHome 8)).tlb).isNone = true := by decide +kernel
theorem hyp_CoreEvents_walk : let s := paged base []; (s.walk 0 (2 ^ 34)).toOption.isSome = true ∧ (s.walk 0 (2 ^ 35)).toOption.isSome = false := by decide +kernel
theorem hyp_CoreEvents_stream : let b : Stream := { d := StreamDesc.of (0x01001000 + 2 ^ 256 * (2 ^ 32 + 1) + 2 ^ 320) }; let s := on base fun t => { t with streams := [(31, b)] }
    s.t.streams.find (31 : Reg).val = some b ∧ b.d.out = false ∧ b.ahead.length < 4 ∧ b.nextAhead = some 0 ∧ b.d.phaseBad 0 s = false ∧ (s.readBlock b.d 0).toOption.isSome = true := by decide +kernel
theorem hyp_CoreEvents_answer : let a : Answer := { clk := .die 0, due := 5, rd := some 1, value := 9 }; let t := { task with answers := [a] }; let s : State := { base with t := t, now := 5 }
    s.task t.tid = some t ∧ t.answers = [a] ∧ a.rd = some 1 ∧ a.regs = [] ∧ a.due ≤ s.reads a.clk ∧ ({ s with now := 4 } : State).reads a.clk < a.due := by decide +kernel
theorem hyp_CoreEvents_search : let s : State := { base with clusters := [(0, { searches := [(1, 0, 0)], searchEnd := 5 })], now := 5 }
    (s.cluster 0).searches = [(1, 0, 0)] ∧ (s.cluster 0).searchEnd ≤ s.issued 0 ∧ ({ s with now := 4 } : State).issued 0 < (s.cluster 0).searchEnd := by decide +kernel
theorem hyp_CoreEvents_evaluation : let s := entry_ hd { gen := 5, state := hEVAL, refcnt := 1, evtask := 77 }; let e := s.hGet 0 1
    e.state = hEVAL ∧ s.mem.wf = true ∧ s.evals.find e.evtask = none ∧ s.task e.evtask = none ∧ e.args = [] ∧ e.waiter = none ∧ e.dead = false ∧ e.charge = 0 := by decide +kernel
theorem hyp_CoreEvents_spark : let s := { (entry_ hd { gen := 5, state := hSUSP, refcnt := 1, op := 1 }) with t := {}, clusters := [(0, { sparks := [hd] })] }; let f := s.hGet (hPart hd) (hIndex hd)
    (s.cluster 0).sparks = hd :: [] ∧ ((List.range 8).find? fun j => s.idle (8 * 0 + j) && decide ((s.evalsOn (8 * 0 + j)).length < 32)).isSome = true ∧ f.state = hSUSP ∧ f.gen = hGen hd
    ∧ f.op ≠ SuspOp.call.code ∧ (s.hatboxRoom 0 0 false).isSome = true := by decide +kernel
theorem hyp_CoreEvents_test : let s : State := { base with clusters := [(0, { searches := [(1, 0, 0x10000)], searchEnd := 5 })], now := 5 }
    s.searchHeld 0 0x10000 = false ∧ (under s (vaultBase 0)).searchHeld 0 0x10000 = true ∧ s.bad = [] ∧ ({ base with now := 1 } : State).goes 0 = true ∧ ((base.setDie 0 { power := .idle }).goes 0) = false
    ∧ base.pkg.units = [] ∧ base.clusterRetired 0 = false := by decide +kernel
theorem hyp_CoreEvents_held : let s := entry_ hd { gen := 5, state := hEVAL, refcnt := 1, evtask := 77 }; let v : Eval := { part := 0, idx := 1, core := 0, prio := 0, hatbox := 0xF00000700000, demand := none, since := 0 }
    s.completeHeld 0 1 = false ∧ (under s ((s.part 0).entryPa 1)).completeHeld 0 1 = true ∧ (under s ((s.part 0).entryPa 1)).entryHeld (hPart hd) (hIndex hd) = true
    ∧ (let r : State := { s with evals := [(77, { v with running := true })] }; r.evals.find (r.named (r.hGet 0 1).evtask) = some { v with running := true }) := by decide +kernel
theorem hyp_CoreEvents_retired : (({ base with pkg := { base.pkg with units := [(unitKey 1 0, { retired := true })] } } : State).clusterRetired 0) = true := by decide +kernel

theorem hyp_PartitionReset : base.parts.find 0 = some (base.part 0) ∧ (base.part 0).lqtab + 1024 ≤ (base.part 0).entryPa 0 ∧ (base.part 0).report + 0x810 ≤ (base.part 0).entryPa 0 := by
  decide +kernel
theorem hyp_RoundTrip : (Instr.vldv 30 31 31 7 .plain .mst).wf = true ∧ (decode 0x15298E78).toOption = some (.acas 5 6 7 true .plain) := by decide +kernel
/-- A lone word at the pc. -/
def fetching (l : List Host.Cell) : State := { base with mem := ⟨l, []⟩, todo := [1] }
theorem hyp_StepRunsDecodedInstruction : let s := fetching (nz 0x01001000 [0]); let o : State := State.settleSeq { s with todo := [], old := none }; let u : State := { o with t := { o.t with trapWait := false } }
    (∀ d e q, s.sched = (d, e) :: q → s.now < d) ∧ u.fetch s.t.pc = .ok (got (u.fetch s.t.pc), landed_ u (u.fetch s.t.pc)) ∧ s.timed = [] ∧ s.todo = s.t.tid :: [] ∧ s.t.tid ≠ 0
    ∧ s.t.run = .running ∧ s.t.hold ≤ s.tclock ∧ s.userPending = false ∧ (∀ l ∈ s.t.loads, l.left ≠ 0)
    ∧ s.t.seq.head = none ∧ s.t.streams = [] ∧ s.t.reloadErr = none ∧ s.t.xhold = none ∧ s.t.lockWait = false ∧ s.t.rowWait = [] ∧ s.t.follow = none ∧ u.queueFull = false :=
  ⟨nofun, got_ok (by decide +kernel), by decide +kernel⟩
theorem hyp_StepRunsDecodedInstruction_words : let n := encode (.add 1 2 3); let c := encode (.ld 4 2 .d .plain 0) ||| 0x80000000
    pairBit n = false ∧ (decode n).toOption = some (.add 1 2 3) ∧ interlocked (.add 1 2 3) base = false ∧ (decode 0).toOption = none ∧ pairBit c = true ∧ classA c = false ∧ base.t.pc.toNat % 8 = 0
    ∧ classA n = true ∧ (decode c).toOption = some (.ld 4 2 .d .plain 0) ∧ sharesDest (.ld 4 2 .d .plain 0) (.add 1 2 3) = false ∧ interlocked (.ld 4 2 .d .plain 0) base = false := by decide +kernel
theorem hyp_StepRunsDecodedInstruction_events : let s : State := { base with sched := [(0, .boot)] }; let u : State := { base with timed := [(.die 0, 5, .boot)], now := 5 }
    (0 : Nat) ≤ s.now ∧ s.sched = [(0, .boot)] ∧ (∀ d e q, u.sched = (d, e) :: q → u.now < d) ∧ u.timed = [] ++ (.die 0, 5, .boot) :: [] ∧ 5 ≤ u.reads (.die 0) ∧ base.timed = [] ∧ base.todo = [] :=
  ⟨by decide +kernel, by decide +kernel, nofun, by decide +kernel⟩
theorem hyp_MemoryInvariant : base.mem.wf = true ∧ ∃ t, step { base with todo := [1] } = .next t := ⟨by decide +kernel, _, rfl⟩

/-! ## Decoding

Words put together from the match values and the field places of spec/opcode_table.json: one for each row, every field at a value of its
own. -/

/-- Each word of the list decodes to the instruction beside it. -/
def decodes (l : List (W32 × Instr)) : Bool := l.all fun q => match decode q.1 with | .ok i => i == q.2 | .error _ => false

theorem test_decode_1 : decodes [
    (0x01000000, .nop), (0x01014010, .trap 5), (0x01000020, .eret), (0x01000030, .halt), (0x01000040, .uret),
    (0x012C8050, .selftest 5 18), (0x01016460, .resume 5 18), (0x02280002, .mfsr 5 .epc), (0x03014002, .mtsr 5 .epc),
    (0x04ABCDEF, .j 0xABCDEF), (0x05ABCDEF, .jl 0xABCDEF), (0x06014000, .jr 5), (0x062C8010, .jlr 5 18),
    (0x072CAABC, .beq 5 18 0x2ABC), (0x082CAABC, .bne 5 18 0x2ABC), (0x092CAABC, .blt 5 18 0x2ABC)] = true := by decide +kernel
theorem test_decode_2 : decodes [
    (0x0A2CAABC, .bge 5 18 0x2ABC), (0x0B2CAABC, .bltu 5 18 0x2ABC), (0x0C2CAABC, .bgeu 5 18 0x2ABC), (0x0D282ABC, .li 5 0x2ABC),
    (0x0E2CAABC, .lis 5 18 0x2ABC), (0x0F282ABC, .lea 5 0x2ABC), (0x102CA955, .ld 5 18 .w .dev 0x155),
    (0x112CA955, .lds 5 18 .w .dev 0x155), (0x122CA955, .st 5 18 .w .dev 0x155), (0x132CB604, .ldv 5 18 27 .dev),
    (0x132C8014, .ldvl 5 18 .dev), (0x132CB624, .stv 5 18 27 .dev), (0x132CB634, .reclaim 5 18 27 .dev)] = true := by decide +kernel
theorem test_decode_3 : decodes [
    (0x142C8004, .ldf 5 18 .dev), (0x142C8014, .ldfe 5 18 .dev), (0x14016424, .stf 5 18 .dev), (0x14014034, .ste 5 .dev),
    (0x152CB60C, .aadd 5 18 27 true .dev), (0x152CB61C, .aand 5 18 27 true .dev), (0x152CB62C, .aor 5 18 27 true .dev),
    (0x152CB63C, .axor 5 18 27 true .dev), (0x152CB64C, .amin 5 18 27 true .dev), (0x152CB65C, .amax 5 18 27 true .dev),
    (0x152CB66C, .aswap 5 18 27 true .dev), (0x152CB67C, .acas 5 18 27 true .dev), (0x152C808C, .ldlk 5 18 true .dev),
    (0x152C809C, .stul 5 18 true .dev)] = true := by decide +kernel
theorem test_decode_4 : decodes [
    (0x162CB604, .rowadd 5 18 27 .dev), (0x162CB614, .rowmax 5 18 27 .dev), (0x162CB624, .rowld 5 18 27 .dev),
    (0x162CB634, .rowst 5 18 27 .dev), (0x17280004, .fence 5 .dev), (0x182CB6E0, .vld 5 18 27 3 .dev),
    (0x192CB6E0, .vst 5 18 27 3 .dev), (0x1A2CB6E0, .vlds 5 18 27 3 .dev), (0x1A2CB6E1, .vsts 5 18 27 3 .dev),
    (0x1A2CB6E2, .vldx 5 18 27 3 .dev), (0x1A2CB6E3, .vstx 5 18 27 3 .dev), (0x1B2CB600, .vstq 5 18 27),
    (0x1C2CB6E2, .vldv 5 18 27 3 .dev .mst)] = true := by decide +kernel
theorem test_decode_5 : decodes [
    (0x1D201404, .hvld 1 5 .dev), (0x1D20140C, .hvldB 1 5 .dev), (0x1D041414, .hvst 1 5 .dev), (0x1D04141C, .hvstB 1 5 .dev),
    (0x1D041420, .hvmemst 1 5), (0x1E017600, .strm 5 27), (0x1E003610, .strmoff 27), (0x1E283620, .strmq 5 27),
    (0x1F2C8000, .copy 5 18), (0x1F2C8010, .gather 5 18), (0x1F2C8022, .scatter 5 18 .add), (0x1F2C8030, .cstat 5 18),
    (0x20016400, .sendmsg 5 18), (0x202C8010, .waitmsg 5 18), (0x202C8020, .pollmsg 5 18), (0x20014030, .uien 5)] = true := by decide +kernel
theorem test_decode_6 : decodes [
    (0x212CB600, .taskw 5 18 27), (0x21000010, .done), (0x212CB62B, .wrc 5 18 27 11), (0x212CB63B, .wrcC 5 18 27 11),
    (0x2128004B, .ctrrd 5 11), (0x2101405B, .ctrset 5 11), (0x222CB606, .susp 5 18 27 .cvt), (0x222C8010, .force 5 18),
    (0x222C8020, .spark 5 18), (0x222CB630, .mkval 5 18 27), (0x222C8040, .peek 5 18), (0x22014050, .keep 5), (0x22014060, .drop 5),
    (0x222C8071, .budget 5 18 .eager)] = true := by decide +kernel
theorem test_decode_7 : decodes [
    (0x232C8000, .gjoin 5 18), (0x232C8010, .gleave 5 18), (0x232C8020, .gbar 5 18), (0x23016430, .follow 5 18),
    (0x23280040, .syncall 5), (0x232CB653, .tree 5 18 27 .and), (0x24000001, .phase .c), (0x244AAABC, .sendat 5 2 0x2ABC),
    (0x248AAABC, .recvat 5 2 0x2ABC), (0x252C8000, .viewreg 5 18), (0x252C8010, .viewdrop 5 18), (0x252CB620, .viewst 5 18 27)] = true := by decide +kernel
theorem test_decode_8 : decodes [
    (0x262CB600, .kvslot 5 18 27), (0x262CB610, .kvapp 5 18 27), (0x262CB620, .kvtrunc 5 18 27), (0x262CB630, .kvevict 5 18 27),
    (0x26016440, .rmapset 5 18), (0x26016450, .tlbinv 5 18), (0x272CB600, .gqpush 5 18 27), (0x272CB610, .gqpop 5 18 27),
    (0x272C8020, .gqwin 5 18), (0x282C8000, .cepost 5 18), (0x282C8010, .cearb 5 18), (0x292C8000, .region 5 18),
    (0x29280010, .quiet 5), (0x2A014001, .allot 5 true), (0x2A014010, .live 5), (0x40000000, .anop)] = true := by decide +kernel
theorem test_decode_9 : decodes [
    (0x412CB600, .add 5 18 27), (0x412CB601, .sub 5 18 27), (0x412CB602, .and 5 18 27), (0x412CB603, .or 5 18 27),
    (0x412CB604, .xor 5 18 27), (0x412CB605, .sll 5 18 27), (0x412CB606, .srl 5 18 27), (0x412CB607, .sra 5 18 27),
    (0x412CB608, .mul 5 18 27), (0x412CB609, .mulh 5 18 27), (0x412CB60A, .mulhu 5 18 27), (0x412CB60B, .div 5 18 27),
    (0x412CB60C, .divu 5 18 27), (0x412CB60D, .rem 5 18 27), (0x412CB60E, .remu 5 18 27), (0x412CB60F, .min 5 18 27)] = true := by decide +kernel
theorem test_decode_10 : decodes [
    (0x412CB610, .max 5 18 27), (0x412CB611, .minu 5 18 27), (0x412CB612, .maxu 5 18 27), (0x412CB613, .slt 5 18 27),
    (0x412CB614, .sltu 5 18 27), (0x412C8015, .clz 5 18), (0x412C8016, .ctz 5 18), (0x412C8017, .popc 5 18),
    (0x422CAABC, .addi 5 18 0x2ABC), (0x432CAABC, .andi 5 18 0x2ABC), (0x442CAABC, .ori 5 18 0x2ABC), (0x452CAABC, .xori 5 18 0x2ABC),
    (0x462C802B, .slli 5 18 0x2B), (0x472C802B, .srli 5 18 0x2B), (0x482C802B, .srai 5 18 0x2B), (0x492CAABC, .slti 5 18 0x2ABC)] = true := by decide +kernel
theorem test_decode_11 : decodes [
    (0x502CB6D0, .vadd 5 18 27 3 .fp16), (0x502CB6D1, .vsub 5 18 27 3 .fp16), (0x502CB6D2, .vmul 5 18 27 3 .fp16),
    (0x502CB6D3, .vmulz 5 18 27 3 .fp16), (0x502CB6D4, .vmin 5 18 27 3 .fp16), (0x502CB6D5, .vmax 5 18 27 3 .fp16),
    (0x502CB6D6, .vfma 5 18 27 3 .fp16), (0x502CB6D7, .vfmaz 5 18 27 3 .fp16), (0x512CB6D0, .vaddX 5 18 27 3 .fp16),
    (0x512CB6D1, .vsubX 5 18 27 3 .fp16), (0x512CB6D2, .vmulX 5 18 27 3 .fp16), (0x512CB6D3, .vmulzX 5 18 27 3 .fp16),
    (0x512CB6D4, .vminX 5 18 27 3 .fp16), (0x512CB6D5, .vmaxX 5 18 27 3 .fp16), (0x512CB6D6, .vfmaX 5 18 27 3 .fp16),
    (0x512CB6D7, .vfmazX 5 18 27 3 .fp16)] = true := by decide +kernel
theorem test_decode_12 : decodes [
    (0x522CB6F0, .vand 5 18 27 3 .int16), (0x522CB6F1, .vor 5 18 27 3 .int16), (0x522CB6F2, .vxor 5 18 27 3 .int16),
    (0x522CB6F3, .vandn 5 18 27 3 .int16), (0x522CB6F4, .vshl 5 18 27 3 .int16), (0x522CB6F5, .vshr 5 18 27 3 .int16),
    (0x522CB6F6, .vsar 5 18 27 3 .int16), (0x522CB6F7, .vrotl 5 18 27 3 .int16), (0x53196590, .vceq 3 5 18 6 .fp16),
    (0x53196591, .vcne 3 5 18 6 .fp16), (0x53196592, .vclt 3 5 18 6 .fp16), (0x53196593, .vcle 3 5 18 6 .fp16),
    (0x53196594, .vcgt 3 5 18 6 .fp16), (0x53196595, .vcge 3 5 18 6 .fp16), (0x53194196, .vcnan 3 5 6 .fp16),
    (0x53194197, .vcinf 3 5 6 .fp16)] = true := by decide +kernel
theorem test_decode_13 : decodes [
    (0x542C80C0, .vmov 5 18 3), (0x542CB6C1, .vsel 5 18 27 3), (0x542824D2, .vbcast 5 18 3 .fp16), (0x54198A03, .pand 3 6 5),
    (0x54198A04, .por 3 6 5), (0x54198A05, .pxor 3 6 5), (0x54198006, .pnot 3 6), (0x552C9EC8, .vcvt 5 18 true .int8 3 .bf16),
    (0x562C80D0, .vrsum 5 18 3 .fp16), (0x562C80D1, .vrmax 5 18 3 .fp16), (0x562C80D2, .vrmin 5 18 3 .fp16),
    (0x562C80D3, .vramax 5 18 3 .fp16), (0x562C80D4, .vrssq 5 18 3 .fp16)] = true := by decide +kernel
theorem test_decode_14 : decodes [
    (0x572CB6D0, .vshuf 5 18 27 3 .fp16), (0x572CB6D1, .vrotr 5 18 27 3 .fp16), (0x572CB6D2, .vslup 5 18 27 3 .fp16),
    (0x572CB6D3, .vsldn 5 18 27 3 .fp16), (0x572CB6D4, .vzip 5 18 27 3 .fp16), (0x572CB6D5, .vunzip 5 18 27 3 .fp16),
    (0x582C80D0, .vexp2 5 18 3 .fp16), (0x582C80D1, .vlog2 5 18 3 .fp16), (0x582C80D2, .vrcp 5 18 3 .fp16),
    (0x582C80D3, .vrsq 5 18 3 .fp16), (0x582C80D4, .vexp 5 18 3 .fp16), (0x582C80D5, .vtanh 5 18 3 .fp16),
    (0x582C80D6, .vsilu 5 18 3 .fp16)] = true := by decide +kernel
theorem test_decode_15 : decodes [
    (0x590964D0, .vstats true 5 18 3 .fp16), (0x592CB6D1, .vsmx 5 18 27 3 .fp16), (0x59282402, .vlse 5 18),
    (0x592824C3, .sbget 5 18 3), (0x590164C4, .sbset 5 18 3), (0x5A2C8788, .vnrd 5 18 3 6 .east), (0x5B016000, .vloop 5 16),
    (0x5B000001, .vsync), (0x5B280002, .vseqst 5), (0x5C2CB610, .vext 5 18 27 .fp16), (0x5C2CB611, .vins 5 18 27 .fp16),
    (0x5C2800F2, .viota 5 3 .int16), (0x5D2CB6D0, .vrrd 5 18 27 3 2), (0x5D2CB6D1, .vrwr 5 18 27 3 2)] = true := by decide +kernel
theorem test_decode_16 : decodes [
    (0x60298000, .hvbind 1 2 3), (0x60299416, .hvperm 1 2 3 5 6), (0x60281418, .hvpermX 1 2 5), (0x60281421, .hvbund 1 2 5 true),
    (0x60280030, .hvthr 1 2), (0x60200040, .hvclr 1), (0x60200041, .hvclrH 1), (0x60051450, .hvdist 1 2 5), (0x60041460, .hvnear 1 5),
    (0x60041470, .hvnear2 1 5), (0x60280080, .hvmov 1 2), (0x60200081, .hvmovLfsr 1), (0x60040082, .hvmovSeed 1)] = true := by decide +kernel

/-- The words that the manual writes out beside their mnemonics. -/
theorem test_manual_words_1 : decodes [
    (0x02280002, .mfsr 5 .epc), (0x03024000, .mtsr 9 .status), (0x22328010, .force 6 10), (0x223A0071, .budget 7 8 .eager),
    (0x5B000001, .vsync), (0x5B300002, .vseqst 6), (0x50190A06, .vfma 3 4 5 0 .fp32), (0x5131924A, .vmulX 6 6 9 1 .bf16),
    (0x5239C576, .vsar 7 7 2 5 .int16), (0x53184512, .vclt 3 1 2 4 .fp16), (0x54081802, .vbcast 1 12 0 .fp32), (0x5410C006, .pnot 2 3),
    (0x5510DE00, .vcvt 2 3 true .int8 0 .fp32), (0x563A4088, .vrsum 7 9 2 .bf16), (0x57190C3B, .vsldn 3 4 6 0 .int8),
    (0x58108000, .vexp2 2 2 0 .fp32), (0x5C2A4C28, .vext 5 9 6 .int32), (0x5C500072, .viota 10 1 .int16),
    (0x5D020A38, .vrrd 0 8 5 0 7), (0x5D404A39, .vrwr 8 1 5 0 7), (0x5A298608, .vnrd 5 6 3 0 .east), (0x1029A002, .ld 5 6 .w .plain 2),
    (0x111911FF, .lds 3 4 .h .plain 0x1FF), (0x24000001, .phase .c), (0x24000000, .phase .n), (0x24000002, .phase .x)] = true := by decide +kernel
theorem test_manual_words_2 : decodes [
    (0x18410A80, .vld 8 4 5 2 .plain), (0x19410020, .vst 8 4 0 0 .dev), (0x1A190A00, .vlds 3 4 5 0 .plain),
    (0x1A190A02, .vldx 3 4 5 0 .plain), (0x1B118E00, .vstq 2 6 7), (0x1E013000, .strm 4 24), (0x1E003010, .strmoff 24),
    (0x1E283020, .strmq 5 24), (0x1F298000, .copy 5 6), (0x1F298010, .gather 5 6), (0x1F298022, .scatter 5 6 .add),
    (0x1F394030, .cstat 7 5), (0x23298000, .gjoin 5 6), (0x23298010, .gleave 5 6), (0x23018E30, .follow 6 7),
    (0x248E40C8, .recvat 7 1 200), (0x15298E78, .acas 5 6 7 true .plain), (0x15298088, .ldlk 5 6 true .plain),
    (0x15298098, .stul 5 6 true .plain), (0x14298004, .ldf 5 6 .dev), (0x14298010, .ldfe 5 6 .plain), (0x14018030, .ste 6 .plain),
    (0x13298010, .ldvl 5 6 .plain), (0x13298E24, .stv 5 6 7 .dev), (0x13298E30, .reclaim 5 6 7 .plain),
    (0x1C218E01, .vldv 4 6 7 0 .plain .take), (0x1C218E02, .vldv 4 6 7 0 .plain .mst), (0x23298E50, .tree 5 6 7 .sum)] = true := by decide +kernel

/-- Words that name no instruction (R38 to R40): no major, a minor that none has, sc code 7, LDS of a doubleword, a stream register below
v24, an integer VMULZ, VRRD past v31. -/
theorem test_refused_words : [(0x00000000 : W32), 0x01000001, 0x10298E00, 0x11003000, 0x1E010000, encode (.vmulz 1 2 3 0 .int8), encode (.vrrd 0 25 5 0 7)].all
    (fun w => match decode w with | .error _ => true | .ok _ => false) = true := by decide +kernel

/-! ## Ill-formed terms: one for each check of Instr.wf -/

theorem test_wf_lds : (Instr.lds 1 2 .d .plain 0).wf = false ∧ (Instr.lds 1 2 .w .plain 0).wf = true := by decide
theorem test_wf_fence : (Instr.fence 1 .plain).wf = false ∧ (Instr.fence 1 .row).wf = true := by decide
theorem test_wf_vldv : (Instr.vldv 31 1 2 0 .plain .wait).wf = false ∧ (Instr.vldv 30 1 2 0 .plain .wait).wf = true := by decide
theorem test_wf_streams : (Instr.strm 1 23).wf = false ∧ (Instr.strmoff 23).wf = false ∧ (Instr.strmq 1 23).wf = false ∧ (Instr.strm 1 24).wf = true := by decide
theorem test_wf_float_only : [Instr.vmulz 1 2 3 0 .int32, .vfmaz 1 2 3 0 .int16, .vmulzX 1 2 3 0 .int8, .vfmazX 1 2 3 0 .int32, .vcnan 1 2 0 .int8, .vcinf 1 2 0 .int16].all (fun i => !i.wf) = true := by decide
theorem test_wf_integer_only : [Instr.vand 1 2 3 0 .fp32, .vor 1 2 3 0 .bf16, .vxor 1 2 3 0 .fp16, .vandn 1 2 3 0 .e4m3, .vshl 1 2 3 0 .e5m2, .vshr 1 2 3 0 .fp32, .vsar 1 2 3 0 .bf16, .vrotl 1 2 3 0 .fp16,
    .viota 1 0 .fp32].all (fun i => !i.wf) = true := by decide
theorem test_wf_wide_only : [Instr.vexp2 1 2 0 .e4m3, .vlog2 1 2 0 .e5m2, .vrcp 1 2 0 .int32, .vrsq 1 2 0 .int16, .vexp 1 2 0 .int8, .vtanh 1 2 0 .e4m3, .vsilu 1 2 0 .e5m2, .vstats false 1 2 0 .int8,
    .vsmx 1 2 3 0 .e4m3].all (fun i => !i.wf) = true := by decide
theorem test_wf_vloop : (Instr.vloop 1 0).wf = false ∧ (Instr.vloop 1 17).wf = false ∧ (Instr.vloop 1 16).wf = true := by decide
theorem test_wf_windows : (Instr.vrrd 0 25 5 0 7).wf = false ∧ (Instr.vrwr 25 0 5 0 7).wf = false ∧ (Instr.vrrd 0 24 5 0 7).wf = true := by decide
theorem test_wf_hvnear2 : (Instr.hvnear2 1 0).wf = false ∧ (Instr.hvnear2 1 31).wf = false ∧ (Instr.hvnear2 1 30).wf = true := by decide
theorem test_wf_no_word : [Instr.boot, .waveBoundary, .mma 0, .limits, .partitionReset 0 1].all (fun i => !i.wf) = true := by decide

/-! ## One step of some instructions

Expected values are worked out by hand from the rule beside each test. -/

/-- Register r after an instruction. -/
def xAfter (r : Reg) (i : Instr) (s : State) : W64 := match exec i s with | .next t => t.t.xr r | _ => 0
/-- Element e of w bytes of register r after a vector word. -/
def eAfter (w e : Nat) (r : Reg) (i : Instr) (s : State) : Nat := match exec i s with | .next t => elemAt w (t.t.vr r) e | _ => 0
/-- The state an instruction leaves. -/
def after (i : Instr) (s : State) : State := match exec i s with | .next t => t | _ => s
/-- R51: −2^63 by −1, and by 0. -/
theorem test_div : xAfter 3 (.div 3 1 2) (st [(1, 0x8000000000000000), (2, -1)]) = 0x8000000000000000 ∧ xAfter 3 (.rem 3 1 2) (st [(1, 0x8000000000000000), (2, -1)]) = 0
    ∧ xAfter 3 (.div 3 1 2) (st [(1, 7)]) = -1 ∧ xAfter 3 (.rem 3 1 2) (st [(1, -7), (2, 2)]) = -1 ∧ xAfter 3 (.div 3 1 2) (st [(1, -7), (2, 2)]) = -3 := by decide +kernel
/-- R50: shift counts are modulo 64; high products; counts of 0. -/
theorem test_alu : xAfter 3 (.sra 3 1 2) (st [(1, 0x8000000000000000), (2, 65)]) = 0xC000000000000000 ∧ xAfter 3 (.sll 3 1 2) (st [(1, 1), (2, 64)]) = 1
    ∧ xAfter 3 (.mulh 3 1 2) (st [(1, -1), (2, -1)]) = 0 ∧ xAfter 3 (.mulhu 3 1 2) (st [(1, -1), (2, -1)]) = 0xFFFFFFFFFFFFFFFE ∧ xAfter 3 (.clz 3 1) base = 64 ∧ xAfter 3 (.ctz 3 1) (st [(1, 8)]) = 3
    ∧ xAfter 3 (.slt 3 1 2) (st [(1, -1)]) = 1 ∧ xAfter 3 (.sltu 3 1 2) (st [(1, -1)]) = 0 ∧ xAfter 0 (.add 0 1 1) (st [(1, 5)]) = 0 := by decide +kernel
/-- R52, R53: Sext(imm); LIS appends 14 bits; LEA is relative to the unit. -/
theorem test_immediates : xAfter 3 (.addi 3 1 0x3FFF) (st [(1, 5)]) = 4 ∧ xAfter 3 (.andi 3 1 0x2000) (st [(1, -1)]) = 0xFFFFFFFFFFFFE000 ∧ xAfter 3 (.lis 3 1 0x3FFF) (st [(1, 1)]) = 0x7FFF
    ∧ xAfter 3 (.lea 3 0x3FFF) base = 0x01000FFC := by decide +kernel
/-- R54, R55: the target of a branch back by one word; the return address past a delay slot of one word. -/
theorem test_transfers : (after (.beq 1 2 0x3FFF) base).t.xfer = some 0x01000FFC ∧ (after (.bne 1 2 5) base).t.xfer = none ∧ xAfter 5 (.jlr 5 1) (st [(1, 0x2000)]) = 0x01001008
    ∧ (after (.jr 1) (st [(1, 0x2000)])).t.xfer = some 0x2000 := by decide +kernel
/-- R72: TRAP enters the handler with EPC at the following unit. -/
theorem test_trap : let t := (after (.trap 1) (st [(1, 9)])).t; t.pc = 0x01000000 ∧ t.epc = 0x01001004 ∧ t.cause = 0x0C ∧ t.tval = 9 ∧ t.st.s = true ∧ t.st.ps = false := by decide +kernel
/-- R42, R56: PRIV for SELFTEST at task level; DSLOT for a branch in a delay slot. -/
theorem test_refusals : (after (.selftest 1 2) base).t.cause = BitVec.ofNat 64 Cause.priv.code ∧ (after (.j 4) (on base fun t => { t with slot := some 0x2000 })).t.cause = BitVec.ofNat 64 Cause.dslot.code := by
  decide +kernel
/-- R175: sign and zero extension of the byte 0x80 at the top of the window's first word. -/
theorem test_loads : let s := { (st [(1, 8)]) with mem := ⟨[(0xF00000000008, 0x80)], []⟩ }; xAfter 3 (.ld 3 1 .b .plain 0) s = 0x80 ∧ xAfter 3 (.lds 3 1 .b .plain 0) s = 0xFFFFFFFFFFFFFF80
    ∧ xAfter 3 (.ld 3 1 .d .plain 0x1FF) (st [(1, 8)]) = 0 := by decide +kernel
/-- R175: ST.h writes two bytes, the low one first; R173: a misaligned address raises ALIGN. -/
theorem test_store : (after (.st 1 2 .h .plain 1) (st [(1, 0xABCD), (2, 6)])).mem.cells = [(0xF00000000008, 0xCD), (0xF00000000009, 0xAB)]
    ∧ (after (.st 1 2 .h .plain 0) (st [(2, 7)])).t.cause = BitVec.ofNat 64 Cause.align.code := by decide +kernel
/-- R215: AADD.w answers the old word, sign-extended, and stores the sum modulo 2^32. -/
theorem test_atomic : let t := after (.aadd 3 1 2 false .plain) { (st [(1, 0x01000000), (2, 1)]) with mem := ⟨[(0x01000000, 0xFF), (0x01000001, 0xFF), (0x01000002, 0xFF), (0x01000003, 0xFF)], []⟩ }
    t.mem.cells = [] ∧ t.t.answers.map (fun a => (a.rd, a.value)) = [(some 3, 0xFFFFFFFFFFFFFFFF)] := by decide +kernel
/-- R62: bits at or above ALLOTN of LIVEM are zero. -/
theorem test_live : (after (.live 1) (on (st [(1, -1)]) fun t => { t with allotn := 4 })).t.livem = 0xF := by decide +kernel
/-- R140: 1.5 + 2.5 = 4 in fp32, 127 + 1 wraps in int8, and 2^24 + 1 rounds to even. -/
theorem test_vadd : eAfter 4 63 3 (.vadd 3 1 2 0 .fp32) (sv 4 [(1, 0x3FC00000), (2, 0x40200000)]) = 0x40800000 ∧ eAfter 1 255 3 (.vadd 3 1 2 0 .int8) (sv 1 [(1, 0x7F), (2, 1)]) = 0x80
    ∧ eAfter 4 0 3 (.vadd 3 1 2 0 .fp32) (sv 4 [(1, 0x4B800000), (2, 0x3F800000)]) = 0x4B800000 := by decide +kernel
/-- R140: 3·2 + 1 = 7 in bf16; a scalar second operand takes its low bits. -/
theorem test_vfma : eAfter 2 5 3 (.vfma 3 1 2 0 .bf16) (sv 2 [(1, 0x4040), (2, 0x4000), (3, 0x3F80)]) = 0x40E0 ∧ eAfter 2 5 3 (.vmulX 3 1 2 0 .int16) (sv 2 [(1, 3)] (st [(2, 0x10005)])) = 15 := by decide +kernel
/-- R142: NaN compares unequal and unordered. -/
theorem test_compares : let s := sv 4 [(1, 0x7FC00000)]; ((after (.vceq 1 1 1 0 .fp32) s).t.pr 1) = 0 ∧ ((after (.vcne 1 1 1 0 .fp32) s).t.pr 1) = BitVec.allOnes 256 ∧ ((after (.vcnan 1 1 0 .fp32) s).t.pr 1) = BitVec.allOnes 256 := by
  decide +kernel
/-- R144: 2.5 to int8 rounds to even, and toward zero with rtz; 300 saturates. -/
theorem test_vcvt : eAfter 1 0 3 (.vcvt 3 1 false .int8 0 .fp32) (sv 4 [(1, 0x40200000)]) = 2 ∧ eAfter 1 0 3 (.vcvt 3 1 true .int8 0 .fp32) (sv 4 [(1, 0xC0300000)]) = 0xFE
    ∧ eAfter 1 0 3 (.vcvt 3 1 false .int8 0 .fp32) (sv 4 [(1, 0x43960000)]) = 0x7F := by decide +kernel
/-- R145: 256 elements of −128 sum to −32,768; the largest magnitude is 128. -/
theorem test_reductions : xAfter 3 (.vrsum 3 1 0 .int8) (sv 1 [(1, 0x80)]) = -32768 ∧ xAfter 3 (.vramax 3 1 0 .int8) (sv 1 [(1, 0x80)]) = 128 := by decide +kernel
/-- R148: VEXT sign-extends an integer element; VINS takes the index modulo the count. -/
theorem test_lanes : xAfter 3 (.vext 3 1 2 .int16) (sv 2 [(1, 0x8001)] (st [(2, 128)])) = 0xFFFFFFFFFFFF8001 ∧ eAfter 4 1 3 (.vins 3 1 2 .int32) (st [(1, 9), (2, 65)]) = 9 := by decide +kernel
/-- R163: HVPERM rotates by 256·k2 + 8·xs + k0, xs as a number; HVDIST of complements. -/
theorem test_hyper : (after (.hvperm 1 2 7 31 7) (on base fun t => t.hw 2 1)).t.hr 1 = (1 : HReg) <<< (7 * 256 + 31 * 8 + 7) ∧ xAfter 3 (.hvdist 1 2 3) (on base fun t => t.hw 2 (BitVec.allOnes 8192)) = 8192 := by
  decide +kernel
/-- R258, R259: STF fills an empty word. -/
theorem test_stf : let t := after (.stf 1 2 .plain) { (st [(1, 0x800600000), (2, 5)]) with fullBits := [(0x800600000, false)] }; t.isFull 0x800600000 = true ∧ t.mem.cells = [(0x800600000, 5)] := by decide +kernel
/-- R207: GBAR of a member parks; R206: a second GJOIN answers 2. -/
theorem test_groups : (after (.gbar 3 1) (grouped [1])).t.run = .parked (.barrier 0 15) ∧ xAfter 3 (.gjoin 3 1) (grouped [1]) = 2 := by decide +kernel
/-- R16: CTRSET's 32 bits are read back sign-extended. -/
theorem test_counter : xAfter 3 (.ctrrd 3 15) (after (.ctrset 1 15) (st [(1, 0x80000000)])) = 0xFFFFFFFF80000000 := by decide +kernel
/-- A step of the placed word `addi x3, x0, 5` runs it, and the pc moves past it. -/
theorem test_step : (match step (State.reset.withFetchWord 32 (encode (.addi 3 0 5)).toNat) with | .next t => decide (t.t.xr 3 = 5 ∧ t.t.pc = 0x01001004) | _ => false) = true := by decide +kernel

end Sys2Proof.Tests
end

/-! SUPPORT. The events of a core, its cluster and its homes, and partition reset: what each event does, and the statements
TasksAndCounters, CoreEvents and PartitionResetLeaves settled. -/

namespace Sys2Proof.Machine

/-! ## What the events run -/

theorem exec_registerFill (n : Reg) (s : State) : exec (.registerFill n) s = execRegisterFill n s := rfl
theorem exec_loadDelivery (s : State) : exec .loadDelivery s = execLoadDelivery s := rfl
theorem exec_streamBlockRead (n : Reg) (s : State) : exec (.streamBlockRead n) s = execStreamBlockRead n s := rfl
theorem exec_imctlWrite (w : W64) (s : State) : exec (.imctlWrite w) s = execImctlWrite w s := rfl
theorem exec_lockRetry (n : Nat) (s : State) : exec (.lockRetry n) s = execLockRetry n s := rfl
theorem exec_homeAnswer (n : Nat) (s : State) : exec (.homeAnswer n) s = execHomeAnswer n s := rfl
theorem exec_itemMemorySearch (K : Nat) (s : State) : exec (.itemMemorySearch K) s = execItemMemorySearch K s := rfl
theorem exec_evaluationCompletion (P i : Nat) (s : State) : exec (.evaluationCompletion P i) s = execEvaluationCompletion P i s := rfl
theorem exec_sparkConversion (K : Nat) (s : State) : exec (.sparkConversion K) s = execSparkConversion K s := rfl
theorem exec_translationWalk (C P : Nat) (va : W64) (s : State) : exec (.translationWalk C P va) s = execTranslationWalk C P va s := rfl

/-! ## Register fills (R26) -/

/-- A register in the core's storage counts as used. -/
theorem registerFill_held {s : State} {n : Reg} (ht : s.t.tid ≠ 0) (hm : (s.t.tid, n.val) ∈ (s.core s.t.core).phys) :
    exec (.registerFill n) s = .next (s.setCore s.t.core
      { s.core s.t.core with phys := (s.t.tid, n.val) :: (s.core s.t.core).phys.erase (s.t.tid, n.val) }) := by
  simp only [exec_registerFill, execRegisterFill, if_neg ht, List.contains_iff_mem.mpr hm, if_true]

/-- A register that is not there comes in after 20 cycles, where the storage has room. -/
theorem registerFill_room {s : State} {n : Reg} (ht : s.t.tid ≠ 0) (hm : (s.t.tid, n.val) ∉ (s.core s.t.core).phys)
    (hl : (s.core s.t.core).phys.length < 128) :
    exec (.registerFill n) s = .next ((s.heldFor 20).setCore s.t.core
      { s.core s.t.core with phys := (s.t.tid, n.val) :: (s.core s.t.core).phys }) := by
  simp only [exec_registerFill, execRegisterFill, if_neg ht, List.contains_iff_mem, hm, if_false, physRegs, hl, if_true]
  rfl

/-! ## Loads of a compute phase (R180) -/

theorem loadDelivery_due {s : State} {l : LoadRec} (hl : s.t.loads = [l]) (h : l.left = 0) :
    exec .loadDelivery s = .next { s.putX l.rd l.value with t := { (s.putX l.rd l.value).t with loads := [] } } := by
  rw [← State.xw_eq_putX]
  simp [exec_loadDelivery, execLoadDelivery, hl, h]
theorem loadDelivery_early {s : State} {l : LoadRec} (hl : s.t.loads = [l]) (h : l.left ≠ 0) : exec .loadDelivery s = .next s := by
  have e : { s.t with loads := [l] } = s.t := by rw [← hl]
  simp [exec_loadDelivery, execLoadDelivery, hl, h, e]

/-! ## Streams (R186) -/

theorem streamBlockRead_idle {s : State} {n : Reg} {b : Stream} (hs : s.t.streams.find n.val = some b)
    (h : b.d.out = true ∨ 4 ≤ b.ahead.length ∨ b.nextAhead = none) : exec (.streamBlockRead n) s = .next s := by
  simp only [exec_streamBlockRead, execStreamBlockRead, hs]
  split
  · rfl
  · rename_i hn
    obtain h | h | h := h
    · simp [h] at hn
    · simp [h] at hn
    · simp only [h]

theorem streamBlockRead_reads {s s1 : State} {n : Reg} {b : Stream} {k : Nat} {v : VReg} (hs : s.t.streams.find n.val = some b)
    (ho : b.d.out = false) (hl : b.ahead.length < 4) (hk : b.nextAhead = some k) (hp : b.d.phaseBad k s = false)
    (hr : s.readBlock b.d k = .ok (v, s1)) :
    exec (.streamBlockRead n) s = .next (s1.setStream n.val { b with ahead := b.ahead ++ [v] }) := by
  have hn : ¬ (b.d.out || decide (4 ≤ b.ahead.length)) = true := by simp [ho, hl]
  simp only [exec_streamBlockRead, execStreamBlockRead, hs, if_neg hn, hk, hp, hr, Bool.false_eq_true, if_false]

/-! ## The item memory (R168, R171) -/

/-- IMCTL takes a value from S level of a compute core, where the value is legal. -/
theorem untransStore_imctl (w : W64) (s : State) :
    untransStore 0x800100 w s = if s.t.st.s = true ∧ isOpt s.t.core = false ∧ imctlOk w = true
      then some (s.setCluster (clusterOf s.t.core) { s.cluster (clusterOf s.t.core) with imctl := w }) else none := by
  rw [untransStore, if_neg (by decide), if_pos rfl]
  simp [and_assoc]

theorem imctlWrite_able {s : State} {w : W64} (h : s.t.st.s = true ∧ isOpt s.t.core = false ∧ imctlOk w = true) :
    Completes (.imctlWrite w) s (s.setCluster (clusterOf s.t.core) { s.cluster (clusterOf s.t.core) with imctl := w }) :=
  completes_of_fin (by rw [exec_imctlWrite, execImctlWrite, untransStore_imctl, if_pos h])
theorem imctlWrite_unable {s : State} {w : W64} (h : ¬ (s.t.st.s = true ∧ isOpt s.t.core = false ∧ imctlOk w = true)) :
    Traps (.imctlWrite w) s .access 0x800100 := by
  rw [Traps, exec_imctlWrite, execImctlWrite, untransStore_imctl, if_neg h]

/-! ## One task -/

/-- An event that changes a task by number changes the task that stands under it. -/
theorem State.modTask_of_task {s : State} {n : Nat} {t : Task} (h : s.task n = some t) (f : Task → Task) :
    s.modTask n f = s.setTask (f t) := by
  simp only [State.modTask, h]

theorem lockRetry_of_task {s : State} {t : Task} (h : s.task t.tid = some t) :
    exec (.lockRetry t.tid) s = .next (s.setTask { t with lockWait := false }) := by
  rw [exec_lockRetry, execLockRetry, State.modTask_of_task h]

/-- The scalar registers once an answer has come: a write to x0 is discarded (R36, R216). -/
def Answer.landed (a : Answer) (x : Vector W64 32) : Vector W64 32 :=
  match a.rd with
  | some rd => if rd = 0 then x else x.set rd a.value
  | none => x
theorem takeAnswers_due {s : State} {t : Task} {a : Answer} (ha : t.answers = [a]) (hr : a.regs = []) (h : a.due ≤ s.reads a.clk) :
    s.takeAnswers t = { t with answers := [], x := a.landed t.x } := by
  have hc : s.come a = true := by simp [State.come, h]
  simp only [State.takeAnswers, ha, List.filter, hc, Bool.not_true, Task.takeAll, List.foldl, hr, Answer.landed]
  cases a.rd with
  | none => rfl
  | some rd => dsimp only [Task.xw]; split <;> rfl
theorem takeAnswers_early {s : State} {t : Task} {a : Answer} (ha : t.answers = [a]) (h : s.reads a.clk < a.due) : s.takeAnswers t = t := by
  have hc : s.come a = false := by simp [State.come, h]
  have e : { t with answers := [a] } = t := by rw [← ha]
  simp only [State.takeAnswers, ha, List.filter, hc, Bool.not_false, Task.takeAll, List.foldl, e]

theorem homeAnswer_of_task {s : State} {t : Task} (h : s.task t.tid = some t) :
    exec (.homeAnswer t.tid) s = .next (s.setTask (s.takeAnswers t)) := by
  rw [exec_homeAnswer, execHomeAnswer, State.modTask_of_task h]

/-! ## Searches (R171) -/

theorem badIn_nil (a n : Nat) : badIn [] a n = none := rfl

/-- Without failing words no search meets an error. -/
theorem State.searchMet_sound {s : State} (hb : s.bad = []) (K : Nat) (w : Wake) : s.searchMet K w = s := by
  unfold State.searchMet
  split
  · rw [hb, badIn_nil]; rfl
  · rfl

theorem itemMemorySearch_early {s : State} {K tid : Nat} {h : HReg} {q : W64} {r : List (Nat × HReg × W64)}
    (hs : (s.cluster K).searches = (tid, h, q) :: r) (he : s.issued (8 * K) < (s.cluster K).searchEnd) :
    exec (.itemMemorySearch K) s = .next (s.after (.issue (8 * K)) ((s.cluster K).searchEnd - s.issued (8 * K)) (.itemMemorySearch K)) := by
  simp only [exec_itemMemorySearch, execItemMemorySearch, hs, if_pos he]
theorem itemMemorySearch_held {s : State} {K tid : Nat} {h : HReg} {q : W64} {r : List (Nat × HReg × W64)}
    (hs : (s.cluster K).searches = (tid, h, q) :: r) (he : (s.cluster K).searchEnd ≤ s.issued (8 * K)) (hh : s.searchHeld K q = true) :
    exec (.itemMemorySearch K) s = .next (s.after (.issue (8 * K)) 16 (.itemMemorySearch K)) := by
  simp only [exec_itemMemorySearch, execItemMemorySearch, hs, if_neg (Nat.not_lt.mpr he), hh, if_true]
/-- The oldest search runs and brings its task what it found; the item memory is then busy for the search's cycles. -/
theorem itemMemorySearch_runs {s : State} {K : Nat} {t : Task} {h : HReg} {q : W64} {r : List (Nat × HReg × W64)}
    (ht : s.task t.tid = some t) (hs : (s.cluster K).searches = (t.tid, h, q) :: r) (he : (s.cluster K).searchEnd ≤ s.issued (8 * K))
    (hh : s.searchHeld K q = false) (hb : s.bad = []) :
    exec (.itemMemorySearch K) s = .next ((s.setCluster K
      { s.cluster K with searches := r, searchEnd := s.issued (8 * K) + searchCycles q }).setTask { t with near := some (s.search K h q) }) := by
  simp only [exec_itemMemorySearch, execItemMemorySearch, hs, if_neg (Nat.not_lt.mpr he), hh, Bool.false_eq_true, if_false]
  rw [State.searchMet_sound (by exact hb), State.modTask_of_task (by exact ht)]

/-! ## Entries of the Hatcheck (R82, R94) -/

/-- The bytes of a number above a place are the number that begins there. -/
theorem Memory.readLE_div (m : Memory) (a j n : Nat) : m.readLE a (j + n) / 256 ^ j = m.readLE (a + j) n := by
  induction j generalizing a with
  | zero => rw [Nat.zero_add, Nat.pow_zero, Nat.div_one, Nat.add_zero]
  | succ j ih =>
    rw [show j + 1 + n = j + n + 1 by omega, Memory.readLE, Nat.pow_succ', ← Nat.div_div_eq_div_mul,
      show ((m.byteAt a).toNat + 256 * m.readLE (a + 1) (j + n)) / 256 = m.readLE (a + 1) (j + n) by
        have := (m.byteAt a).isLt; omega, ih, show a + 1 + j = a + (j + 1) by omega]
/-- The bytes of a number below a place are the number that ends there. -/
theorem Memory.readLE_mod (m : Memory) (a j n : Nat) : m.readLE a (j + n) % 256 ^ j = m.readLE a j := by
  induction j generalizing a with
  | zero => rw [Nat.pow_zero, Nat.mod_one]; rfl
  | succ j ih =>
    rw [show j + 1 + n = j + n + 1 by omega, Memory.readLE, Memory.readLE, Nat.pow_succ', Nat.mod_mul,
      show ((m.byteAt a).toNat + 256 * m.readLE (a + 1) (j + n)) % 256 = (m.byteAt a).toNat by
        have := (m.byteAt a).isLt; omega,
      show ((m.byteAt a).toNat + 256 * m.readLE (a + 1) (j + n)) / 256 = m.readLE (a + 1) (j + n) by
        have := (m.byteAt a).isLt; omega, ih]
/-- A doubleword of a 64-byte number is the doubleword in memory. -/
theorem words64_readLE (m : Memory) (a k : Nat) (hk : k < 8) : (words64 (m.readLE a 64)).getD k 0 = m.readLE (a + 8 * k) 8 := by
  have h : (words64 (m.readLE a 64)).getD k 0 = bitsOf (m.readLE a 64) (64 * k) 64 := by simp [words64, hk]
  have split : 64 = 8 * k + (8 + (56 - 8 * k)) := by omega
  calc (words64 (m.readLE a 64)).getD k 0
      = m.readLE a (8 * k + (8 + (56 - 8 * k))) / 256 ^ (8 * k) % 256 ^ 8 := by
        rw [h, ← split, bitsOf, show 256 = 2 ^ 8 from rfl, ← Nat.pow_mul, ← Nat.pow_mul, show 8 * (8 * k) = 64 * k by omega]
    _ = m.readLE (a + 8 * k) 8 := by rw [Memory.readLE_div, Memory.readLE_mod]

theorem le_of_mem_wordCells {a : Nat} {ws : List Nat} {c : Nat × Byte} (h : c ∈ wordCells a ws) : a ≤ c.1 := by
  induction ws generalizing a with
  | nil => cases h
  | cons w r ih =>
    rcases List.mem_append.mp h with h | h
    · exact (mem_leCells h).1
    · have := ih h; omega
/-- A doubleword that was written among others is read. -/
theorem readLE_wordCells {m : Memory} (h : m.wf = true) (a : Nat) (ws : List Nat) (k : Nat) (hk : k < ws.length) :
    (m.setBytes (wordCells a ws)).readLE (a + 8 * k) 8 = ws[k] % 256 ^ 8 := by
  induction ws generalizing m a k with
  | nil => exact absurd hk (Nat.not_lt_zero k)
  | cons w r ih =>
    have hw : (m.setBytes (leCells a 8 w)).wf = true := Memory.wf_setBytes _ h
    rw [wordCells, Memory.setBytes_append]
    cases k with
    | zero =>
      have later : ((m.setBytes (leCells a 8 w)).setBytes (wordCells (a + 8) r)).readLE a 8 = (m.setBytes (leCells a 8 w)).readLE a 8 :=
        Memory.readLE_congr fun j hj => Memory.byteAt_setBytes_of_notMem hw fun c hc => by
          have := le_of_mem_wordCells hc; omega
      exact later.trans (readLE_leCells h a 8 w)
    | succ k =>
      rw [show a + 8 * (k + 1) = a + 8 + 8 * k by omega]
      exact ih hw (a + 8) k (Nat.lt_of_succ_lt_succ hk)

theorem State.withEntry_mem (s : State) (P i : Nat) (e : HEntry) :
    (s.withEntry P i e).mem = s.mem.setBytes (wordCells ((s.part P).entryPa i) e.words) := rfl
theorem State.withEntry_part (s : State) (P i : Nat) (e : HEntry) (Q : Nat) : (s.withEntry P i e).part Q = s.part Q := by
  simp only [State.part, State.withEntry]
@[simp] theorem State.withEntry_evals (s : State) (P i : Nat) (e : HEntry) : (s.withEntry P i e).evals = s.evals := by
  simp only [State.withEntry]
@[simp] theorem State.withEntry_stamp (s : State) (P i : Nat) (e : HEntry) : (s.withEntry P i e).stamp = s.stamp := by
  simp only [State.withEntry]
@[simp] theorem State.countSent_evals (s : State) (c : Nat) : (s.countSent c).evals = s.evals := rfl
@[simp] theorem State.countSent_stamp (s : State) (c : Nat) : (s.countSent c).stamp = s.stamp := rfl
theorem HEntry.charge_ofWords (w : List Nat) : (HEntry.ofWords w).charge = w.getD 6 0 % 2 ^ 32 := by
  simp only [HEntry.ofWords, bitsOf, Nat.pow_zero, Nat.div_one]
theorem HEntry.words_six (e : HEntry) (h : 6 < e.words.length) : e.words[6] = e.seq * 2 ^ 32 + e.charge := rfl

/-- The charge of an entry is read as it was written (R82). -/
theorem charge_hGet_withEntry {s : State} (h : s.mem.wf = true) (P i : Nat) (e : HEntry) :
    ((s.withEntry P i e).hGet P i).charge = e.charge % 2 ^ 32 := by
  have hl : 6 < e.words.length := by simp [HEntry.words]
  have read : (HEntry.ofWords (words64 ((s.withEntry P i e).mem.readLE (((s.withEntry P i e).part P).entryPa i) 64))).charge
      = e.charge % 2 ^ 32 := by
    rw [HEntry.charge_ofWords, words64_readLE _ _ 6 (by decide), State.withEntry_mem, State.withEntry_part, readLE_wordCells h _ _ 6 hl,
      HEntry.words_six, Nat.mod_mod_of_dvd _ (by decide), Nat.mul_add_mod_self_right]
  rw [State.hGet]
  split <;> exact read

/-- Without failing words a write to an entry's home changes memory alone. -/
theorem State.hPut_sound {s : State} (hb : s.bad = []) (P i : Nat) (e : HEntry) : s.hPut P i e = s.withEntry P i e := by
  simp only [State.hPut, State.withEntry, hb, List.filter]
  rfl

theorem uncharge_of_free {s : State} {P i : Nat} (h : (s.hGet P i).charge = 0) : s.uncharge P i = s := by
  simp only [State.uncharge, h, if_true]

/-- An entry without arguments, waiters or charge, and not dead, completes as a VALUE by the write of its own words alone (R94). -/
theorem completeEntry_plain {s : State} {P i : Nat} (hw : s.mem.wf = true) (hb : s.bad = []) (hn : (s.hGet P i).narg = 0)
    (hq : (s.hGet P i).waiter = none) (hd : (s.hGet P i).dead = false) (hc : (s.hGet P i).charge = 0) :
    s.completeEntry P i none = (s.withEntry P i { s.hGet P i with
      state := hVALUE, cause := 0, evtask := 0, evcore := 0, waiter := none, ent := 0 }).countRecv (s.hGet P i).evcore := by
  have ha : (s.hGet P i).args = [] := by rw [HEntry.args, hn]; rfl
  have hws : s.waiters (s.hGet P i) = [] := by rw [State.waiters, hq]; rfl
  have hu : ∀ e : HEntry, e.charge = 0 → (s.withEntry P i e).uncharge P i = s.withEntry P i e := fun e he =>
    uncharge_of_free ((charge_hGet_withEntry hw P i e).trans (by rw [he, Nat.zero_mod]))
  simp only [State.completeEntry, ha, hws, State.hPut_sound hb, State.dropArgs, List.foldl, hd, Bool.false_and, Bool.false_eq_true, if_false,
    sendReady, Option.isSome_none, Option.map_none, Option.getD_none]
  rw [hu _ (by exact hc)]

/-! ## Evaluations (R94, R95) -/

theorem evaluationCompletion_notEval {s : State} {P i : Nat} (h : (s.hGet P i).state ≠ hEVAL) :
    exec (.evaluationCompletion P i) s = .next s := by
  simp only [exec_evaluationCompletion, execEvaluationCompletion, if_pos h]
/-- The entry's evaluation is of the built-in kind: it takes its step where its core runs it and issues. -/
theorem evaluationCompletion_builtin {s : State} {P i : Nat} {v : Eval} (h : (s.hGet P i).state = hEVAL)
    (hv : s.evals.find (s.named (s.hGet P i).evtask) = some v) :
    exec (.evaluationCompletion P i) s = .next (if !v.running then s else if s.goes v.core then s.evalStep (s.named (s.hGet P i).evtask) v
      else s.after (.issue v.core) 1 (.evaluationCompletion P i)) := by
  simp only [exec_evaluationCompletion, execEvaluationCompletion, if_neg (not_not_intro h), hv]
/-- The entry's evaluation is a task: the entry completes once that has retired. -/
theorem evaluationCompletion_call {s : State} {P i : Nat} (h : (s.hGet P i).state = hEVAL)
    (hv : s.evals.find (s.named (s.hGet P i).evtask) = none) :
    exec (.evaluationCompletion P i) s = .next (if (s.task (s.named (s.hGet P i).evtask)).isSome then s
      else if s.completeHeld P i then s.at_ 16 (.evaluationCompletion P i) else s.completeEntry P i none) := by
  simp only [exec_evaluationCompletion, execEvaluationCompletion, if_neg (not_not_intro h), hv]

/-! ## Sparks (R96, R221) -/

/-- A core of the cluster that could convert a spark to a built-in evaluation: idle, with a free evaluation slot. -/
def State.converts (s : State) (K j : Nat) : Bool := s.idle (8 * K + j) && decide ((s.evalsOn (8 * K + j)).length < evalSlots)
/-- The cluster's pool is looked at again in the next cycle of its die. -/
def State.sparkAgain (s : State) (K : Nat) : State := s.after (.die (K / 128)) 1 (.sparkConversion K)
/-- The same where handles are left in the pool. -/
def State.sparkMore (s : State) (K : Nat) (r : List W64) : State := if r = [] then s else s.sparkAgain K

/-- Without units under test or retired, no entry is held and no cluster retired. -/
theorem State.entryHeld_noUnits {s : State} (h : s.pkg.units = []) (P i : Nat) : s.entryHeld P i = false := by
  simp [State.entryHeld, State.underTest, h]
theorem State.clusterRetired_noUnits {s : State} (h : s.pkg.units = []) (K : Nat) : s.clusterRetired K = false := by
  simp [State.clusterRetired, h]
theorem State.entryErr_sound {s : State} (h : s.bad = []) (P i : Nat) : s.entryErr P i = none := by
  rw [State.entryErr, h, badIn_nil]

/-- A built-in evaluation begins on a core with a free slot and room for its Hatbox (R95). -/
theorem startEval_builtin {s : State} {P i core hb : Nat} (prio : Nat) (dm : Option Nat) (hs : s.bad = [])
    (ho : (s.hGet P i).op ≠ SuspOp.call.code) (hl : (s.evalsOn core).length < evalSlots) (hh : s.hatboxRoom P core false = some hb) :
    s.startEval P i core prio dm = some { ((s.withEntry P i { s.hGet P i with
        state := hEVAL, evtask := s.freshTid % 2 ^ 32, evcore := core }).countSent core) with
      evals := s.evals.put s.freshTid { part := P, idx := i, core := core, prio := prio, hatbox := hb, demand := dm, since := s.stamp }
      nextTid := s.freshTid + 1
      stamp := s.stamp + 1 } := by
  have hr : s.evalRoom P core (s.hGet P i).op = true := by simp [State.evalRoom, if_neg ho, hl, hh]
  simp only [State.startEval, hr, Bool.not_true, Bool.false_eq_true, if_false, if_neg ho, hh, Option.map_some, State.hPut_sound hs,
    State.bump, State.countSent_evals, State.countSent_stamp, State.withEntry_evals, State.withEntry_stamp]

section
variable {s : State} {K : Nat} {h : W64} {r : List W64}

theorem sparkConversion_empty (hs : (s.cluster K).sparks = []) : exec (.sparkConversion K) s = .next s := by
  simp only [exec_sparkConversion, execSparkConversion, hs]
theorem sparkConversion_retired (hr : s.clusterRetired K = true) : exec (.sparkConversion K) s = .next s := by
  simp only [exec_sparkConversion, execSparkConversion, hr, if_true]
  split <;> rfl
theorem sparkConversion_held (hs : (s.cluster K).sparks = h :: r) (hr : s.clusterRetired K = false)
    (he : s.entryHeld (hPart h) (hIndex h) = true) : exec (.sparkConversion K) s = .next (s.sparkAgain K) := by
  simp only [exec_sparkConversion, execSparkConversion, hs, hr, he, Bool.false_eq_true, if_false, if_true]
  rfl
/-- No core of the cluster is idle with a free slot: the pool waits. -/
theorem sparkConversion_noCore (hs : (s.cluster K).sparks = h :: r) (hu : s.pkg.units = []) (hn : (List.range 8).find? (s.converts K) = none) :
    exec (.sparkConversion K) s = .next (s.sparkAgain K) := by
  simp only [exec_sparkConversion, execSparkConversion, hs, State.clusterRetired_noUnits hu, State.entryHeld_noUnits hu, Bool.false_eq_true,
    if_false]
  split
  · rfl
  · rename_i j hj
    have able := List.find?_some hj
    rw [Bool.and_eq_true] at able
    exact absurd able.1 (List.find?_eq_none.mp hn j (List.mem_of_find?_eq_some hj))

/-- A handle that names no suspended entry of its generation fizzles. -/
theorem sparkConversion_fizzles {j : Nat} (hs : (s.cluster K).sparks = h :: r) (hb : s.bad = []) (hu : s.pkg.units = [])
    (hj : (List.range 8).find? (s.converts K) = some j)
    (hf : ¬ ((s.hGet (hPart h) (hIndex h)).state = hSUSP ∧ (s.hGet (hPart h) (hIndex h)).gen = hGen h)) :
    exec (.sparkConversion K) s = .next ((s.setCluster K
      { s.cluster K with sparks := r, fizzled := (s.cluster K).fizzled + 1, recv := (s.cluster K).recv + 1 }).sparkMore K r) := by
  have no : ((s.hGet (hPart h) (hIndex h)).state == hSUSP && (s.hGet (hPart h) (hIndex h)).gen == hGen h) = false := by
    simpa only [← Bool.not_eq_true, Bool.and_eq_true, beq_iff_eq] using hf
  have core : (List.range 8).find? (fun j => s.idle (8 * K + j) && decide ((s.evalsOn (8 * K + j)).length < evalSlots)) = some j := hj
  simp only [exec_sparkConversion, execSparkConversion, hs, State.clusterRetired_noUnits hu, State.entryHeld_noUnits hu,
    State.entryErr_sound hb, Option.isNone_none, Bool.true_and, no, Bool.false_and, Bool.not_false, Bool.true_or, Bool.and_true, core,
    Bool.false_eq_true, if_false, List.isEmpty_iff]
  rfl

/-- A handle that names a suspended entry of its generation becomes a built-in evaluation on that core. -/
theorem sparkConversion_converts {j hb : Nat} (hs : (s.cluster K).sparks = h :: r) (hbad : s.bad = []) (hu : s.pkg.units = [])
    (hj : (List.range 8).find? (s.converts K) = some j) (hst : (s.hGet (hPart h) (hIndex h)).state = hSUSP)
    (hg : (s.hGet (hPart h) (hIndex h)).gen = hGen h) (ho : (s.hGet (hPart h) (hIndex h)).op ≠ SuspOp.call.code)
    (hh : s.hatboxRoom (hPart h) (8 * K + j) false = some hb) :
    exec (.sparkConversion K) s = .next (State.sparkMore { (((s.setCluster K
          { s.cluster K with sparks := r, converted := (s.cluster K).converted + 1, recv := (s.cluster K).recv + 1 }).withEntry (hPart h) (hIndex h)
          { s.hGet (hPart h) (hIndex h) with state := hEVAL, evtask := s.freshTid % 2 ^ 32, evcore := 8 * K + j }).countSent (8 * K + j)) with
        evals := s.evals.put s.freshTid
          { part := hPart h, idx := hIndex h, core := 8 * K + j, prio := 0, hatbox := hb, demand := none, since := s.stamp }
        nextTid := s.freshTid + 1
        stamp := s.stamp + 1 } K r) := by
  have susp : ((s.hGet (hPart h) (hIndex h)).state == hSUSP && (s.hGet (hPart h) (hIndex h)).gen == hGen h) = true := by
    rw [hst, hg, beq_self_eq_true, beq_self_eq_true]; rfl
  have builtin : ((s.hGet (hPart h) (hIndex h)).op == SuspOp.call.code) = false := beq_false_of_ne ho
  have core : (List.range 8).find? (fun j => s.idle (8 * K + j) && decide ((s.evalsOn (8 * K + j)).length < evalSlots)) = some j := hj
  have slot : (s.evalsOn (8 * K + j)).length < evalSlots := by
    have able := List.find?_some core
    rw [Bool.and_eq_true] at able
    exact of_decide_eq_true able.2
  simp only [exec_sparkConversion, execSparkConversion, hs, State.clusterRetired_noUnits hu, State.entryHeld_noUnits hu,
    State.entryErr_sound hbad, Option.isNone_none, Bool.true_and, susp, builtin, Bool.and_false, Bool.not_false, Bool.true_or, Bool.and_true, core,
    Bool.false_eq_true, if_false, if_true, List.isEmpty_iff]
  rw [startEval_builtin 0 none (by exact hbad) (by exact ho) (by exact slot) (by exact hh)]
  rfl
end

/-! ## Walks (R286) -/

theorem translationWalk_cached {s : State} {C P : Nat} {va : W64} {q : TlbEntry × List TlbEntry}
    (h : tlbFind P va.toNat (s.cluster (tlbHome C)).tlb = some q) : exec (.translationWalk C P va) s = .next s := by
  simp only [exec_translationWalk, execTranslationWalk, h]
section
variable {s : State} {C P : Nat} {va : W64}
theorem translationWalk_fails {x : Cause} {u : Option Nat} (h : tlbFind P va.toNat (s.cluster (tlbHome C)).tlb = none)
    (hw : s.walk P va.toNat = .error (some x, u)) : exec (.translationWalk C P va) s = .next (s.metError u) := by
  simp only [exec_translationWalk, execTranslationWalk, h, hw]
theorem translationWalk_held {u : Option Nat} (h : tlbFind P va.toNat (s.cluster (tlbHome C)).tlb = none)
    (hw : s.walk P va.toNat = .error (none, u)) :
    exec (.translationWalk C P va) s = .next (s.at_ 16 (.translationWalk C P va)) := by
  simp only [exec_translationWalk, execTranslationWalk, h, hw]
theorem translationWalk_fills {e : TlbEntry} {s1 : State} (h : tlbFind P va.toNat (s.cluster (tlbHome C)).tlb = none)
    (hw : s.walk P va.toNat = .ok (e, s1)) : exec (.translationWalk C P va) s = .next (s1.setCluster (tlbHome C)
      { s1.cluster (tlbHome C) with tlb := (e :: (s1.cluster (tlbHome C)).tlb).take tlbSize }) := by
  simp only [exec_translationWalk, execTranslationWalk, h, hw]
end

/-! ## The statement -/

/-- Settles O52: each clause is what the laws above say of its event. -/
theorem coreEvents : Obligations.CoreEvents := by
  refine ⟨fun s n l b k vr s1 w => ⟨?noTask, fun ht => ⟨?held, ?room⟩, fun hl => ⟨loadDelivery_due hl, loadDelivery_early hl⟩,
    fun hs => ⟨streamBlockRead_idle hs, ?stream⟩, ?imctlTaken, ?imctlRefused⟩, fun s t K ht => ⟨lockRetry_of_task ht, ?answer, ?search⟩,
    fun s s1 K C P i va h r e => ⟨?notEval, fun hev => ⟨fun v hv => ⟨?waits, ?steps, ?still⟩, fun hv => ⟨?living, ?completeHeld, ?completes⟩⟩,
      sparkConversion_empty, sparkConversion_retired, ?sparkHeld, fun hs hc => ⟨?noCore, fun j hj => ⟨?fizzles, ?converts⟩⟩,
      fun q => translationWalk_cached, fun ht => ⟨fun x u => translationWalk_fails ht, fun u => translationWalk_held ht, translationWalk_fills ht⟩⟩⟩
  case noTask => exact fun ht => by simp only [exec_registerFill, execRegisterFill, if_pos ht]
  case held => exact registerFill_held ht
  case room => exact registerFill_room ht
  case stream => exact fun ho hl hk hp hr => streamBlockRead_reads hs ho hl hk hp hr
  case imctlTaken => exact imctlWrite_able
  case imctlRefused => exact imctlWrite_unable
  case answer =>
    refine fun a ha hr => ⟨fun hd => ?_, fun hd => ?_⟩
    · rw [homeAnswer_of_task ht, takeAnswers_due ha hr hd]; rfl
    · rw [homeAnswer_of_task ht, takeAnswers_early ha hd]
  case search =>
    exact fun sought q rest hs => ⟨itemMemorySearch_early hs, itemMemorySearch_held hs, itemMemorySearch_runs ht hs⟩
  case notEval => exact evaluationCompletion_notEval
  case waits => exact fun hr => by rw [evaluationCompletion_builtin hev hv, hr]; rfl
  case steps => exact fun hr hg => by rw [evaluationCompletion_builtin hev hv, hr, hg]; rfl
  case still => exact fun hr hg => by rw [evaluationCompletion_builtin hev hv, hr, hg]; rfl
  case living => exact fun hn => by rw [evaluationCompletion_call hev hv, if_pos hn]
  case completeHeld => exact fun hn hh => by rw [evaluationCompletion_call hev hv, hn, hh]; rfl
  case completes =>
    refine fun hn hh => ⟨by rw [evaluationCompletion_call hev hv, hn, hh]; rfl, fun hw hb _ => ?_⟩
    exact completeEntry_plain hw hb
  case sparkHeld => exact sparkConversion_held
  case noCore => exact sparkConversion_noCore hs hc.2
  case fizzles => exact sparkConversion_fizzles hs hc.1 hc.2 hj
  case converts => exact fun hst hg ho hb hh => sparkConversion_converts hs hc.1 hc.2 hj hst hg ho hh

/-! ## Two statements that fail where a map is out of shape

The state's maps are lists of pairs. A statement about every state is therefore also about lists that name a number twice, and about
tasks that stand under another number than their own. -/

/-- Refutes O43: where a task stands under a number that is not its own, DONE does not leave the focus empty. Task 5 follows the task
that retires, so it is woken by its number; under number 5 stands a blank task, whose own number 0 is that of the empty focus, and the
wake puts it there. The statement does not ask for `State.numbered`, which this state lacks. -/
theorem not_tasksAndCounters : ¬ Obligations.TasksAndCounters := by
  intro h
  obtain ⟨-, -, -, -, -, hdone⟩ := h
  obtain ⟨-, hfocus, -⟩ := hdone
    { t := { tid := 1 }, tasks := [(5, {}), (6, { tid := 5, follow := some { cluster := 0, g := 0, leader := 1, label := 0 } })] }
    ⟨rfl, rfl, rfl, rfl, rfl, rfl, rfl⟩ rfl rfl rfl rfl rfl
  exact absurd (congrArg Task.wake hfocus) (by decide +kernel)

/-- PARTITION_RESET of a partition that exists resets it (R355). -/
theorem exec_partitionReset {s : State} {P : Nat} {p : Part} (cause : Nat) (h : s.parts.find P = some p) :
    exec (.partitionReset P cause) s = .next (s.resetPart P cause) := by
  show execPartitionReset P cause s = _
  rw [execPartitionReset, h, Option.isSome_some, if_pos rfl]

/-- Refutes O54: where the map of cores names core 0 twice, the reset clears the pair that a read finds, and `abandon`, which walks the
list, then meets the other pair, whose queue holds a command of the partition, and puts it back over the core with its count of
messages sent. The statement does not ask that the numbers of the cores rise. -/
theorem not_partitionResetLeaves : ¬ Obligations.PartitionResetLeaves := by
  intro h
  obtain ⟨t, ht, hcores, -⟩ := h
    { parts := [(0, { clusters := [0] })], cores := [(0, {}), (0, { sent := 1, mq := [{ w := [], task := 0, part := 0 }] })] } 0 3
    { clusters := [0] } rfl
  obtain ⟨-, -, -, -, -, -, -, -, -, hsent, -⟩ := hcores 0 (by decide)
  rw [exec_partitionReset 3 rfl] at ht
  obtain rfl := Host.Outcome.next.inj ht
  exact absurd hsent (by decide +kernel)

end Sys2Proof.Machine

/-! SUPPORT. The handle instructions and the homes of their KEEPs and DROPs: what each runs once nothing holds it, and the statements
HandleInstructions and SuspendForceAndSpark settled. -/

namespace Sys2Proof.Machine

/-! ## What the instructions run -/

theorem exec_mkval (rd ra rb : Reg) (s : State) : exec (.mkval rd ra rb) s = execMkval rd ra rb s := rfl
theorem exec_peek (rd ra : Reg) (s : State) : exec (.peek rd ra) s = execPeek rd ra s := rfl
theorem exec_keep (ra : Reg) (s : State) : exec (.keep ra) s = execKeep ra s := rfl
theorem exec_drop (ra : Reg) (s : State) : exec (.drop ra) s = execDrop ra s := rfl
theorem exec_budget (rd ra : Reg) (mode : BudgetMode) (s : State) : exec (.budget rd ra mode) s = execBudget rd ra mode s := rfl
theorem exec_handleHomeCheck (tid : Nat) (h : W64) (keep : Bool) (s : State) :
    exec (.handleHomeCheck tid h keep) s = execHandleHomeCheck tid h keep s := rfl

/-! ## The gate (R84, R90, R252) -/

theorem acquired_free {s : State} {k : State → Out} (h : s.t.acquires = false) : acquired s k = k s := by
  rw [acquired, h, if_neg Bool.false_ne_true]

/-- Instructions that the checks of R33 treat alike are ready alike. -/
theorem State.handleReady.of_check_eq {s : State} {i j : Instr} (h : s.handleReady i) (hc : check j s = check i s) : s.handleReady j :=
  ⟨hc.trans h.1, h.2⟩

/-- Nothing holds a handle instruction that is ready. -/
theorem handleGate_ready {i : Instr} {a : W64} {s : State} {k : State → Out} (h : s.handleReady i) : handleGate i a s k = k s := by
  obtain ⟨hc, -, hp, ho, hr, -, ha, -⟩ := h
  rw [handleGate, gate_pass hc, noCompute_pass hp, if_neg (not_not_intro ho), acquired_free ha, takeHandle_none hr]
/-- A KEEP or DROP on its way holds it (R84). -/
theorem handleGate_ops {i : Instr} {a : W64} {s : State} {k : State → Out} (hc : check i s = none) (hp : s.rd.st.ph ≠ .c)
    (ho : s.t.handleOps ≠ []) : handleGate i a s k = stall s := by
  rw [handleGate, gate_pass hc, noCompute_pass hp, if_pos ho]
/-- A deferred report comes before it (R90). -/
theorem handleGate_report {i : Instr} {a h : W64} {s : State} {k : State → Out} (hc : check i s = none) (hp : s.rd.st.ph ≠ .c)
    (ho : s.t.handleOps = []) (hi : s.t.seq.items = []) (hb : s.t.seq.busy = false) (ha : s.t.acquires = false)
    (hr : s.t.handleReport = some h) :
    handleGate i a s k = raise .handle h { s with t := { s.t with handleReport := none } } := by
  have empty : s.t.seqEmpty = true := by rw [Task.seqEmpty, hi, hb]; rfl
  rw [handleGate, gate_pass hc, noCompute_pass hp, if_neg (not_not_intro ho), acquired_free ha]
  simp only [takeHandle, hr, empty, if_true]

/-- The instructions that wait for their home all begin with the gate. -/
theorem exec_eq_handleGate {i : Instr} {rd ra rb : Reg} {mode : BudgetMode} {op : SuspOp}
    (h : i ∈ [.mkval rd ra rb, .peek rd ra, .budget rd ra mode, .force rd ra, .spark rd ra, .susp rd ra rb op]) (s : State) :
    ∃ a k, exec i s = handleGate i a s k := by
  simp only [List.mem_cons, List.not_mem_nil, or_false] at h
  rcases h with rfl | rfl | rfl | rfl | rfl | rfl <;> exact ⟨_, _, rfl⟩

/-! ## How a handle instruction ends -/

/-- A word that ends by writing a scalar register and holds the next unit for n cycles (R383). -/
theorem setsX_of_finAfter {i : Instr} {s u : State} {rd : Reg} {v : W64} {n : Nat} (h : exec i s = finAfter n (u.xw rd v)) :
    SetsX i s (u.heldFor n) rd v := by
  rw [SetsX, Completes, h, finAfter, fin, State.xw_eq_putX]; rfl

/-! ## CheckHandle (R81) -/

theorem State.controlHeld_noUnits {s : State} (h : s.pkg.units = []) (P : Nat) : s.controlHeld P = false := by
  simp [State.controlHeld, State.underTest, h]
theorem State.dropHeld_noUnits {s : State} (h : s.pkg.units = []) (P i : Nat) : s.dropHeld P i = false := by
  simp [State.dropHeld, h]
/-- A check that fails raises HANDLE with the handle. -/
theorem State.checkHandle_error {s : State} {P : Nat} {h : W64} {x : Trap} (hx : s.checkHandle P h = .error x) : x = (.handle, h) := by
  rw [State.checkHandle] at hx
  split at hx
  · cases hx
  · exact (Except.error.inj hx).symm

section
variable {s : State} {h : W64} {k : Nat → State → Out}
/-- Without failing words and units under test, only the check itself decides. -/
theorem withHandle_ok {i : Nat} (hb : s.bad = []) (hu : s.pkg.units = []) (hc : s.checkHandle s.t.part h = .ok i) :
    withHandle h s k = k i s := by
  simp [withHandle, State.entryHeld_noUnits hu, State.entryErr_sound hb, hc]
theorem withHandle_error {x : Trap} (hb : s.bad = []) (hu : s.pkg.units = []) (hc : s.checkHandle s.t.part h = .error x) :
    withHandle h s k = raise .handle h s := by
  obtain rfl := State.checkHandle_error hc
  simp [withHandle, State.entryHeld_noUnits hu, State.entryErr_sound hb, hc]
end

/-! ## MKVAL (R86, R87) -/

theorem takeFree_bad {s s1 : State} {P i : Nat} (h : s.takeFree P = some (i, s1)) : s1.bad = s.bad := by
  simp only [State.takeFree] at h
  split at h
  · obtain ⟨-, rfl⟩ := Prod.mk.inj (Option.some.inj h); rfl
  · split at h
    · obtain ⟨-, rfl⟩ := Prod.mk.inj (Option.some.inj h); rfl
    · cases h

/-- An entry that is taken keeps its generation where no word fails. -/
theorem State.takenGen_sound {s : State} (hb : s.bad = []) (P i : Nat) : s.takenGen P i = ((s.hGet P i).gen, s) := by
  rw [State.takenGen, State.entryErr_sound hb]

section
variable {s : State} {rd ra rb : Reg}
theorem mkval_align (h : s.handleReady (.mkval rd ra rb)) (ha : (s.xr ra).toNat % 64 ≠ 0) :
    Traps (.mkval rd ra rb) s .align (s.xr ra) := by
  rw [Traps, exec_mkval, execMkval, handleGate_ready h, if_pos ha]
theorem mkval_shape (h : s.handleReady (.mkval rd ra rb)) (ha : (s.xr ra).toNat % 64 = 0) (hs : shapeOk (s.xr rb).toNat false = false) :
    Traps (.mkval rd ra rb) s .illegal (s.xr rb) := by
  rw [Traps, exec_mkval, execMkval, handleGate_ready h, if_neg (not_not_intro ha), hs, Bool.not_false, if_pos rfl]
/-- No entry is free. -/
theorem mkval_full (h : s.handleReady (.mkval rd ra rb)) (ha : (s.xr ra).toNat % 64 = 0) (hs : shapeOk (s.xr rb).toNat false = true)
    (hf : s.takeFree s.t.part = none) : Traps (.mkval rd ra rb) s .handle (BitVec.allOnes 64) := by
  rw [Traps, exec_mkval, execMkval, handleGate_ready h, if_neg (not_not_intro ha), hs, Bool.not_true, if_neg Bool.false_ne_true, hf]
/-- The free entry becomes a VALUE, with the next sequence number. -/
theorem mkval_makes {i : Nat} {s1 : State} (h : s.handleReady (.mkval rd ra rb)) (ha : (s.xr ra).toNat % 64 = 0)
    (hs : shapeOk (s.xr rb).toNat false = true) (hf : s.takeFree s.t.part = some (i, s1)) :
    let g := (s1.hGet s.t.part i).gen
    SetsX (.mkval rd ra rb) s
      (((s1.setPart s.t.part { s1.part s.t.part with hcSeq := (s1.part s.t.part).hcSeq + 1 }).withEntry s.t.part i
        { HEntry.shaped (s.xr rb).toNat with gen := g, state := hVALUE, root := true, vaddr := bitsOf (s.xr ra).toNat 0 56, refcnt := 1,
                                             seq := (s1.part s.t.part).hcSeq.toNat }).heldFor
          (s.controlStep s.t.core s.t.part + s.homeStep s.t.core s.t.part i)) rd (mkHandle s.t.part g i) := by
  obtain ⟨-, -, -, -, -, -, -, hb, hu⟩ := id h
  have hb1 : s1.bad = [] := (takeFree_bad hf).trans hb
  refine setsX_of_finAfter ?_
  rw [exec_mkval, execMkval, handleGate_ready h, if_neg (not_not_intro ha), hs, Bool.not_true, if_neg Bool.false_ne_true, hf]
  simp only [State.controlHeld_noUnits hu, State.entryHeld_noUnits hu, Bool.or_self, Bool.false_eq_true, if_false, State.takenGen_sound hb1,
    State.nextSeq]
  rw [State.hPut_sound (by exact hb1)]
end

/-! ## PEEK, KEEP, DROP and BUDGET (R89, R90, R97) -/

section
variable {s : State} {ra : Reg}
theorem peek_reads {rd : Reg} {i : Nat} (h : s.handleReady (.peek rd ra)) (hc : s.checkHandle s.t.part (s.xr ra) = .ok i) :
    SetsX (.peek rd ra) s (s.heldFor (s.homeStep s.t.core s.t.part i)) rd
      (BitVec.ofNat 64 ((s.hGet s.t.part i).refcnt * 2 ^ 32 + (s.hGet s.t.part i).state)) := by
  obtain ⟨-, -, -, -, -, -, -, hb, hu⟩ := id h
  exact setsX_of_finAfter (by rw [exec_peek, execPeek, handleGate_ready h, withHandle_ok hb hu hc])
theorem peek_refused {rd : Reg} {x : Trap} (h : s.handleReady (.peek rd ra)) (hc : s.checkHandle s.t.part (s.xr ra) = .error x) :
    Traps (.peek rd ra) s .handle (s.xr ra) := by
  obtain ⟨-, -, -, -, -, -, -, hb, hu⟩ := id h
  rw [Traps, exec_peek, execPeek, handleGate_ready h, withHandle_error hb hu hc]

/-- A KEEP or DROP whose handle is well shaped is on its way to the home. -/
theorem countRef_sends {i : Instr} {keep : Bool} (h : s.handleReady i)
    (hs : handleShape (s.xr ra) s.t.part (s.part s.t.part).hcCapacity = true) :
    countRef i ra keep s = .next (State.ended
      (State.after { s with stamp := s.stamp + 1, t := { s.t with handleOps := [(s.stamp, s.xr ra, keep)] } } (dieClk s.t.core)
        (s.homeStep s.t.core s.t.part (hIndex (s.xr ra))) (.handleHomeCheck s.t.tid (s.xr ra) keep))) := by
  obtain ⟨hc, -, hp, ho, -, -, ha, -⟩ := h
  rw [countRef, gate_pass hc, noCompute_pass hp, acquired_free ha]
  simp only [hs, Bool.not_true, Bool.false_eq_true, if_false, ho, List.nil_append]
  rfl
theorem countRef_refused {i : Instr} {keep : Bool} (h : s.handleReady i)
    (hs : handleShape (s.xr ra) s.t.part (s.part s.t.part).hcCapacity = false) : countRef i ra keep s = raise .handle (s.xr ra) s := by
  obtain ⟨hc, -, hp, -, -, -, ha, -⟩ := h
  rw [countRef, gate_pass hc, noCompute_pass hp, acquired_free ha]
  simp only [hs, Bool.not_false, if_true]

theorem budget_sets {rd : Reg} {mode : BudgetMode} (h : s.handleReady (.budget rd ra mode)) :
    SetsX (.budget rd ra mode) s
      (((s.setPart s.t.part { s.part s.t.part with hcBound := s.xr ra, hcMode := mode.code }).budgetMoved s.t.part).heldFor
        (s.controlStep s.t.core s.t.part)) rd (BitVec.ofNat 64 (s.part s.t.part).hcTotal) := by
  obtain ⟨-, -, -, -, -, -, -, -, hu⟩ := id h
  refine setsX_of_finAfter ?_
  rw [exec_budget, execBudget, handleGate_ready h]
  simp only [State.controlHeld_noUnits hu, Bool.false_eq_true, if_false]
end

theorem wakeBudget_of_none {P : Nat} {l : List Task} (h : ∀ x ∈ l, ∀ d, x.run ≠ .parked (.budget P d)) (s : State) : wakeBudget P l s = s := by
  induction l generalizing s with
  | nil => rfl
  | cons x r ih =>
    have here := h x List.mem_cons_self
    rw [wakeBudget, ih fun y hy => h y (List.mem_cons_of_mem x hy)]
    split
    · rename_i p d hr
      exact if_neg fun (e : p = P) => here d (e ▸ hr)
    · rfl
/-- Where no SUSP is parked for the budget, a new bound wakes nothing. -/
theorem State.budgetMoved_of_none {s : State} {P : Nat} (h : ∀ x ∈ s.allTasks, ∀ d, x.run ≠ .parked (.budget P d)) : s.budgetMoved P = s := by
  simp only [State.budgetMoved, wakeBudget_of_none h, ite_self]

/-! ## At the entry's home (R90, R91) -/

@[simp] theorem State.setTask_bad (s : State) (t : Task) : (s.setTask t).bad = s.bad := by
  simp only [State.setTask]; split <;> rfl
@[simp] theorem State.setTask_mem (s : State) (t : Task) : (s.setTask t).mem = s.mem := by
  simp only [State.setTask]; split <;> rfl
@[simp] theorem State.setTask_part (s : State) (t : Task) (P : Nat) : (s.setTask t).part P = s.part P := by
  simp only [State.setTask]; split <;> rfl
@[simp] theorem State.setTask_hGet (s : State) (t : Task) (P i : Nat) : (s.setTask t).hGet P i = s.hGet P i := by
  simp only [State.hGet, State.setTask_mem, State.setTask_part]

section
variable {s : State} {t : Task} {n : Nat} {h : W64} {keep : Bool} {rest : List (Nat × W64 × Bool)}
/-- The oldest operation of a task reaches its home: the outcome of the check there decides. -/
theorem handleHomeCheck_oldest (ht : s.task t.tid = some t) (ho : t.handleOps = (n, h, keep) :: rest) (hb : s.bad = [])
    (hu : s.pkg.units = []) :
    let ok := s.hLive (hPart h) h && (keep || (s.hGet (hPart h) (hIndex h)).refcnt != 0)
    let u := s.setTask (t.opDone (n, h, keep) ok)
    exec (.handleHomeCheck t.tid h keep) s = .next (if !ok then u else if keep then
      u.hPut (hPart h) (hIndex h) { s.hGet (hPart h) (hIndex h) with refcnt := refUp (s.hGet (hPart h) (hIndex h)).refcnt }
      else u.hDrop (hPart h) (hIndex h)) := by
  have sent : t.sentOp h keep = some (n, h, keep) := by simp [Task.sentOp, ho]
  have first : t.handleOps.takeWhile (· != (n, h, keep)) = [] := by simp [ho]
  simp only [exec_handleHomeCheck, execHandleHomeCheck, ht, sent, first, List.any_nil, Bool.false_eq_true, if_false,
    State.dropHeld_noUnits hu, State.entryErr_sound hb, Option.isNone_none, Bool.true_and, State.metError]
  split <;> rfl

theorem Task.opDone_ok (ho : t.handleOps = (n, h, keep) :: rest) : t.opDone (n, h, keep) true = { t with handleOps := rest } := by
  simp [Task.opDone, ho]
theorem Task.opDone_failed (ho : t.handleOps = (n, h, keep) :: rest) : t.opDone (n, h, keep) false =
    if t.handleReport.isSome ∧ t.reportAt < n then { t with handleOps := rest }
    else { t with handleOps := rest, handleReport := some h, reportAt := n } := by
  simp [Task.opDone, ho]

theorem handleHomeCheck_keep (ht : s.task t.tid = some t) (ho : t.handleOps = (n, h, true) :: rest) (hb : s.bad = [])
    (hu : s.pkg.units = []) (hl : s.hLive (hPart h) h = true) :
    exec (.handleHomeCheck t.tid h true) s = .next ((s.setTask { t with handleOps := rest }).withEntry (hPart h) (hIndex h)
      { s.hGet (hPart h) (hIndex h) with refcnt := refUp (s.hGet (hPart h) (hIndex h)).refcnt }) := by
  rw [handleHomeCheck_oldest ht ho hb hu]
  simp only [hl, Bool.true_or, Bool.and_self, Bool.not_true, Bool.false_eq_true, if_false, if_true, Task.opDone_ok ho]
  rw [State.hPut_sound (by rw [State.setTask_bad, hb])]
theorem handleHomeCheck_drop (ht : s.task t.tid = some t) (ho : t.handleOps = (n, h, false) :: rest) (hb : s.bad = [])
    (hu : s.pkg.units = []) (hl : s.hLive (hPart h) h = true) (hr : (s.hGet (hPart h) (hIndex h)).refcnt ≠ 0) :
    exec (.handleHomeCheck t.tid h false) s = .next ((s.setTask { t with handleOps := rest }).hDrop (hPart h) (hIndex h)) := by
  have counted : ((s.hGet (hPart h) (hIndex h)).refcnt != 0) = true := bne_iff_ne.mpr hr
  rw [handleHomeCheck_oldest ht ho hb hu]
  simp only [hl, counted, Bool.false_or, Bool.and_self, Bool.not_true, Bool.false_eq_true, if_false, Task.opDone_ok ho]
/-- A check that fails changes nothing but the task's own record. -/
theorem handleHomeCheck_failed (ht : s.task t.tid = some t) (ho : t.handleOps = (n, h, keep) :: rest) (hb : s.bad = [])
    (hu : s.pkg.units = []) (hf : s.hLive (hPart h) h = false ∨ keep = false ∧ (s.hGet (hPart h) (hIndex h)).refcnt = 0) :
    exec (.handleHomeCheck t.tid h keep) s = .next (s.setTask (if t.handleReport.isSome ∧ t.reportAt < n
      then { t with handleOps := rest } else { t with handleOps := rest, handleReport := some h, reportAt := n })) := by
  have fails : (s.hLive (hPart h) h && (keep || (s.hGet (hPart h) (hIndex h)).refcnt != 0)) = false := by
    obtain hl | ⟨hk, hr⟩ := hf
    · rw [hl, Bool.false_and]
    · rw [hk, hr]; exact Bool.and_false _
  rw [handleHomeCheck_oldest ht ho hb hu]
  simp only [fails, Bool.not_false, if_true, Task.opDone_failed ho]
end

section
variable {s : State} {P i : Nat}
/-- A reference of several is dropped: REFCNT alone falls. -/
theorem hDrop_several (hb : s.bad = []) (h1 : 1 < (s.hGet P i).refcnt) (ht : (s.hGet P i).refcnt ≠ refTop) :
    s.hDrop P i = s.withEntry P i { s.hGet P i with refcnt := (s.hGet P i).refcnt - 1 } := by
  have counts : ¬ ((s.hGet P i).refcnt = 0 ∨ (s.hGet P i).refcnt = refTop) := not_or.mpr ⟨by omega, ht⟩
  simp only [State.hDrop, State.dropRef, if_neg counts, if_pos h1, State.hPut_sound hb]
/-- The last reference to a VALUE is dropped: the entry is freed. -/
theorem hDrop_last_value (hb : s.bad = []) (h1 : (s.hGet P i).refcnt = 1) (hv : (s.hGet P i).state = hVALUE) :
    s.hDrop P i = (s.withEntry P i { s.hGet P i with refcnt := 0 }).hFree P i := by
  simp only [State.hDrop, State.dropRef, h1, hv, State.hPut_sound hb]
  rfl
end

/-! ## The statements -/

/-- Settles O35: the instructions once nothing holds them, what comes before them, and the check at the entry's home. -/
theorem handleInstructions : Obligations.HandleInstructions := by
  refine ⟨fun s rd ra rb mode hs => ⟨?makes, mkval_align hs, mkval_shape hs, mkval_full hs,
      fun i => peek_reads (hs.of_check_eq rfl), fun x => peek_refused (hs.of_check_eq rfl), ?counts,
      ⟨budget_sets (hs.of_check_eq rfl), State.budgetMoved_of_none⟩⟩, ?order,
    fun s t n h keep rest ht ho hb hu => ⟨?kept, fun hl hk => ⟨?several, ?last⟩, handleHomeCheck_failed ht ho hb hu⟩⟩
  case makes =>
    intro ha hw i s1 hf
    have made := mkval_makes hs ha hw hf
    simp only [HEntry.shaped, bitsOf, Nat.pow_zero, Nat.div_one] at made
    exact made
  case counts =>
    intro i hi
    simp only [List.mem_cons, List.not_mem_nil, or_false] at hi
    obtain rfl | rfl := hi
    · exact ⟨countRef_sends (hs.of_check_eq rfl), countRef_refused (hs.of_check_eq rfl)⟩
    · exact ⟨countRef_sends (hs.of_check_eq rfl), countRef_refused (hs.of_check_eq rfl)⟩
  case order =>
    intro s rd ra rb mode op hp i hi hc
    obtain ⟨a, k, e⟩ := exec_eq_handleGate hi s
    rw [e]
    exact ⟨handleGate_ops hc hp, fun h => handleGate_report hc hp⟩
  case kept =>
    rintro hl rfl
    exact handleHomeCheck_keep ht ho hb hu hl
  case several =>
    intro h1 htop
    subst hk
    rw [handleHomeCheck_drop ht ho hb hu hl (by omega), hDrop_several (by rw [State.setTask_bad, hb]) (by rwa [State.setTask_hGet])
      (by rwa [State.setTask_hGet]), State.setTask_hGet]
  case last =>
    intro h1 hv
    subst hk
    rw [handleHomeCheck_drop ht ho hb hu hl (by omega), hDrop_last_value (by rw [State.setTask_bad, hb]) (by rwa [State.setTask_hGet])
      (by rwa [State.setTask_hGet]), State.setTask_hGet]

/-- No task is in focus, though the core where one would be is core 1. Partition 0 has room for Hatboxes, and its entry 0, whose handle is 0,
is suspended. -/
def emptyFocus : State :=
  { t := { core := 1 }, parts := [(0, { hcFresh := 1, hbn := 1 })], mem := { cells := [(69, 64)] } }

/-- Refutes O36: with no task in focus, FORCE of a suspended entry on core 1 leaves a waiter that names core 0. The statement asks for the
core that stands in the focus, but AddWaiter looks a waiter's core up by its number, and 0 is no task's (R8, R93). -/
theorem not_suspendForceAndSpark : ¬ Obligations.SuspendForceAndSpark := by
  intro h
  obtain ⟨hforce, -⟩ := h
  have ready : emptyFocus.handleReady (.force 3 1) := ⟨rfl, by decide, by decide, rfl, rfl, rfl, rfl, rfl, rfl⟩
  have checked : emptyFocus.checkHandle 0 0 = .ok 0 := if_pos (by decide +kernel)
  obtain ⟨-, -, hsuspended, -⟩ := hforce emptyFocus 3 1 0 ready checked
  obtain ⟨-, hparks⟩ := hsuspended (by decide +kernel)
  have begins := startEval_builtin (s := emptyFocus) (P := 0) (i := 0) (core := 1) (hb := 0xF00000000000) 0 (some 0) rfl
    (by decide +kernel) (by decide +kernel) (by decide +kernel)
  obtain ⟨-, hentry⟩ := hparks (by decide +kernel) _ begins
  exact absurd (congrArg HEntry.waiter (hentry (by decide +kernel) (by decide) (by decide))) (by decide +kernel)

end Sys2Proof.Machine
